-- ==== Sys2Proof/Word.lean ====
section
/-! DEFINITION. The word types: a byte (the unit of every memory and packet, R375) and a FP32 bit pattern. -/

namespace Sys2Proof

/-- A byte, the unit of every memory and packet (R375). -/
abbrev Byte := BitVec 8

/-- The bits of an IEEE 754 binary32 value (R293, type F32). -/
abbrev F32 := BitVec 32

end Sys2Proof
end

