-- ==== Sys2Proof/Syntax.lean ====
section
/-!
DEFINITION. The commands the engine takes: one constructor for every row of spec/opcode_table.json, with the operands
the row's event brings from outside (the request's fields, the packet that arrives, what a monitor found). What the
engine already holds is never an operand: a command of the sequencer or of a timer reads it from the state.
-/

namespace Sys2Proof

/-- The paths that reach the object dictionary: MCTP (R302), the object port or mailbox (R305, R306), a doorbell (R305); and one
plain access of a register of the window (R304). -/
inductive Path where
  | mctp | port | doorbell | window
deriving DecidableEq, Repr

/-- How a request comes. Over MCTP (R302, R303): Table 12-7's TAG (a control message's instance ID), the packets' message tag,
the SOM and EOM flags of its packets in the order in which they came, the requests queued when the last came. In band (R304,
R305): whether the port still showed BUSY for the access before. -/
structure ReqTag where
  tag : Byte
  mtag : BitVec 3
  flags : List (Bool × Bool)
  queued : Nat
  busy : Bool
deriving DecidableEq, Repr

/-- A dictionary request: the fields of Table 12-7 with its data, and for MCTP the message's IC bit and enterprise
number (R302), and its OP where that is a reserved one. In band, `rsv` holds the reserved bits of OA_ADDR or MB_ADDR. On the
path `window`, `offset` is the register's, `data` what is written, `len` the bytes to read. -/
structure OdReq where
  path : Path
  ic : Bool
  iana : BitVec 32
  tag : ReqTag
  badOp : Option Byte
  rsv : Byte
  index : BitVec 16
  sub : BitVec 8
  len : BitVec 16
  offset : BitVec 32
  data : List Byte
deriving DecidableEq, Repr

/-- A packet: its header (32 bytes) and its payload. -/
structure Packet where
  hdr : BitVec 256
  payload : List Byte
deriving DecidableEq, Repr

/-- What the checks of R174, R175 and R222 find about an arriving packet's words and the pointers it updates. -/
inductive Arrival where
  | clean
  | parity
  | listPointer
  | freePointer
deriving DecidableEq, Repr

/-- A cancel notice: the fields R181 gives it. -/
structure Notice where
  stepId : BitVec 32
  batch : BitVec 12
  place : BitVec 16
  e : BitVec 13
  group : BitVec 8
deriving DecidableEq, Repr

/-- How a packet reaches the hearth pool (R165, R172): from the own bellows over the internal path, from the peer, or
as a fabric POOL_STORE carrying a packet or a cancel notice (Table 8-1). -/
inductive PoolVia where
  | own
  | peer (p : Packet)
  | fab (req : BitVec 256) (p : Packet) (cacheReadError : Bool)
  | fabNotice (req : BitVec 256) (n : Notice) (cacheReadError : Bool)
deriving DecidableEq, Repr

/-- How a return reaches the flue (R221): over the internal path, the peer path, or the gateway. -/
inductive FlueVia where
  | own
  | peer (p : Packet)
  | gate (p : Packet)
deriving DecidableEq, Repr

/-- How an answer to a request or packet comes back: a fabric reply, the peer path's answer to a packet (R168), a replay
request relayed through the gateway (R207). A packet's answer names it by its header. -/
inductive ReplyVia where
  | fab (hdr : BitVec 256) (data : List Byte)
  | peer (hdr : BitVec 256) (status : BitVec 4)
  | gate (hdr : BitVec 256) (status : BitVec 4)
deriving DecidableEq, Repr

/-- A pair whose reductions an acknowledgement concerns: its scoring engine, key, entry and position (R228). -/
structure PairRef where
  scorer : BitVec 17
  stepId : BitVec 32
  batch : BitVec 12
  entry : BitVec 19
  pos : BitVec 5
deriving DecidableEq, Repr

/-- What a peer's forwarded host input is (R60). -/
inductive PeerInput where
  | verdict (word : BitVec 64) (timely : Bool)
  | verdictTimeout (stepId : BitVec 32) (batch : BitVec 12)
  | cancel (word : BitVec 64)
  | seed (v : BitVec 64)
  | mask (addr : BitVec 64) (len : BitVec 32)
deriving DecidableEq, Repr

/-- The content of a scan message (R249), each part where the message carries it: one count for each instance of the
placement, in ascending instance ID (subtree totals going up, the subtree's exclusive offset going down), the group's totals
in the same form, the variant or cancel of R63, a refusal marker with the refusing member's status (R49). -/
structure ScanBody where
  counts : Option (List (BitVec 32))
  totals : Option (List (BitVec 32))
  variant : Option (BitVec 4)
  marker : Option Byte
deriving DecidableEq, Repr

/-- The content of a collective message (R247, R256, R266, R279). -/
inductive CollBody where
  | arrive
  | release (time : Option Nat)
  | stats (block : List Byte)
  | stream (bytes : List Byte)
  | vote (passed : Bool) (crc : BitVec 32)
  | decision (commit : Bool)
deriving DecidableEq, Repr

/-- The direction of a message on a group's tree (R247). -/
inductive TreeDir where
  | up | down
deriving DecidableEq, Repr

/-- A path of the bellows (R165, R166). -/
inductive DispPath where
  | own | peer | fab0 | fab1 | gate
deriving DecidableEq, Repr

/-- The protected arrays (R343, R109, R160, R267), and the external regions whose uncorrectable reads the NoC reports. -/
inductive ArrayId where
  | ledger | stash | pool | poolLink | hist | routerBank | ownerTable | tensorTable | groupTable | placement
  | tableStore | hobContext | tagState | sootLog | collCore | walkCounters | staging | ledgerExt | routeRecord
  | replyCache | candidates | logWrite | digestState
  /-- Not an error of a word: the two copies of a pool pointer have come to differ (R175). Its index is 4 × queue + class for a
  list, 8,192 for the free list (log entry 32). -/
  | poolPointer
deriving DecidableEq, Repr

/-- An error found in a word of an array: the array, the word (log entry 32), whether two bits of it are wrong, the syndrome. -/
structure ScrubError where
  array : ArrayId
  index : Nat
  double : Bool
  syndrome : BitVec 32
deriving DecidableEq, Repr

/-- Why the peer is taken as lost (R30, R324). -/
inductive PeerFate where
  | silent | faulted | banked
deriving DecidableEq, Repr

/-- Where a barrier arrival comes from (R31): the peer of this package, or another package of the tray. -/
inductive ArrivalFrom where
  | peer
  | package (pkg : BitVec 3)
deriving DecidableEq, Repr

/-- The commands. -/
inductive Instr where
  -- power, reset and kindling
  | powerGood (location : BitVec 32) (eng grade14 : Bool)
  | powerRemoved
  | packageReset
  | referenceCheck (fail : Option (BitVec 24))
  | nodeIdFormed (lockstepFail : Option (BitVec 24))
  | marchTest (fail : Option (BitVec 24))
  | romLoads (fail : Option (BitVec 24 × BitVec 32))
  | unitSelfTests (fail : Option (BitVec 24)) (pipePair : Option (BitVec 16))
  | persistRestore
  | dieLinkTraining (fail : Option (BitVec 24))
  | lpddrTraining (fail : Option (BitVec 24))
  | packageBarrier (peerRole : Byte)
  | packageBarrierTimeout
  | trayMasterListenEnd
  | presencePulseTimer (nearStep : Bool)
  | presencePulse (high : Nat) (ownDriven : Bool)
  | trayBarrierTimeout
  | bank (path : Path) (tag : ReqTag)
  | unbank (path : Path) (tag : ReqTag)
  | unbankReady
  | reset (path : Path) (tag : ReqTag)
  -- the sequencer
  | start (path : Path) (tag : ReqTag)
  | startBarrierRelease
  | skip (path : Path) (tag : ReqTag)
  | retry (path : Path) (tag : ReqTag)
  | abort (path : Path) (tag : ReqTag)
  | step
  | loop
  | mark
  | halt
  | haltRetired
  | collBarrier
  | collFusedBarrier
  | collStats
  | statsBegin
  | collRouteGather
  | collRouteRestore
  | inputPlacementCommit
  | inputRbankLoad
  | inputSeed
  | inputSkipMask
  | inputFtabLoad
  -- host inputs
  | verdict (path : Path) (tag : ReqTag) (word : BitVec 64)
  | verdictTimeout
  | hostCancel (path : Path) (tag : ReqTag) (word : BitVec 64)
  | hostInputForward (input : PeerInput)
  | rbankFullLoad (path : Path) (tag : ReqTag) (ctrl : Byte)
  | rbankHeaderLoad (path : Path) (tag : ReqTag) (ctrl : Byte)
  | rbankLoadDone (unreadable : Bool)
  | ftabLoad (path : Path) (tag : ReqTag) (ctrl : Byte)
  | ftabLoadDone
  | noiseSeedWrite (path : Path) (tag : ReqTag) (v : BitVec 64)
  | skipMaskGo (path : Path) (tag : ReqTag) (ctrl : Byte)
  | placeGo (path : Path) (tag : ReqTag) (ctrl : Byte)
  | placeCommitBegin
  | placeDecision (commit : Bool)
  | expertWdigestWrite (r : OdReq)
  | digestPhase1 (path : Path) (tag : ReqTag)
  | digestPhase2 (path : Path) (tag : ReqTag)
  | digestPhaseDone (readError : Bool)
  | layoutCommit (path : Path) (tag : ReqTag) (v : Byte)
  | ftimeNextWrite (path : Path) (tag : ReqTag) (v : BitVec 64)
  | expertUnlock (path : Path) (tag : ReqTag) (v : BitVec 32)
  | alertAck (path : Path) (tag : ReqTag) (v : BitVec 32)
  -- the object dictionary
  | objectWrite (r : OdReq)
  | read (r : OdReq)
  | segRead (r : OdReq)
  | segWrite (r : OdReq)
  | segWriteEnd (r : OdReq)
  | domainTransferTimeout
  | setEndpointId (inst : ReqTag) (op : Byte) (eid : Byte)
  | getEndpointId (inst : ReqTag)
  | getEndpointUuid (inst : ReqTag)
  | getMctpVersionSupport (inst : ReqTag) (msgType : Byte)
  | getMessageTypeSupport (inst : ReqTag)
  | getVendorDefinedMessageSupport (inst : ReqTag) (selector : Byte)
  | errorUnsupportedCmd (inst : ReqTag) (cmd : Byte)
  -- persistence
  | save (path : Path) (tag : ReqTag)
  | edit (path : Path) (tag : ReqTag)
  | clear (path : Path) (tag : ReqTag)
  | placeSave (path : Path) (tag : ReqTag)
  | placeLoad (path : Path) (tag : ReqTag)
  | sootSnap (path : Path) (tag : ReqTag)
  | logRead (path : Path) (tag : ReqTag)
  | logFree (path : Path) (tag : ReqTag)
  | sootRead (path : Path) (tag : ReqTag)
  | logSegmentCommit
  | persistCommitDone (writeOk : Bool) (failAddr : BitVec 32)
  | autoCommitRetry
  | holdupDrop
  -- layout jobs
  | ljobCopy (readError : Option (BitVec 32))
  | ljobGather (readError : Option (BitVec 32))
  | ljobScatter (readError : Option (BitVec 32))
  | ljobTranspose (readError : Option (BitVec 32))
  | ljobFill (readError : Option (BitVec 32))
  | ljobComplete
  -- a step's phases
  | stepStartPulse (high : Nat) (ownDriven : Bool)
  | syncGlitch (high : Nat) (ownDriven : Bool)
  | admissionCheck
  | scorePhaseBegin (mismatch : Option (BitVec 8 × Bool))
  | scoredUnit (mismatch : Option (BitVec 16 × Bool))
  | rowGatherComplete (entry : BitVec 19)
  | certaintyRequest (stepId : BitVec 32) (entry : BitVec 19) (pairs : List (BitVec 4 × BitVec 16 × Nat))
  | certaintyAnswer (stepId : BitVec 32) (entry : BitVec 19) (flags : List (BitVec 4 × Bool))
  | stepSummaryPost (bank : Bool) (peerCounts : List (Nat × Nat))
  | predictedSummary (bank : Bool) (peerCounts : List (Nat × Nat))
  | scanMessage (stepId : BitVec 32) (batch : BitVec 12) (dir : TreeDir) (pos : Nat) (body : ScanBody)
  | admissionWalk
  -- dispatch and the hearth pool
  | dispatchSend (path : DispPath)
  | busyBackoffExpiry
  | halfZeroAcknowledged
  | aggFlushAge (rack : BitVec 9)
  | bulkAck (rack : BitVec 9) (seq : BitVec 32)
  | bulkTimeout (rack : BitVec 9) (seq : BitVec 32)
  | bulkArrival (hdr : BitVec 512) (body : List Byte) (chks : List Arrival)
  | poolStore (via : PoolVia) (chk : Arrival)
  | poolWaitingPacketAdmit (chk : Arrival)
  | queueResetSweepDone
  | dieDeliveryTurn (port : BitVec 3) (chk : Arrival)
  | dieCreditReturn (port : BitVec 3) (chk : Arrival)
  | dieStall (port : BitVec 3)
  | cancelNotice (n : Notice) (chk : Arrival)
  -- returns and combine
  | dieReturn (port : BitVec 3) (p : Packet)
  | flueStore (req : BitVec 256) (p : Packet) (chk : Arrival) (cacheReadError : Bool)
  | returnPacket (via : FlueVia) (chk : Arrival)
  | arrivalReceipt (via : FlueVia) (chk : Arrival)
  | drainReceipt (p : Packet)
  | stagingWriteAck (entry : BitVec 19) (pos : BitVec 5)
  | orderedCombine (readError : Bool)
  | arrivalZeroWriteAck (entry : BitVec 19)
  | homeWriteAck (entry : BitVec 19)
  | cancelFenceComplete (bank : Bool)
  | bankSweepDone (bank : Bool)
  | cancelFenceTimeout (bank : Bool)
  -- faults and re-runs
  | stepWatchdog (bank : Bool)
  | rerunNotice (stepId : BitVec 32) (batch : BitVec 12) (code : Byte) (origin : BitVec 17)
  | rewind
  | peerLost (fate : PeerFate)
  -- the rack fabric
  | load (hdr : BitVec 256)
  | store (hdr : BitVec 256) (payload : List Byte)
  | mstore (hdr : BitVec 256) (payload : List Byte)
  | atomFadd (hdr : BitVec 256) (payload : List Byte) (cacheReadError : Bool)
  | atomSwap (hdr : BitVec 256) (payload : List Byte) (cacheReadError : Bool)
  | atomCas (hdr : BitVec 256) (payload : List Byte) (cacheReadError : Bool)
  | redAdd (hdr : BitVec 256) (payload : List Byte) (cacheReadError : Bool)
  | redMax (hdr : BitVec 256) (payload : List Byte) (cacheReadError : Bool)
  | reply (via : ReplyVia)
  | drain (port : Bool) (epoch : BitVec 4)
  | routeChange (port : Bool) (epoch : BitVec 4)
  | fabricRetryTimer (port : Bool) (tag : BitVec 10)
  | fabricUnknown (port : Bool) (tag : BitVec 10)
  | fabPortDown (port : Bool)
  | fabricPortsUp (epoch0 epoch1 : Option (BitVec 4)) (gateUp : Bool)
  | fabricSendHoldEnd
  -- collectives
  | collMessage (group : BitVec 8) (program : Byte) (dir : TreeDir) (pos : Nat) (body : CollBody)
  | collTimeout (group : BitVec 8) (program : Byte) (pos : Nat)
  -- time, temperature and clocks
  | timepulse
  | timepulseMissed
  | thermalSample (t0 t1 t2 t3 : BitVec 32)
  | thermalBankEntry
  | stokeRampEnd
  | stokeLimitExpiry
  | stokeCooldownEnd
  | frequencyChangeDeadline
  | clockLoss (domain : BitVec 5)
  | datapathParityError (path : BitVec 32) (word : BitVec 32) (second : Bool) (owner : Option Bool)
  | lockstepMismatch
  | patrolScrub (error : Option ScrubError) (passEnd : Bool)
  -- JTAG
  | idcode
  | muxCapture
  | bypass (code : Byte)
  -- boundary events added at the table's end
  | barrierArrival (src : ArrivalFrom)
  | peerLayoutCrc (crc : BitVec 32)
  | dynamicAddressAssigned (addr : Byte)
  | startChecksDone
  | xspiReadDone
  | holdupOkRise
  | nocReductionAck (p : PairRef)
  | dbgFrame
deriving DecidableEq, Repr

end Sys2Proof
end

