-- ==== Sys2Proof/Decode.lean ====
section
/-!
DEFINITION. The command that a word spells by the bits of spec/opcode_table.json. The table gives no row any bits (the
commands come in on ports, and each row's operands are the fields its event brings), so no word spells a command.
-/

namespace Sys2Proof

/-- The command a word spells: none, for a table without bits. -/
def decodeTableWord (_nbits _w : Nat) : Option Instr := none

end Sys2Proof
end

