-- ==== Sys2Proof/Config.lean ====
section
/-!
DEFINITION. What the manual leaves open and an implementation fixes: constants with no body. Nothing can evaluate one
or prove a value of it, so a statement about the model holds whatever they are. Each is named in the assumption log.
-/

namespace Sys2Proof.Config

/-- The n-th free value of 64 bits: a value the manual does not state. The state's counter `free` picks a fresh one. -/
opaque freeWord : Nat → BitVec 64

/-- A byte the manual does not state, at a key: a byte of another package's memory that no LOAD brought back, of a ROUTE row
that FILL wrote, of the destination rows of a layout job that an uncorrectable error ended (R160). -/
opaque freeByte : Nat → Byte

/-- CONST objects whose value is "by part" (Table 12-15, Table 15-7), by dictionary key. -/
opaque partConst : Nat → Nat

/-- The catalogue of signal groups (R372: signal codes are the engine's own): byte i of RZ_DBG_CATALOG past each
record's group ID. -/
opaque catalogByte : Nat → Byte

/-- Byte i of the hob contexts read back through RZ_HOB_CONFIG (R87: loaded from ROM, content not given). -/
opaque hobByte : Nat → Byte

/-- ROM coefficient words of the built-in slots whose exact-mode coefficients the manual does not define (slots 1 and
3 to 8, R376): slot, segment, which of C0, C1, C2. -/
opaque romCoef : Nat → Nat → Nat → F32

/-- VG3 coefficients of slots 0 to 10 (R108): slot, segment, which of C0, C1, C2. -/
opaque vg3Coef : Nat → Nat → Nat → F32

/-- VG3 reduction constants of sin and cos (RZ_FN_VG3_CONST): word 0 is 2/pi, words 1 to 3 the parts of pi/2. -/
opaque vg3Const : Nat → F32

/-- The VG3 evaluation of slots 1 and 4 to 8, whose reduction to segments the manual does not give (R108); of sin and cos at the
remainder of Table 4-12. -/
opaque vg3Eval : Nat → F32 → F32

/-- A function-unit result the model leaves open, by case and operands: a rounding that lies closer to a midpoint
than the model's bounded search resolves (R92: the exact value decides it in the engine), or a product of an infinity
and a zero in the fused pass (R107 states none). -/
opaque openResult : Nat → F32 → F32 → BitVec 32

/-- The group values of a route row under GATE_MODE 1, where scoring forms none, by what Table 11-1 holds equal between runs
(R270): the digests of program, weights and inputs, the step's place in the run, the token's index, the group. -/
opaque routeGroup : List Byte → Nat → Nat → Nat → BitVec 32

/-- The level of TIMEPULSE_IN at a CORE cycle later than 1 µs after an edge: its high time is the board's (R371). -/
opaque timeLevel : Nat → Bool

/-- The 16-byte UUID that Get Endpoint UUID answers (R302). -/
opaque endpointUuid : Nat → Byte

end Sys2Proof.Config
end

