-- ==== Sys2Proof/Machine/Bits.lean ====
section
/-!
DEFINITION. Bit fields, byte order (R375) and the checksums and digests of the manual: CRC-16 (Table 2-3), CRC-32
(Table 3-1), SHA-256 and the chunked digest of R286.
-/

namespace Sys2Proof.Machine

/-- Bits [hi:lo] of a number (bit 0 least significant). -/
def bits (x hi lo : Nat) : Nat := (x >>> lo) % 2 ^ (hi + 1 - lo)

/-- Field [hi:lo] of a packed structure. -/
def fld {n : Nat} (x : BitVec n) (hi lo : Nat) : Nat := bits x.toNat hi lo

/-- One bit of a packed structure. -/
def bit {n : Nat} (x : BitVec n) (i : Nat) : Bool := x.getLsbD i

/-- Fields from the most significant down, each (width, value); a value is cut to its width. -/
def pack : List (Nat × Nat) → Nat
  | fs => fs.foldl (fun acc (w, v) => acc * 2 ^ w + v % 2 ^ w) 0

/-- A packed structure of n bits from its fields, most significant first. -/
def packed (n : Nat) (fs : List (Nat × Nat)) : BitVec n := BitVec.ofNat n (pack fs)

/-- The structure with field [hi:lo] replaced. -/
def setFld {n : Nat} (x : BitVec n) (hi lo v : Nat) : BitVec n :=
  BitVec.ofNat n (x.toNat - (bits x.toNat hi lo) * 2 ^ lo + (v % 2 ^ (hi + 1 - lo)) * 2 ^ lo)

def b2n (b : Bool) : Nat := if b then 1 else 0

/-- The n bytes of a number, byte 0 first (R375). -/
def leBytes : Nat → Nat → List Byte
  | 0, _ => []
  | n + 1, x => BitVec.ofNat 8 x :: leBytes n (x / 256)

/-- The number whose bytes are given, byte 0 first (R375). -/
def leNat : List Byte → Nat
  | [] => 0
  | b :: bs => b.toNat + 256 * leNat bs

/-- The n bytes of a number, most significant first (R288, R289, R302 say so where it is used). -/
def beBytes (n x : Nat) : List Byte := (leBytes n x).reverse

def beNat (bs : List Byte) : Nat := leNat bs.reverse

/-- Round up division. -/
def ceilDiv (a b : Nat) : Nat := (a + b - 1) / b

/-- The number rounded up to a multiple of m. -/
def roundUp (a m : Nat) : Nat := ceilDiv a m * m

/-- The list zero-filled to a multiple of m bytes. -/
def zeroFill (m : Nat) (bs : List Byte) : List Byte := bs ++ List.replicate (roundUp bs.length m - bs.length) 0

/-- n items of a list from index a; fewer where the list ends. -/
def slice {α : Type} (l : List α) (a n : Nat) : List α := (l.drop a).take n

/-! ### CRC -/

def crc32Bit : Nat → Nat → Nat
  | 0, c => c
  | n + 1, c => crc32Bit n (if c % 2 = 1 then (c / 2) ^^^ 0xEDB88320 else c / 2)

/-- The running CRC-32 of Table 3-1 over more bytes: polynomial 0x04C1_1DB7, reflected input and output. -/
def crc32Step (c : Nat) (bs : List Byte) : Nat := bs.foldl (fun c b => crc32Bit 8 (c ^^^ b.toNat)) c

/-- CRC-32 with the parameters of Table 3-1. -/
def crc32 (bs : List Byte) : BitVec 32 := BitVec.ofNat 32 (crc32Step 0xFFFFFFFF bs ^^^ 0xFFFFFFFF)

def crc16Bit : Nat → Nat → Nat
  | 0, c => c
  | n + 1, c => crc16Bit n (if c / 32768 % 2 = 1 then (c * 2 % 65536) ^^^ 0x1021 else c * 2 % 65536)

/-- CRC-16 of the step descriptor (Table 2-3): polynomial 0x1021, initial 0xFFFF, no reflection, no final XOR. -/
def crc16 (bs : List Byte) : BitVec 16 :=
  BitVec.ofNat 16 (bs.foldl (fun c b => crc16Bit 8 (c ^^^ (b.toNat * 256))) 0xFFFF)

/-! ### SHA-256 (R286)

The engine of R15 as three shift registers of 32-bit words, each held as one number: the 16 words of the schedule that are
still to come, the eight working words, the 64 round constants. A round takes the leftmost word of the schedule. -/

/-- Word i of a shift register, counted from its right end. -/
def shaWord (x i : Nat) : Nat := (x >>> (32 * i)) % 4294967296

/-- A word turned right. -/
def shaTurn (x r : Nat) : Nat := shaWord ((x * 4294967296 + x) >>> r) 0

/-- The exclusive or of a word turned right by two amounts and of a third word. -/
def shaMix (x r1 r2 third : Nat) : Nat := shaTurn x r1 ^^^ shaTurn x r2 ^^^ third

/-- The schedule after a round: its leftmost word leaves, the word sixteen places on comes in at the right. -/
def shaFeed (win : Nat) : Nat :=
  let early := shaWord win 14
  let late := shaWord win 1
  let fresh := shaWord win 15 + shaMix early 7 18 (early >>> 3) + shaWord win 6 + shaMix late 17 19 (late >>> 10)
  win % 2 ^ 480 * 4294967296 + fresh % 4294967296

/-- The working words after a round, a leftmost: every word moves one place right, the old h leaves, the fourth gains what the
round adds, a new a comes in at the left. -/
def shaTurnover (v k w : Nat) : Nat :=
  let e := shaWord v 3
  let a := shaWord v 7
  let choice := (e &&& shaWord v 2) + ((4294967295 - e) &&& shaWord v 1)
  let majority := (a &&& (shaWord v 6 ||| shaWord v 5)) ||| (shaWord v 6 &&& shaWord v 5)
  let add := shaWord v 0 + shaMix e 6 11 (shaTurn e 25) + choice + k + w
  let lead := add + shaMix a 2 13 (shaTurn a 22) + majority
  pack [(32, lead), (96, v >>> 160), (32, shaWord v 4 + add), (96, v >>> 32)]

/-- The round constants, the first leftmost. -/
def shaConstants : Nat := pack [
  (512, 0x428a2f9871374491b5c0fbcfe9b5dba53956c25b59f111f1923f82a4ab1c5ed5d807aa9812835b01243185be550c7dc372be5d7480deb1fe9bdc06a7c19bf174),
  (512, 0xe49b69c1efbe47860fc19dc6240ca1cc2de92c6f4a7484aa5cb0a9dc76f988da983e5152a831c66db00327c8bf597fc7c6e00bf3d5a7914706ca635114292967),
  (512, 0x27b70a852e1b21384d2c6dfc53380d13650a7354766a0abb81c2c92e92722c85a2bfe8a1a81a664bc24b8b70c76c51a3d192e819d6990624f40e3585106aa070),
  (512, 0x19a4c1161e376c082748774c34b0bcb5391c0cb34ed8aa4a5b9cca4f682e6ff3748f82ee78a5636f84c878148cc7020890befffaa4506cebbef9a3f7c67178f2)]

/-- n rounds more, with the last n constants of the register. -/
def shaRounds : Nat → Nat → Nat → Nat
  | 0, _, v => v
  | n + 1, win, v => shaRounds n (shaFeed win) (shaTurnover v (shaWord shaConstants n) (shaWord win 15))

/-- The chaining value after a block of 64 bytes. -/
def shaBlock (v : Nat) (blk : List Byte) : Nat :=
  let r := shaRounds 64 (beNat blk) v
  pack ([7, 6, 5, 4, 3, 2, 1, 0].map (fun i => (32, shaWord v i + shaWord r i)))

/-- n blocks, one after the other. -/
def shaBlocks : Nat → Nat → List Byte → Nat
  | 0, v, _ => v
  | n + 1, v, bs => shaBlocks n (shaBlock v (bs.take 64)) (bs.drop 64)

/-- The chaining value that a message begins with. -/
def shaStart : Nat := 0x6a09e667bb67ae853c6ef372a54ff53a510e527f9b05688c1f83d9ab5be0cd19

/-- SHA-256 of a byte string, as its 32 bytes in order: the string, a one bit, zeros up to eight bytes short of a whole
block, and its length in bits. -/
def sha256 (m : List Byte) : List Byte :=
  let n := m.length / 64 + (if m.length % 64 < 56 then 1 else 2)
  let body := m ++ [0x80] ++ List.replicate (64 * n - m.length - 9) 0 ++ beBytes 8 (8 * m.length)
  beBytes 32 (shaBlocks n shaStart body)

/-- The chunks of R286: 65,536 bytes each, the last possibly shorter; an empty string forms one empty chunk. -/
def chunkDigests : Nat → List Byte → List Byte
  | 0, x => sha256 x
  | n + 1, x => if x.length ≤ 65536 then sha256 x else sha256 (x.take 65536) ++ chunkDigests n (x.drop 65536)

/-- The chunked digest H*(X) of R286. -/
def hStar (x : List Byte) : List Byte := sha256 (chunkDigests (x.length / 65536) x)

/-- 32 zero bytes: the digest of something not formed (R287, R288). -/
def zeroDigest : List Byte := List.replicate 32 0

end Sys2Proof.Machine
end

