-- ==== Sys2Proof/Machine/Fp.lean ====
section
/-!
DEFINITION. Floating point, exactly: every format is decoded to a sign, an integer and a power of two; sums, products
and quotients are formed exactly and rounded once to nearest, ties to even, with subnormals kept (R75 to R78, R98,
R103, R145 to R149, R191, R225).
-/

namespace Sys2Proof.Machine

/-- A format of the manual: exponent bits, fraction bits, the bits of the largest finite magnitude, and whether codes
above it mean infinity and NaN (BF16, FP16, FP32, E5M2), NaN only (E4M3), or do not occur (E2M3, E3M2, E2M1). -/
structure Fmt where
  eb : Nat
  mb : Nat
  bias : Nat
  maxBits : Nat
  hasInf : Bool
  hasNan : Bool
deriving DecidableEq, Repr

def Fmt.fp32 : Fmt := { eb := 8, mb := 23, bias := 127, maxBits := 0x7F7FFFFF, hasInf := true, hasNan := true }
def Fmt.bf16 : Fmt := { eb := 8, mb := 7, bias := 127, maxBits := 0x7F7F, hasInf := true, hasNan := true }
def Fmt.fp16 : Fmt := { eb := 5, mb := 10, bias := 15, maxBits := 0x7BFF, hasInf := true, hasNan := true }
def Fmt.e4m3 : Fmt := { eb := 4, mb := 3, bias := 7, maxBits := 0x7E, hasInf := false, hasNan := true }
def Fmt.e5m2 : Fmt := { eb := 5, mb := 2, bias := 15, maxBits := 0x7B, hasInf := true, hasNan := true }
def Fmt.e2m3 : Fmt := { eb := 2, mb := 3, bias := 1, maxBits := 0x1F, hasInf := false, hasNan := false }
def Fmt.e3m2 : Fmt := { eb := 3, mb := 2, bias := 3, maxBits := 0x1F, hasInf := false, hasNan := false }
def Fmt.e2m1 : Fmt := { eb := 2, mb := 1, bias := 1, maxBits := 0x7, hasInf := false, hasNan := false }

/-- A value: not a number, an infinity, or (-1)^neg * m * 2^e. Zero keeps its sign with m = 0. -/
inductive Val where
  | nan
  | inf (neg : Bool)
  | fin (neg : Bool) (m : Nat) (e : Int)
deriving DecidableEq, Repr

/-- Width of a format, sign included. -/
def Fmt.width (f : Fmt) : Nat := 1 + f.eb + f.mb

/-- The power of two of a subnormal's last place. -/
def Fmt.emin (f : Fmt) : Int := 1 - (f.bias : Int) - (f.mb : Int)

/-- The quiet NaN of a format (R149 names 0x7FC0, 0x7E00 and 0x7FC0_0000). -/
def Fmt.qnan (f : Fmt) : Nat :=
  if f.hasInf then (2 ^ f.eb - 1) * 2 ^ f.mb + 2 ^ (f.mb - 1) else 2 ^ (f.eb + f.mb) - 1

/-- The infinity's magnitude. -/
def Fmt.infBits (f : Fmt) : Nat := (2 ^ f.eb - 1) * 2 ^ f.mb

/-- The value of a code of a format. -/
def Fmt.decode (f : Fmt) (x : Nat) : Val :=
  let neg := x / 2 ^ (f.eb + f.mb) % 2 = 1
  let mag := x % 2 ^ (f.eb + f.mb)
  if mag ≤ f.maxBits then
    let ex := mag / 2 ^ f.mb
    let fr := mag % 2 ^ f.mb
    if ex = 0 then .fin neg fr f.emin else .fin neg (fr + 2 ^ f.mb) (f.emin + (ex - 1 : Nat))
  else if f.hasInf && mag == f.infBits then .inf neg
  else .nan

/-- m / 2^s rounded to nearest, ties to even; `sticky` says that the exact value lies above m by less than one. -/
def rneShift (m s : Nat) (sticky : Bool) : Nat :=
  if s = 0 then m
  else
    let q := m >>> s
    let r := m % 2 ^ s
    let h := 2 ^ (s - 1)
    if r > h || (r == h && (sticky || q % 2 == 1)) then q + 1 else q

/-- The magnitude code of m * 2^e (plus a little when `sticky`) rounded to nearest, ties to even, unbounded above:
a code past `maxBits` is an overflow. With `sticky`, m must hold at least two bits more than the format. -/
def Fmt.roundMag (f : Fmt) (m : Nat) (e : Int) (sticky : Bool) : Nat :=
  if m = 0 then 0
  else
    let lsb : Int := max ((Nat.log2 m : Int) + e - (f.mb : Int)) f.emin
    let q := if lsb ≤ e then m <<< (e - lsb).toNat else rneShift m (lsb - e).toNat sticky
    q + (lsb - f.emin).toNat * 2 ^ f.mb

/-- What a result above the largest finite value becomes. -/
inductive OnOverflow where
  | infinity
  | largest
deriving DecidableEq, Repr

/-- A value's code in a format, and whether a finite value overflowed: whether it lies so far above the largest finite value
that rounding it with an unbounded exponent leaves the range. A value closer than that rounds to the largest finite value
under either OV (DESIGN CHOICE, log entry 36: R94 speaks of an exact value beyond the range, R92 rounds to nearest first). -/
def Fmt.encodeS (f : Fmt) (ov : OnOverflow) (v : Val) (sticky : Bool) : Nat × Bool :=
  let sgn (neg : Bool) : Nat := if neg then 2 ^ (f.eb + f.mb) else 0
  match v with
  | .nan => (f.qnan, false)
  | .inf neg => (sgn neg + (if f.hasInf then f.infBits else f.maxBits), false)
  | .fin neg m e =>
    let mag := f.roundMag m e sticky
    if mag ≤ f.maxBits then (sgn neg + mag, false)
    else (sgn neg + (if f.hasInf && ov == .infinity then f.infBits else f.maxBits), true)

def Fmt.encode (f : Fmt) (ov : OnOverflow) (v : Val) : Nat := (f.encodeS ov v false).1

/-! ### FP32 -/

def F32.val (x : F32) : Val := Fmt.fp32.decode x.toNat

/-- Round to FP32; overflow gives infinity (IEEE 754). -/
def F32.ofVal (v : Val) : F32 := BitVec.ofNat 32 (Fmt.fp32.encode .infinity v)

def F32.ofValSticky (v : Val) (sticky : Bool) : F32 := BitVec.ofNat 32 (Fmt.fp32.encodeS .infinity v sticky).1

def f32Zero : F32 := 0
def f32One : F32 := 0x3F800000
def f32Nan : F32 := 0x7FC00000
def f32Max : F32 := 0x7F7FFFFF
def f32Inf (neg : Bool) : F32 := if neg then 0xFF800000 else 0x7F800000

def F32.isNan (x : F32) : Bool := bits x.toNat 30 0 > 0x7F800000
def F32.isInf (x : F32) : Bool := bits x.toNat 30 0 == 0x7F800000
def F32.isFinite (x : F32) : Bool := bits x.toNat 30 0 < 0x7F800000
def F32.isZero (x : F32) : Bool := bits x.toNat 30 0 == 0
def F32.sign (x : F32) : Bool := x.getLsbD 31
def F32.neg (x : F32) : F32 := x ^^^ 0x80000000
def F32.abs (x : F32) : F32 := x &&& 0x7FFFFFFF

/-- A positive normal value (R69). -/
def F32.isPosNormal (x : F32) : Bool := !F32.sign x && F32.isFinite x && decide (0x00800000 ≤ x.toNat)

/-- The signed integer of a finite value at a common power of two. -/
def scaled (neg : Bool) (m : Nat) (e base : Int) : Int :=
  let a : Int := (m <<< (e - base).toNat : Nat)
  if neg then -a else a

/-- The exact sum of two finite values; an exact zero is +0 unless both are -0. -/
def addFin (n1 : Bool) (m1 : Nat) (e1 : Int) (n2 : Bool) (m2 : Nat) (e2 : Int) : Val :=
  let b := min e1 e2
  let s := scaled n1 m1 e1 b + scaled n2 m2 e2 b
  if s = 0 then .fin (n1 && n2) 0 b else .fin (decide (s < 0)) s.natAbs b

def Val.add : Val → Val → Val
  | .nan, _ => .nan
  | _, .nan => .nan
  | .inf a, .inf b => if a = b then .inf a else .nan
  | .inf a, _ => .inf a
  | _, .inf b => .inf b
  | .fin n1 m1 e1, .fin n2 m2 e2 => addFin n1 m1 e1 n2 m2 e2

def Val.mul : Val → Val → Val
  | .nan, _ => .nan
  | _, .nan => .nan
  | .inf a, .inf b => .inf (a != b)
  | .inf a, .fin b m _ => if m = 0 then .nan else .inf (a != b)
  | .fin a m _, .inf b => if m = 0 then .nan else .inf (a != b)
  | .fin a m e, .fin b k g => .fin (a != b) (m * k) (e + g)

def Val.neg : Val → Val
  | .nan => .nan
  | .inf a => .inf (!a)
  | .fin a m e => .fin (!a) m e

def F32.add (x y : F32) : F32 := F32.ofVal (Val.add (F32.val x) (F32.val y))
def F32.sub (x y : F32) : F32 := F32.ofVal (Val.add (F32.val x) (Val.neg (F32.val y)))
def F32.mul (x y : F32) : F32 := F32.ofVal (Val.mul (F32.val x) (F32.val y))

/-- a * b + c, rounded once (R98, R225). -/
def F32.fma (a b c : F32) : F32 := F32.ofVal (Val.add (Val.mul (F32.val a) (F32.val b)) (F32.val c))

/-- m1 * 2^e1 over m2 * 2^e2 (m2 not zero) with 80 bits of quotient and whether a remainder is left. -/
def divFin (n : Bool) (m1 : Nat) (e1 : Int) (m2 : Nat) (e2 : Int) : Val × Bool :=
  let k := 80 + Nat.log2 m2
  let num := m1 <<< k
  (.fin n (num / m2) (e1 - e2 - (k : Int)), num % m2 != 0)

/-- The exactly rounded quotient (R88). -/
def F32.div (x y : F32) : F32 :=
  match (F32.val x), (F32.val y) with
  | .nan, _ => f32Nan
  | _, .nan => f32Nan
  | .inf _, .inf _ => f32Nan
  | .inf a, .fin b _ _ => f32Inf (a != b)
  | .fin a _ _, .inf b => F32.ofVal (.fin (a != b) 0 0)
  | .fin a m e, .fin b k g =>
    if k = 0 then (if m = 0 then f32Nan else f32Inf (a != b))
    else
      let (v, st) := divFin (a != b) m e k g
      F32.ofValSticky v st

/-- The order of values: -1, 0, 1; none where either is NaN. +0 and -0 are equal. -/
def Val.cmp : Val → Val → Option Int
  | .nan, _ => none
  | _, .nan => none
  | .inf a, .inf b => if a = b then some 0 else if a then some (-1) else some 1
  | .inf a, _ => if a then some (-1) else some 1
  | _, .inf b => if b then some 1 else some (-1)
  | .fin n1 m1 e1, .fin n2 m2 e2 =>
    let b := min e1 e2
    let d := scaled n1 m1 e1 b - scaled n2 m2 e2 b
    if d = 0 then some 0 else if d < 0 then some (-1) else some 1

def F32.lt (x y : F32) : Bool := Val.cmp (F32.val x) (F32.val y) == some (-1)
def F32.gt (x y : F32) : Bool := Val.cmp (F32.val x) (F32.val y) == some 1
def F32.eqv (x y : F32) : Bool := Val.cmp (F32.val x) (F32.val y) == some 0
def F32.ge (x y : F32) : Bool := F32.gt x y || F32.eqv x y
def F32.le (x y : F32) : Bool := F32.lt x y || F32.eqv x y

/-- An unsigned integer as FP32. -/
def F32.ofNat (n : Nat) : F32 := F32.ofVal (.fin false n 0)

/-- floor of a finite value. -/
def Val.floor : Val → Int
  | .fin n m e =>
    let a : Int := if n then -(m : Int) else m
    if 0 ≤ e then a * (2 ^ e.toNat : Nat) else a / (2 ^ (-e).toNat : Nat)
  | _ => 0

/-- A finite value rounded to the nearest integer, ties to even. -/
def Val.rint : Val → Int
  | .fin n m e =>
    let q : Nat := if 0 ≤ e then m <<< e.toNat else rneShift m (-e).toNat false
    if n then -(q : Int) else q
  | _ => 0

/-! ### Narrow formats -/

/-- An FP32 value in another format, rounded once; whether it saturated, under R149's rule (largest finite). -/
def F32.toFmtSat (f : Fmt) (x : F32) : Nat × Bool := f.encodeS .largest (F32.val x) false

/-- bf16 of R76: rounded to nearest even, subnormals kept, overflow to infinity. -/
def F32.toBf16 (x : F32) : BitVec 16 := BitVec.ofNat 16 (Fmt.bf16.encode .infinity (F32.val x))

/-- A 16-bit format's value as FP32, exactly; NaN as the quiet NaN. -/
def F32.ofFmt (f : Fmt) (x : Nat) : F32 := F32.ofVal (f.decode x)

def F32.ofBf16 (x : BitVec 16) : F32 := F32.ofFmt Fmt.bf16 x.toNat

/-! ### Trees and saturation -/

/-- sat of R74: an infinity becomes the largest finite value of its sign; the flag says that it did. -/
def F32.sat (x : F32) : F32 × Bool :=
  if F32.isInf x then (if F32.sign x then f32Max ||| 0x80000000 else f32Max, true) else (x, false)

/-- One level of the pairing tree: neighbours added. -/
def pairSum : List F32 → List F32
  | a :: b :: l => F32.add a b :: pairSum l
  | l => l

/-- The pairing tree over a list of 2^n values (R77, R102). -/
def treeSum : Nat → List F32 → F32
  | 0, l => l.headD f32Zero
  | n + 1, l => treeSum n (pairSum l)

/-- tree16 of R102: slots in lanes 0 to k - 1 and +0 in the rest. -/
def tree16 (w : List F32) : F32 := treeSum 4 ((w ++ List.replicate 16 f32Zero).take 16)

end Sys2Proof.Machine
end

