-- ==== Sys2Proof/Machine/Fn.lean ====
section
/-!
DEFINITION. The function unit's arithmetic: the exactly rounded built-in functions (R92, R94 to R96), the FP32 forms
of Table 4-7 with the coefficients of R376, VG3 mode (R108), loaded tables (R98, R99), the soft maximum (R102) and the
fused activations (R107). A transcendental value is bracketed by integers at a rising precision until both ends of the
bracket round alike.
-/

namespace Sys2Proof.Machine

/-! ### Brackets: an integer interval at a power of two -/

/-- lo * 2^e ≤ value ≤ hi * 2^e. -/
structure Ivl where
  lo : Int
  hi : Int
  e : Int
deriving DecidableEq, Repr

def Ivl.exact (v : Int) (e : Int) : Ivl := { lo := v, hi := v, e := e }

/-- Widen by w units of the last place on both sides. -/
def Ivl.around (v : Int) (w : Nat) (e : Int) : Ivl := { lo := v - w, hi := v + w, e := e }

def Ivl.add (a b : Ivl) : Ivl :=
  let m := min a.e b.e
  let sa : Int := (2 ^ (a.e - m).toNat : Nat)
  let sb : Int := (2 ^ (b.e - m).toNat : Nat)
  { lo := a.lo * sa + b.lo * sb, hi := a.hi * sa + b.hi * sb, e := m }

/-- Multiply by an exact integer times a power of two. -/
def Ivl.scale (a : Ivl) (k : Int) (e : Int) : Ivl :=
  if 0 ≤ k then { lo := a.lo * k, hi := a.hi * k, e := a.e + e } else { lo := a.hi * k, hi := a.lo * k, e := a.e + e }

/-- The code of an integer times a power of two. -/
def codeOf (f : Fmt) (ov : OnOverflow) (v e : Int) : Nat := f.encode ov (.fin (decide (v < 0)) v.natAbs e)

/-- Round a bracketed value: the precision p is doubled until both ends of the bracket give one code. -/
def zivFrom (f : Fmt) (ov : OnOverflow) (br : Nat → Ivl) (dflt : Nat) : Nat → Nat → Nat
  | 0, _ => dflt
  | n + 1, p =>
    let i := br p
    let a := codeOf f ov i.lo i.e
    if a = codeOf f ov i.hi i.e then a else zivFrom f ov br dflt n (2 * p)

/-- The rounding of R92, decided with whatever precision it needs: from 160 bits on, doubled up to 20 times. The exact values
that lie on a midpoint are taken before, so each value bracketed here lies off every midpoint; at 160 * 2^20 bits the bracket
is narrower than such a value of FP32 operands comes to one, and what stands for an undecided search (log entry 3) stands
for no operand. -/
def ziv (f : Fmt) (ov : OnOverflow) (br : Nat → Ivl) (dflt : Nat) : Nat := zivFrom f ov br dflt 21 160

/-- The half-width of every bracket below, in units of the last place: it covers all truncations of the series. -/
def slack : Nat := 2 ^ 32

/-! ### Series at precision p: values are integers over 2^p -/

/-- Sum of z^(2k+1)/(2k+1) (alternating in sign when `alt`), z over 2^p: the terms from k on. -/
def oddSeries (p : Nat) (z2 : Int) (alt : Bool) : Nat → Nat → Int → Int → Int
  | 0, _, _, acc => acc
  | n + 1, k, pw, acc =>
    if pw = 0 then acc
    else
      let t := pw / (2 * k + 1 : Nat)
      oddSeries p z2 alt n (k + 1) (pw * z2 / (2 ^ p : Nat)) (if alt && k % 2 == 1 then acc - t else acc + t)

def atanhFix (p : Nat) (num den : Nat) : Int :=
  let z : Int := (num * 2 ^ p / den : Nat)
  oddSeries p (z * z / (2 ^ p : Nat)) false p 0 z 0

def atanInvFix (p n : Nat) : Int :=
  let z : Int := (2 ^ p / n : Nat)
  oddSeries p (z * z / (2 ^ p : Nat)) true p 0 z 0

def ln2Fix (p : Nat) : Int := 2 * atanhFix p 1 3

def piFix (p : Nat) : Int := 16 * atanInvFix p 5 - 4 * atanInvFix p 239

/-- ln of m * 2^e, m > 0. -/
def lnIvl (m : Nat) (e : Int) (p : Nat) : Ivl :=
  let l := Nat.log2 m
  .around (((l : Int) + e) * ln2Fix p + 2 * atanhFix p (m - 2 ^ l) (m + 2 ^ l)) slack (-(p : Int))

/-- Sum of r^k/k!, r over 2^p, the term of index k being `t`. -/
def expSeries (p : Nat) (r : Int) : Nat → Nat → Int → Int → Int
  | 0, _, _, acc => acc
  | n + 1, k, t, acc => if t = 0 then acc else expSeries p r n (k + 1) (t * r / (2 ^ p : Nat) / (k + 1 : Nat)) (acc + t)

/-- e to the value a / 2^p. -/
def expFixIvl (p : Nat) (a : Int) : Ivl :=
  let l := ln2Fix p
  let n := a / l
  let r := a - n * l
  .around (expSeries p r p 0 (2 ^ p : Nat) 0) slack (n - (p : Int))

/-- m * 2^e over 2^p, rounded down. -/
def fixOf (p : Nat) (v e : Int) : Int :=
  if 0 ≤ e + (p : Int) then v * (2 ^ (e + (p : Int)).toNat : Nat) else v / (2 ^ (-(e + (p : Int))).toNat : Nat)

def expIvl (v e : Int) (p : Nat) : Ivl := expFixIvl p (fixOf p v e)

/-- sin and cos series: the term of index k, stepping by two. -/
def trigSeries (p : Nat) (r2 : Int) : Nat → Nat → Int → Int → Int
  | 0, _, _, acc => acc
  | n + 1, k, t, acc =>
    if t = 0 then acc else trigSeries p r2 n (k + 2) (-(t * r2 / (2 ^ p : Nat)) / ((k + 1) * (k + 2) : Nat)) (acc + t)

/-- Bits of the largest finite FP32 exponent, added to the precision of pi for exact reduction (R96). -/
def reduceBits : Nat := 140

/-- sin (or cos) of v * 2^e with the exact reduction of R96: the remainder by pi/2 and its quadrant. -/
def trigIvl (isCos : Bool) (v e : Int) (p0 : Nat) : Ivl :=
  let p := p0 + 160
  let pp := p + reduceBits
  let x := fixOf pp v e
  let h := piFix (pp + 1) / 4
  let n := (2 * x + h) / (2 * h)
  let r := (x - n * h) / (2 ^ reduceBits : Nat)
  let r2 := r * r / (2 ^ p : Nat)
  let s := trigSeries p r2 p 1 r 0
  let c := trigSeries p r2 p 0 (2 ^ p : Nat) 0
  let q := ((n + (if isCos then 1 else 0)) % 4).toNat
  let y := match q with
    | 0 => s
    | 1 => c
    | 2 => -s
    | _ => -c
  .around y slack (-(p : Int))

/-- The bracket num / den with both bracketed and den positive, at precision p. -/
def divIvl (p : Nat) (num den : Ivl) : Ivl :=
  let q (a b : Int) : Int := if b ≤ 0 then 0 else a * (2 ^ p : Nat) / b
  { lo := min (q num.lo den.hi) (q num.lo den.lo) - 1,
    hi := max (q num.hi den.lo) (q num.hi den.hi) + 1,
    e := num.e - den.e - (p : Int) }

/-- A bracket cut to one exponent so that sums stay small. -/
def Ivl.at (a : Ivl) (e : Int) : Ivl :=
  if e ≤ a.e then
    let s : Int := (2 ^ (a.e - e).toNat : Nat)
    { lo := a.lo * s, hi := a.hi * s, e := e }
  else
    let s : Int := (2 ^ (e - a.e).toNat : Nat)
    { lo := a.lo / s, hi := a.hi / s + 1, e := e }

/-- sigmoid of v * 2^e = e^x / (1 + e^x) for x < 0, 1 / (1 + e^-x) otherwise. -/
def sigmoidIvl (v e : Int) (p : Nat) : Ivl :=
  let ex := expIvl (-(v.natAbs : Int)) e p
  let one := Ivl.exact (2 ^ p : Nat) (-(p : Int))
  let den := one.add (ex.at (-(2 * p : Nat) : Int))
  divIvl (2 * p) (if v < 0 then ex else one) den

def tanhIvl (v e : Int) (p : Nat) : Ivl :=
  let ex := (expIvl (-(v.natAbs : Int)) (e + 1) p).at (-(2 * p : Nat) : Int)
  let one := Ivl.exact (2 ^ p : Nat) (-(p : Int))
  let r := divIvl (2 * p) (one.add { lo := -ex.hi, hi := -ex.lo, e := ex.e }) (one.add ex)
  if v < 0 then { lo := -r.hi, hi := -r.lo, e := r.e } else r

/-- Sum of x^(2k+1)/(2k+1)!! , x over 2^p. -/
def normSeries (p : Nat) (x2 : Int) : Nat → Nat → Int → Int → Int
  | 0, _, _, acc => acc
  | n + 1, k, t, acc => if t = 0 then acc else normSeries p x2 n (k + 2) (t * x2 / (2 ^ p : Nat) / (k + 2 : Nat)) (acc + t)

/-- The standard normal distribution at v * 2^e, |x| < 24: 1/2 + phi(x) * sum. -/
def normalIvl (v e : Int) (p0 : Nat) : Ivl :=
  let p := p0 + 700
  let x := fixOf p v e
  let x2 := x * x / (2 ^ p : Nat)
  let ser := normSeries p x2 (p + 2000) 1 x 0
  let ph := (expFixIvl p (-(x2 / 2))).at (-(p : Int))
  let root : Int := (Nat.sqrt (2 * (piFix (2 * p)).toNat) : Nat)
  let mid := ph.lo * ser / root
  .around ((2 ^ p : Nat) / 2 + mid) (2 ^ 440) (-(p : Int))

/-! ### Slots -/

/-- The sign, integer and exponent of a finite FP32 value. -/
def finOf (x : F32) : Int × Int :=
  match F32.val x with
  | .fin n m e => (if n then -(m : Int) else m, e)
  | _ => (0, 0)

/-- The exact value of an FP32, as a bracket. -/
def ivlOf (x : F32) : Ivl := .exact (finOf x).1 (finOf x).2

/-- A value just below v * 2^e in magnitude, rounded (the limits of SiLU and GELU). -/
def justBelow (f : Fmt) (ov : OnOverflow) (v e : Int) : Nat :=
  (f.encodeS ov (.fin (decide (v < 0)) (v.natAbs * 2 ^ 80 - 1) (e - 80)) true).1

/-- The overflow value OV of R94 with a sign. -/
def ovCode (f : Fmt) (ov : OnOverflow) (neg : Bool) : Nat :=
  (if neg then 2 ^ (f.eb + f.mb) else 0) + (if f.hasInf && ov == .infinity then f.infBits else f.maxBits)

/-- A value under Table 4-12: an overflow, of a step of the evaluation or of its last rounding, is the largest finite value. -/
def vg3Code (f : Fmt) (v : Val) : Nat :=
  match v with
  | .inf neg => ovCode f .largest neg
  | w => f.encode .largest w

def zeroCode (f : Fmt) (neg : Bool) : Nat := if neg then 2 ^ (f.eb + f.mb) else 0

def oneCode (f : Fmt) (neg : Bool) : Nat := zeroCode f neg + f.encode .largest (.fin false 1 0)

/-- Is |x| at least 2^k (k small), for a finite x? -/
def atLeast (x : F32) (y : F32) : Bool := F32.ge (F32.abs x) y

/-- exp (slot 0) and exp2 (slot 1), narrow (R92, Table 4-8). -/
def narrowExp (base2 : Bool) (f : Fmt) (ov : OnOverflow) (x : F32) : Nat :=
  if F32.isNan x then f.qnan
  else if F32.isZero x then oneCode f false
  else if F32.isInf x || atLeast x 0x43960000 then (if F32.sign x then zeroCode f false else ovCode f ov false)
  else
    let (v, e) := finOf x
    if base2 then
      let n := Val.floor (F32.val x)
      if F32.eqv x (F32.ofVal (.fin (decide (n < 0)) n.natAbs 0)) then codeOf f ov 1 n
      else ziv f ov (fun p => expFixIvl p (fixOf p v e * ln2Fix p / (2 ^ p : Nat))) (Config.openResult 1 x 0).toNat
    else ziv f ov (expIvl v e) (Config.openResult 0 x 0).toNat

/-- log (slot 2), narrow. -/
def narrowLog (f : Fmt) (ov : OnOverflow) (x : F32) : Nat :=
  if F32.isNan x then f.qnan
  else if F32.isZero x then ovCode f ov true
  else if F32.sign x then f.qnan
  else if F32.isInf x then ovCode f ov false
  else if x = f32One then 0
  else
    let (v, e) := finOf x
    ziv f ov (lnIvl v.natAbs e) (Config.openResult 2 x 0).toNat

/-- sigmoid (slot 3), narrow. -/
def narrowSigmoid (f : Fmt) (ov : OnOverflow) (x : F32) : Nat :=
  if F32.isNan x then f.qnan
  else if F32.isZero x then f.encode .largest (.fin false 1 (-1))
  else if F32.isInf x || atLeast x 0x43480000 then (if F32.sign x then zeroCode f false else oneCode f false)
  else
    let (v, e) := finOf x
    ziv f ov (sigmoidIvl v e) (Config.openResult 3 x 0).toNat

/-- tanh (slot 4), narrow. -/
def narrowTanh (f : Fmt) (ov : OnOverflow) (x : F32) : Nat :=
  if F32.isNan x then f.qnan
  else if F32.isZero x then zeroCode f (F32.sign x)
  else if F32.isInf x || atLeast x 0x42700000 then oneCode f (F32.sign x)
  else
    let (v, e) := finOf x
    ziv f ov (tanhIvl v e) (Config.openResult 4 x 0).toNat

/-- The activation of a finite, non-zero argument inside its bracketed range: SiLU or GELU. -/
def actIvl (gelu : Bool) (x : F32) (p : Nat) : Ivl :=
  let (v, e) := finOf x
  ((if gelu then normalIvl v e p else sigmoidIvl v e p)).scale v e

/-- The argument from which the activation is bracketed no longer: just below x above it, a vanishing value below its
negative. -/
def actBound (gelu : Bool) : F32 := if gelu then 0x41B80000 else 0x43480000

/-- SiLU (slot 5) and GELU (slot 6), narrow. -/
def narrowAct (gelu : Bool) (f : Fmt) (ov : OnOverflow) (x : F32) : Nat :=
  if F32.isNan x then f.qnan
  else if F32.isZero x then zeroCode f (F32.sign x)
  else if F32.isInf x then (if F32.sign x then zeroCode f true else ovCode f ov false)
  else if atLeast x (actBound gelu) then
    if F32.sign x then zeroCode f true else justBelow f ov (finOf x).1 (finOf x).2
  else ziv f ov (actIvl gelu x) (Config.openResult (if gelu then 6 else 5) x 0).toNat

/-- sin (slot 7) and cos (slot 8), narrow (R96). -/
def narrowTrig (isCos : Bool) (f : Fmt) (ov : OnOverflow) (x : F32) : Nat :=
  if F32.isNan x || F32.isInf x then f.qnan
  else if F32.isZero x then (if isCos then oneCode f false else zeroCode f (F32.sign x))
  else
    let (v, e) := finOf x
    ziv f ov (trigIvl isCos v e) (Config.openResult (if isCos then 8 else 7) x 0).toNat

/-- reciprocal (slot 9), narrow: one exact division. -/
def narrowRecip (f : Fmt) (ov : OnOverflow) (x : F32) : Nat :=
  match F32.val x with
  | .nan => f.qnan
  | .inf n => zeroCode f n
  | .fin n m e =>
    if m = 0 then ovCode f ov n
    else
      let (v, st) := divFin n 1 0 m e
      (f.encodeS ov v st).1

/-- 1 / sqrt of m * 2^e, e even: floor(2^(p) / sqrt(m)) at precision p. -/
def rsqrtIvl (m : Nat) (e : Int) (p : Nat) : Ivl :=
  let (m, e) := if e % 2 = 0 then (m, e) else (2 * m, e - 1)
  let s : Int := (Nat.sqrt (2 ^ (4 * p) / m) : Nat)
  { lo := s - 1, hi := s + 2, e := -(2 * p : Nat) - e / 2 }

/-- reciprocal square root (slot 10), narrow. At a power of four the result is a power of two, which may be a tie (R92). -/
def narrowRsqrt (f : Fmt) (ov : OnOverflow) (x : F32) : Nat :=
  match F32.val x with
  | .nan => f.qnan
  | .inf n => if n then f.qnan else zeroCode f false
  | .fin n m e =>
    if m = 0 then ovCode f ov n
    else if n then f.qnan
    else if m = 2 ^ Nat.log2 m && (e + Nat.log2 m) % 2 == 0 then codeOf f ov 1 (-((e + Nat.log2 m) / 2))
    else ziv f ov (rsqrtIvl m e) (Config.openResult 10 x 0).toNat

/-- The exactly rounded narrow result of a built-in slot (R92, R94, R95). -/
def narrow (slot : Nat) (f : Fmt) (ov : OnOverflow) (x : F32) : Nat :=
  match slot with
  | 0 => narrowExp false f ov x
  | 1 => narrowExp true f ov x
  | 2 => narrowLog f ov x
  | 3 => narrowSigmoid f ov x
  | 4 => narrowTanh f ov x
  | 5 => narrowAct false f ov x
  | 6 => narrowAct true f ov x
  | 7 => narrowTrig false f ov x
  | 8 => narrowTrig true f ov x
  | 9 => narrowRecip f ov x
  | _ => narrowRsqrt f ov x

/-! ### The coefficients of R376 -/

/-- y0, y1, y2 of a segment: g_s at 0, 1/2 and 1, bracketed (Table 4-15). `j` counts half steps. -/
def segPoint (slot s j p : Nat) : Ivl :=
  let up := s < 128
  let u := 2 * (if up then s else s - 128) + j
  match slot with
  | 0 => expIvl (if up then (u : Int) else -(u : Int)) (-9) p
  | 2 => if up then lnIvl (512 + u) (-9) p else lnIvl (768 + u) (-10) p
  | 9 => divIvl (2 * p) (.exact 512 0) (.exact (512 + (2 * s + j) : Nat) 0)
  | _ => if up then rsqrtIvl (256 + u) (-8) p else rsqrtIvl (256 + u) (-7) p

/-- Coefficient c0, c1 or c2 of a segment: one rounding to FP32 of the exact quadratic through the three points. -/
def exactCoef (slot s c : Nat) : F32 :=
  let y (j p : Nat) : Ivl := segPoint slot s j p
  let br (p : Nat) : Ivl := match c with
    | 0 => y 0 p
    | 1 => ((y 0 p).scale (-3) 0).add (((y 1 p).scale 4 0).add ((y 2 p).scale (-1) 0))
    | _ => ((y 0 p).scale 2 0).add (((y 1 p).scale (-4) 0).add ((y 2 p).scale 2 0))
  if slot = 2 && s == 0 && c == 0 then f32Zero
  else BitVec.ofNat 32 (ziv Fmt.fp32 .infinity br (Config.openResult (16 + slot) (BitVec.ofNat 32 s) (BitVec.ofNat 32 c)).toNat)

/-- A coefficient as 0x7030.xx reads it back: by construction for slots 0, 2, 9 and 10, else the ROM's own. -/
def romCoefOf (slot s c : Nat) : F32 :=
  if slot = 0 || slot == 2 || slot == 9 || slot == 10 then exactCoef slot s c else Config.romCoef slot s c

/-- P_s(t) without rounding. -/
def polyExact (slot s : Nat) (t : Val) : Val :=
  let c (k : Nat) : Val := F32.val (exactCoef slot s k)
  Val.add (c 0) (Val.mul t (Val.add (c 1) (Val.mul t (c 2))))

/-- P_s(t) in VG3 mode: two fused operations. -/
def polyVg3 (slot s : Nat) (t : F32) : F32 :=
  let c (k : Nat) : F32 := Config.vg3Coef slot s k
  F32.fma (F32.fma (c 2) t (c 1)) t (c 0)

/-! ### Table 4-7 -/

/-- v times 2^k. -/
def Val.ldexp (v : Val) (k : Int) : Val :=
  match v with
  | .fin n m e => .fin n m (e + k)
  | w => w

/-- The exp reduction: n, the segment and t. -/
def expReduce (x : F32) : Int × Nat × F32 :=
  let n := Val.rint (F32.val (F32.mul x 0x3FB8AA3B))
  let nf := F32.neg (F32.ofVal (.fin (decide (n < 0)) n.natAbs 0))
  let r := F32.fma nf 0x35BFBE8E (F32.fma nf 0x3F317200 x)
  let a := F32.mul (F32.abs r) 0x43800000
  let fl := (Val.floor (F32.val a)).toNat
  (n, fl + (if F32.sign r && !F32.isZero r then 128 else 0), F32.sub a (F32.ofNat fl))

/-- X_w of exp at x, exact, in the range of Table 4-7. -/
def expExactVal (x : F32) : Val :=
  if F32.lt x 0xC2D00000 then .fin false 0 0
  else
    let (n, s, t) := expReduce x
    (polyExact 0 s (F32.val t)).ldexp n

/-- FP32 exp in exact mode. -/
def expF32 (ov : OnOverflow) (x : F32) : F32 :=
  if F32.isNan x then f32Nan
  else if F32.isInf x then (if F32.sign x then f32Zero else BitVec.ofNat 32 (ovCode Fmt.fp32 ov false))
  else if F32.ge x 0x42B17218 then BitVec.ofNat 32 (ovCode Fmt.fp32 ov false)
  else if F32.isZero x then f32One
  else BitVec.ofNat 32 (Fmt.fp32.encode ov (expExactVal x))

/-- FP32 exp in VG3 mode. -/
def expVg3 (x : F32) : F32 :=
  if F32.isNan x then f32Nan
  else if F32.isInf x then (if F32.sign x then f32Zero else f32Max)
  else if F32.ge x 0x42B17218 then f32Max
  else if F32.lt x 0xC2D00000 then f32Zero
  else if F32.isZero x then f32One
  else
    let (n, s, t) := expReduce x
    BitVec.ofNat 32 (vg3Code Fmt.fp32 ((F32.val (polyVg3 0 s t)).ldexp n))

/-- The log reduction: e, the segment and t. -/
def logReduce (m : Nat) (e : Int) : Int × Nat × Val :=
  let l := Nat.log2 m
  let up := decide (2 * m < 3 * 2 ^ l)
  -- m / 2^l in [1, 2); from 1.5 on it is halved
  if up then
    let a := (m - 2 ^ l) * 256
    ((l : Int) + e, a / 2 ^ l, .fin false (a % 2 ^ l) (-(l : Int)))
  else
    let a := (4 * m - 3 * 2 ^ (l + 1)) * 128
    ((l : Int) + e + 1, 128 + a / 2 ^ (l + 1), .fin false (a % 2 ^ (l + 1)) (-(l + 1 : Nat)))

/-- L of Table 4-7, summed exactly. -/
def logL : Val := Val.add (F32.val 0x3F317200) (F32.val 0x35BFBE8E)

def intVal (n : Int) : Val := .fin (decide (n < 0)) n.natAbs 0

/-- FP32 log in exact mode. -/
def logF32 (ov : OnOverflow) (x : F32) : F32 :=
  match F32.val x with
  | .nan => f32Nan
  | .inf n => if n then f32Nan else BitVec.ofNat 32 (ovCode Fmt.fp32 ov false)
  | .fin n m e =>
    if m = 0 then BitVec.ofNat 32 (ovCode Fmt.fp32 ov true)
    else if n then f32Nan
    else if x = f32One then f32Zero
    else
      let (k, s, t) := logReduce m e
      F32.ofVal (Val.add (Val.mul (intVal k) logL) (polyExact 2 s t))

/-- FP32 log in VG3 mode: each operation of the reconstruction rounded (DEDUCED: L is rounded first). -/
def logVg3 (x : F32) : F32 :=
  match F32.val x with
  | .nan => f32Nan
  | .inf n => if n then f32Nan else f32Max
  | .fin n m e =>
    if m = 0 then f32Max ||| 0x80000000
    else if n then f32Nan
    else if x = f32One then f32Zero
    else
      let (k, s, t) := logReduce m e
      F32.add (F32.mul (F32.ofVal (intVal k)) (F32.ofVal logL)) (polyVg3 2 s (F32.ofVal t))

/-- A quotient of two exact values, the divisor not zero, rounded once. -/
def divVal (a b : Val) : F32 :=
  match a, b with
  | .fin n m e, .fin k j g =>
    if j = 0 then f32Nan
    else
      let (v, st) := divFin (n != k) m e j g
      F32.ofValSticky v st
  | _, _ => f32Nan

/-- FP32 sigmoid in exact mode. -/
def sigmoidF32 (x : F32) : F32 :=
  if F32.isNan x then f32Nan
  else if F32.isInf x then (if F32.sign x then f32Zero else f32One)
  else
    let w := if F32.isZero x then .fin false 1 0 else expExactVal (F32.neg (F32.abs x))
    let den := Val.add (.fin false 1 0) w
    if F32.sign x && !F32.isZero x then divVal w den else divVal (.fin false 1 0) den

/-- The reciprocal reduction: sign, e, the segment and t. -/
def recipReduce (m : Nat) (e : Int) : Int × Nat × Val :=
  let l := Nat.log2 m
  let a := (m - 2 ^ l) * 256
  ((l : Int) + e, a / 2 ^ l, .fin false (a % 2 ^ l) (-(l : Int)))

/-- FP32 reciprocal in exact mode. -/
def recipF32 (ov : OnOverflow) (x : F32) : F32 :=
  match F32.val x with
  | .nan => f32Nan
  | .inf n => if n then 0x80000000 else f32Zero
  | .fin n m e =>
    if m = 0 then BitVec.ofNat 32 (ovCode Fmt.fp32 ov n)
    else
      let (k, s, t) := recipReduce m e
      let v := (polyExact 9 s t).ldexp (-k)
      BitVec.ofNat 32 (Fmt.fp32.encode ov (if n then Val.neg v else v))

/-- FP32 reciprocal in VG3 mode. -/
def recipVg3 (x : F32) : F32 :=
  match F32.val x with
  | .nan => f32Nan
  | .inf n => if n then 0x80000000 else f32Zero
  | .fin n m e =>
    if m = 0 then (if n then f32Max ||| 0x80000000 else f32Max)
    else
      let (k, s, t) := recipReduce m e
      let v := (F32.val (polyVg3 9 s (F32.ofVal t))).ldexp (-k)
      BitVec.ofNat 32 (vg3Code Fmt.fp32 (if n then Val.neg v else v))

/-- The rsqrt reduction: e even, the segment and t. -/
def rsqrtReduce (m : Nat) (e : Int) : Int × Nat × Val :=
  let l := Nat.log2 m
  let k := (l : Int) + e
  if k % 2 = 0 then
    let a := (m - 2 ^ l) * 128
    (k, a / 2 ^ l, .fin false (a % 2 ^ l) (-(l : Int)))
  else
    -- 2m in [2, 4): a = (2m - 2) * 64
    let a := (m - 2 ^ l) * 128
    (k - 1, 128 + a / 2 ^ l, .fin false (a % 2 ^ l) (-(l : Int)))

/-- FP32 reciprocal square root in exact mode. -/
def rsqrtF32 (ov : OnOverflow) (x : F32) : F32 :=
  match F32.val x with
  | .nan => f32Nan
  | .inf n => if n then f32Nan else f32Zero
  | .fin n m e =>
    if m = 0 then BitVec.ofNat 32 (ovCode Fmt.fp32 ov n)
    else if n then f32Nan
    else
      let (k, s, t) := rsqrtReduce m e
      F32.ofVal ((polyExact 10 s t).ldexp (-(k / 2)))

/-- FP32 reciprocal square root in VG3 mode. -/
def rsqrtVg3 (x : F32) : F32 :=
  match F32.val x with
  | .nan => f32Nan
  | .inf n => if n then f32Nan else f32Zero
  | .fin n m e =>
    if m = 0 then (if n then f32Max ||| 0x80000000 else f32Max)
    else if n then f32Nan
    else
      let (k, s, t) := rsqrtReduce m e
      BitVec.ofNat 32 (vg3Code Fmt.fp32 ((F32.val (polyVg3 10 s (F32.ofVal t))).ldexp (-(k / 2))))

/-- FP32 sigmoid in VG3 mode (Table 4-12). -/
def sigmoidVg3 (x : F32) : F32 :=
  if F32.isNan x then f32Nan
  else if F32.isInf x then (if F32.sign x then f32Zero else f32One)
  else
    let e := expVg3 (F32.neg (F32.abs x))
    let den := F32.add f32One e
    if F32.sign x && !F32.isZero x then F32.div e den else F32.div f32One den

/-! ### The function unit under a step's FUNC_MODE -/

/-- The function mode of a step: FUNC_MODE and the overflow value RZ_FN_IEEE selects (R94, R108). -/
structure FnMode where
  vg3 : Bool
  ov : OnOverflow
deriving DecidableEq, Repr

def FnMode.exp (f : FnMode) (x : F32) : F32 := if f.vg3 then expVg3 x else expF32 f.ov x
def FnMode.log (f : FnMode) (x : F32) : F32 := if f.vg3 then logVg3 x else logF32 f.ov x
def FnMode.sigmoid (f : FnMode) (x : F32) : F32 := if f.vg3 then sigmoidVg3 x else sigmoidF32 x
def FnMode.rsqrt (f : FnMode) (x : F32) : F32 := if f.vg3 then rsqrtVg3 x else rsqrtF32 f.ov x

/-- Division in the soft maximum, renormalisation and modes 2 and 3 (Table 4-12). -/
def FnMode.div (f : FnMode) (a b : F32) : F32 := if f.vg3 then (F32.sat (F32.mul a (recipVg3 b))).1 else F32.div a b

/-- sin or cos in VG3 mode (Table 4-12): n and the remainder by three fused steps with the constants of 0x7031.0B, the same
formula at every magnitude; the quadrant n mod 4 selects sin or cos of the remainder and its sign, as in R96. The evaluation
of a remainder, whose segments the manual does not give, is free (log entry 3). -/
def trigVg3 (isCos : Bool) (x : F32) : F32 :=
  let n := Val.rint (F32.val (F32.mul x (Config.vg3Const 0)))
  let nf := F32.ofVal (intVal (-n))
  let r := [1, 2, 3].foldl (fun r i => F32.fma nf (Config.vg3Const i) r) x
  let q := (n + (if isCos then 1 else 0)) % 4
  let y := Config.vg3Eval (if q % 2 = 0 then 7 else 8) r
  if q < 2 then y else F32.neg y

/-- sin or cos rounded to BF16 (R81, R82). -/
def FnMode.trigBf16 (f : FnMode) (isCos : Bool) (x : F32) : BitVec 16 :=
  if f.vg3 then
    if F32.isNan x || F32.isInf x then BitVec.ofNat 16 Fmt.bf16.qnan
    else if F32.isZero x then BitVec.ofNat 16 (if isCos then oneCode Fmt.bf16 false else zeroCode Fmt.bf16 (F32.sign x))
    else BitVec.ofNat 16 (vg3Code Fmt.bf16 (F32.val (trigVg3 isCos x)))
  else BitVec.ofNat 16 (narrowTrig isCos Fmt.bf16 f.ov x)

/-- A hidden unit: act(a) * b rounded to BF16 (R107). -/
def FnMode.fused (f : FnMode) (gelu : Bool) (a b : F32) : BitVec 16 :=
  let code (n : Nat) : BitVec 16 := BitVec.ofNat 16 n
  if F32.isNan a || F32.isNan b then code Fmt.bf16.qnan
  else if f.vg3 then
    let act := if F32.isZero a then a
      else if F32.isInf a then (if F32.sign a then 0x80000000 else f32Max)
      else Config.vg3Eval (if gelu then 6 else 5) a
    code (vg3Code Fmt.bf16 (F32.val (F32.mul act b)))
  else
    let neg := F32.sign a != F32.sign b
    let small := F32.isZero a || (F32.isInf a && F32.sign a)
    if (small && F32.isInf b) || (F32.isInf a && !F32.sign a && F32.isZero b) then
      code (Config.openResult 32 a b).toNat
    else if small || F32.isZero b then code (zeroCode Fmt.bf16 neg)
    else if F32.isInf a || F32.isInf b then code (ovCode Fmt.bf16 f.ov neg)
    else
      let (vb, eb) := finOf b
      if atLeast a (actBound gelu) then
        if F32.sign a then code (zeroCode Fmt.bf16 neg)
        else code (justBelow Fmt.bf16 f.ov ((finOf a).1 * vb) ((finOf a).2 + eb))
      else code (ziv Fmt.bf16 f.ov (fun p => (actIvl gelu a p).scale vb eb) (Config.openResult 33 a b).toNat)

/-! ### Loaded tables (R97 to R99) -/

/-- A loaded function-kind table: its header's values and its records (C2, C1, C0). -/
structure FTable where
  nseg : Nat
  xLo : F32
  xHi : F32
  invW : F32
  limitLo : F32
  limitHi : F32
  recs : List (F32 × F32 × F32)
deriving DecidableEq, Repr

/-- R98. -/
def FTable.eval (tb : FTable) (x : F32) : F32 :=
  if F32.isNan x then x
  else if F32.lt x tb.xLo then tb.limitLo
  else if F32.ge x tb.xHi then tb.limitHi
  else
    let u := F32.mul (F32.sub x tb.xLo) tb.invW
    let s := min (Val.floor (F32.val u)).toNat (tb.nseg - 1)
    let t := F32.sub u (F32.ofNat s)
    let (c2, c1, c0) := tb.recs.getD s (f32Zero, f32Zero, f32Zero)
    F32.fma (F32.fma c2 t c1) t c0

/-- The ulp of R99 as a value. -/
def ulpVal (v : F32) : Val :=
  match F32.val v with
  | .fin _ m e => if m = 0 then .fin false 1 (-149) else .fin false 1 (max ((Nat.log2 m : Int) + e - 23) (-149))
  | _ => .fin false 1 (-149)

/-- a ≤ b, or a ≥ b when the declared direction is non-increasing (R99). -/
def inDir (dir : Bool) (a b : F32) : Bool := if dir then F32.ge a b else F32.le a b

/-- The slope test of one segment. -/
def slopeOk (dir : Bool) (r : F32 × F32 × F32) : Bool :=
  inDir dir f32Zero r.2.1 && inDir dir f32Zero (F32.add r.2.1 (F32.mul 0x40000000 r.1))

/-- r_s of R99: fl(fl(C2 + C1) + C0). -/
def rightEnd (r : F32 × F32 × F32) : F32 := F32.add (F32.add r.1 r.2.1) r.2.2

/-- The joint's magnitude bound of R99. -/
def jumpOk (a b : F32) : Bool :=
  let d := Val.add (F32.val b) (Val.neg (F32.val a))
  let m := if F32.ge (F32.abs a) (F32.abs b) then a else b
  let mag := match d with
    | .fin _ k e => Val.fin false k e
    | w => w
  Val.cmp mag (ulpVal m) != some 1

/-- The first failing slope, by record index. -/
def firstBadSlope (dir : Bool) : Nat → List (F32 × F32 × F32) → Option Nat
  | _, [] => none
  | s, r :: rs => if slopeOk dir r then firstBadSlope dir (s + 1) rs else some s

/-- The first failing seam, by the index of the boundary before a segment. -/
def firstBadSeam (dir : Bool) (limitHi : F32) : Nat → F32 → Bool → List (F32 × F32 × F32) → Option Nat
  | j, prev, _, [] => if inDir dir prev limitHi then none else some j
  | j, prev, joint, r :: rs =>
    if inDir dir prev r.2.2 && (!joint || jumpOk prev r.2.2) then
      firstBadSeam dir limitHi (j + 1) (rightEnd r) true rs
    else some j

/-- The monotone check: the failing record or seam index. -/
def FTable.monoFail (tb : FTable) (dir : Bool) : Option Nat :=
  match firstBadSlope dir 0 tb.recs with
  | some s => some s
  | none => firstBadSeam dir tb.limitHi 0 tb.limitLo false tb.recs

/-! ### The soft maximum (R102) -/

/-- Pass 1: the maximum of a segment; none where the segment has no candidate. -/
def segMax (x : List F32) : Option F32 :=
  x.foldl (fun m v => match m with
    | none => some v
    | some a => if F32.gt v a then some v else some a) none

/-- The exponential of one candidate against the maximum. -/
def smExp (f : FnMode) (m x : F32) : F32 := f.exp (if F32.eqv x m then f32Zero else F32.sub x m)

/-- Pass 2's sum: 64 positions a cycle, each cycle's tree added in cycle order. -/
def smSum : Nat → F32 → List F32 → F32
  | 0, s, _ => s
  | n + 1, s, vs =>
    smSum n (F32.add s (treeSum 6 ((vs.take 64 ++ List.replicate 64 f32Zero).take 64))) (vs.drop 64)

/-- The soft maximum of one segment of packed candidates: (value, in the segment) by position; the results of the
segment's positions, +0 elsewhere. -/
def softMax (f : FnMode) (x : List (F32 × Bool)) : List F32 :=
  match segMax ((x.filter (·.2)).map (·.1)) with
  | none => x.map (fun _ => f32Zero)
  | some m =>
    let e := x.map (fun (v, inSeg) => if inSeg then smExp f m v else f32Zero)
    let s := smSum (ceilDiv x.length 64) f32Zero e
    (e.zip x).map (fun (ej, (_, inSeg)) => if inSeg then f.div ej s else f32Zero)

/-- Gate mode 1's soft maximum over the k selected logits, one lane per slot (R102). -/
def softMaxSlots (f : FnMode) (x : List F32) : List F32 := softMax f (x.map (fun v => (v, true)))

/-! ### Router noise (R101) -/

def mix64 (z : Nat) : Nat :=
  let m64 (x : Nat) : Nat := x % 2 ^ 64
  let z := m64 ((z ^^^ (z >>> 30)) * 0xBF58476D1CE4E5B9)
  let z := m64 ((z ^^^ (z >>> 27)) * 0x94D049BB133111EB)
  z ^^^ (z >>> 31)

/-- The noised logit of R101. -/
def noisy (logit : F32) (seed : BitVec 64) (stepId t e : Nat) (scale : F32) : F32 :=
  let h := mix64 (mix64 (seed.toNat ^^^ (stepId * 2 ^ 32 + t)) ^^^ e)
  let u := F32.sub (F32.ofVal (.fin false (h >>> 40) (-23))) f32One
  F32.add logit (F32.mul scale u)

end Sys2Proof.Machine
end

