-- ==== Sys2Proof/Machine/Tab.lean ====
section
/-!
DEFINITION. Sparse tables: a list of (index, value) in one canonical form, the indices strictly rising and no entry
equal to what an unlisted index reads as. Every memory and the object store are held so; other tables may list an entry that
reads as an unlisted one does.
-/

namespace Sys2Proof.Machine

/-- A sparse table over what its unlisted indices read as. -/
abbrev Tab (α : Type) := List (Nat × α)

namespace Tabs

/-- The value at an index; `d` says what an unlisted index reads as. -/
def get {α : Type} (d : Nat → α) (t : Tab α) (k : Nat) : α := (t.lookup k).getD (d k)

/-- The entries of a run of values from index a, less those equal to the default. -/
def run {α : Type} [DecidableEq α] (d : Nat → α) : Nat → List α → Tab α
  | _, [] => []
  | a, v :: vs => if v = d a then run d (a + 1) vs else (a, v) :: run d (a + 1) vs

/-- The table with a run of values written from index a. -/
def setRun {α : Type} [DecidableEq α] (d : Nat → α) (t : Tab α) (a : Nat) (vs : List α) : Tab α :=
  t.filter (fun p => decide (p.1 < a)) ++ run d a vs ++ t.filter (fun p => decide (a + vs.length ≤ p.1))

/-- The table with one value written. -/
def set {α : Type} [DecidableEq α] (d : Nat → α) (t : Tab α) (k : Nat) (v : α) : Tab α := setRun d t k [v]

/-- The table with every index in [a, a + n) back at its default. -/
def clearRun {α : Type} (t : Tab α) (a n : Nat) : Tab α :=
  t.filter (fun p => decide (p.1 < a) || decide (a + n ≤ p.1))

/-- n values from index a on, over the entries of the table at or above a, in rising order of index. -/
def readFrom {α : Type} (d : Nat → α) : Nat → Nat → Tab α → List α
  | 0, _, _ => []
  | n + 1, a, [] => d a :: readFrom d n (a + 1) []
  | n + 1, a, (k, v) :: t => if k = a then v :: readFrom d n (a + 1) t else d a :: readFrom d n (a + 1) ((k, v) :: t)

/-- n values from index a on. -/
def getRun {α : Type} (d : Nat → α) (t : Tab α) (a n : Nat) : List α :=
  readFrom d n a (t.dropWhile (fun p => decide (p.1 < a)))

/-- The canonical form. -/
def wf {α : Type} [DecidableEq α] (d : Nat → α) (t : Tab α) : Bool :=
  decide (t.Pairwise (fun p q => p.1 < q.1)) && t.all (fun p => decide (p.2 ≠ d p.1))

end Tabs

/-! ### Byte memories -/

/-- A byte memory: stacked memory, LPDDR5X, the xSPI part. -/
abbrev Memory := Tab Byte

namespace Memory

/-- What a byte nothing has written reads as: 0 (log entry 1: the manual gives no content after power-on). -/
def blank : Nat → Byte := fun _ => 0

def readByte (m : Memory) (a : Nat) : Byte := Tabs.get blank m a

def read (m : Memory) (a n : Nat) : List Byte := Tabs.getRun blank m a n

def write (m : Memory) (a : Nat) (bs : List Byte) : Memory := Tabs.setRun blank m a bs

/-- The little-endian number of n bytes at an address (R375). -/
def readNat (m : Memory) (a n : Nat) : Nat := leNat (read m a n)

def writeNat (m : Memory) (a n v : Nat) : Memory := write m a (leBytes n v)

/-- The canonical form of a memory. -/
def wf (m : Memory) : Bool := Tabs.wf blank m

end Memory

end Sys2Proof.Machine
end

