-- ==== Sys2Proof/Machine/ObjTable.lean ====
section
/-!
DEFINITION. The object dictionary's objects (R292 to R295, Tables 0-5, 2-13, 3-7, 4-14, 5-5, 6-8, 7-7, 8-5, 9-8, 10-10,
11-8, 12-15, 13-8, 14-7 and 15-7): one row for each index.subindex, in ascending order, and the manual's name for each.
-/

namespace Sys2Proof.Machine

/-- Table 12-2. -/
inductive OdType where
  | bool | u8 | u16 | u32 | u64 | i32 | f32 | bf16 | bits32 | domain | string
deriving DecidableEq, Repr

/-- Table 12-3. -/
inductive OdAccess where
  | ro | rw | wo | rws | const
deriving DecidableEq, Repr

/-- The code of a type (Table 12-2). -/
def OdType.code : OdType → Nat
  | .bool => 0 | .u8 => 1 | .u16 => 2 | .u32 => 3 | .u64 => 4 | .i32 => 5 | .f32 => 6 | .bf16 => 7 | .bits32 => 8
  | .domain => 9 | .string => 10

/-- The size in bytes of a scalar type; 0 for a DOMAIN or STRING. -/
def OdType.size : OdType → Nat
  | .bool => 1 | .u8 => 1 | .u16 => 2 | .u32 => 4 | .u64 => 8 | .i32 => 4 | .f32 => 4 | .bf16 => 2 | .bits32 => 4
  | .domain => 0 | .string => 0

def OdType.isScalar : OdType → Bool
  | .domain => false | .string => false | _ => true

/-- The code of an access (Table 12-3). -/
def OdAccess.code : OdAccess → Nat
  | .ro => 0 | .rw => 1 | .wo => 2 | .rws => 3 | .const => 4

/-- One object: its key (index * 256 + subindex), type, access, default, DEF_KIND of Table 12-5, persistence, and for a
DOMAIN or STRING its size (0 where the size is the state's: a bank, a slot, the directory). -/
structure OdRow where
  key : Nat
  ty : OdType
  acc : OdAccess
  dflt : Nat
  kind : Nat
  persist : Bool
  size : Nat
deriving DecidableEq, Repr

namespace Obj

abbrev RZ_VENDOR_NAME : Nat := 0x100001
abbrev RZ_DEVICE_NAME : Nat := 0x100002
abbrev RZ_VENDOR_IANA : Nat := 0x100003
abbrev RZ_SILICON_REV : Nat := 0x100101
abbrev RZ_ROM_VERSION : Nat := 0x100102
abbrev RZ_OD_VERSION : Nat := 0x100103
abbrev RZ_NODE_ID : Nat := 0x100201
abbrev RZ_PKG_SERIAL : Nat := 0x100202
abbrev RZ_GRADE_DIES : Nat := 0x100301
abbrev RZ_GRADE_CODE : Nat := 0x100302
abbrev RZ_MCTP_EID : Nat := 0x101001
abbrev RZ_I3C_DYN_ADDR : Nat := 0x101002
abbrev RZ_OD_DIRECTORY : Nat := 0x102000
abbrev RZ_OD_COUNT : Nat := 0x102001
abbrev RZ_DOMAIN_STAGE : Nat := 0x103000
abbrev RZ_DOMAIN_TIMEOUT : Nat := 0x103001
abbrev RZ_EXPERT_UNLOCK : Nat := 0x110001
abbrev RZ_EXPERT_STATE : Nat := 0x110002
abbrev RZ_STATE_CMD : Nat := 0x200001
abbrev RZ_PHASE_ROLE : Nat := 0x200100
abbrev RZ_ALERT_ACK : Nat := 0x200200
abbrev RZ_ALERT_MASK : Nat := 0x200201
abbrev RZ_LEAD_POSITION : Nat := 0x201001
abbrev RZ_TRAY_MASTER : Nat := 0x201002
abbrev RZ_GATE_BW : Nat := 0x220001
abbrev RZ_GATE_LAT : Nat := 0x220002
abbrev RZ_TIMING_REPEAT : Nat := 0x220100
abbrev RZ_SCHED_BASE : Nat := 0x220200
abbrev RZ_SCHED_LEN : Nat := 0x220201
abbrev RZ_STATUS_RING : Nat := 0x220300
abbrev RZ_STATUS_RING_LEN : Nat := 0x220301
abbrev RZ_STATUS_TAIL : Nat := 0x220302
abbrev RZ_SUMMARY_BASE : Nat := 0x220400
abbrev RZ_RBANK_SRC : Nat := 0x231001
abbrev RZ_RBANK_LEN : Nat := 0x231002
abbrev RZ_RBANK_CTRL : Nat := 0x231003
abbrev RZ_WEIGHT_FMT : Nat := 0x240203
abbrev RZ_GATE_SCALE : Nat := 0x240204
abbrev RZ_NOISE_SCALE : Nat := 0x240401
abbrev RZ_NOISE_SEED : Nat := 0x240402
abbrev RZ_FTAB_SRC : Nat := 0x241001
abbrev RZ_FTAB_LEN : Nat := 0x241002
abbrev RZ_FTAB_CTRL : Nat := 0x241003
abbrev RZ_SKIP_SRC : Nat := 0x242001
abbrev RZ_SKIP_LEN : Nat := 0x242002
abbrev RZ_SKIP_CTRL : Nat := 0x242003
abbrev RZ_ASH_RING : Nat := 0x243000
abbrev RZ_ASH_RING_LEN : Nat := 0x243001
abbrev RZ_ASH_LOG_EN : Nat := 0x243002
abbrev RZ_ASH_RING_TAIL : Nat := 0x243003
abbrev RZ_WALK_BASE : Nat := 0x243100
abbrev RZ_MX8_ELEM : Nat := 0x244001
abbrev RZ_MX6_ELEM : Nat := 0x244002
abbrev RZ_LJOB_RING : Nat := 0x245000
abbrev RZ_LJOB_RING_LEN : Nat := 0x245001
abbrev RZ_LJOB_TAIL : Nat := 0x245002
abbrev RZ_LAYOUT_COMMIT : Nat := 0x245003
abbrev RZ_PACK_BASE : Nat := 0x246000
abbrev RZ_PACK_LEN : Nat := 0x246001
abbrev RZ_SHARED_DIE0 : Nat := 0x246101
abbrev RZ_SHARED_DIE1 : Nat := 0x246102
abbrev RZ_SHARED_DIE2 : Nat := 0x246103
abbrev RZ_SHARED_DIE3 : Nat := 0x246104
abbrev RZ_AGG_BASE : Nat := 0x246200
abbrev RZ_AGG_SLOTS : Nat := 0x246201
abbrev RZ_AGG_FLUSH : Nat := 0x246202
abbrev RZ_RCACHE_BASE : Nat := 0x247000
abbrev RZ_RCACHE_ENTRIES : Nat := 0x247001
abbrev RZ_BULK_SEEN_BASE : Nat := 0x247200
abbrev RZ_LAND_BASE : Nat := 0x247300
abbrev RZ_LAND_SLOTS : Nat := 0x247301
abbrev RZ_PLACE_SRC : Nat := 0x248000
abbrev RZ_PLACE_LEN : Nat := 0x248001
abbrev RZ_PLACE_CTRL : Nat := 0x248002
abbrev RZ_PLACE_GROUP : Nat := 0x248003
abbrev RZ_STATS_BASE : Nat := 0x248100
abbrev RZ_ROUTE_STORE_BASE : Nat := 0x248200
abbrev RZ_ROUTE_STORE_CAP : Nat := 0x248201
abbrev RZ_ROUTE_STORE_STAGE : Nat := 0x248202
abbrev RZ_ROUTE_MEM_EN : Nat := 0x248400
abbrev RZ_ROUTE_MEM_BASE : Nat := 0x248401
abbrev RZ_ROUTE_MEM_LEN : Nat := 0x248402
abbrev RZ_STAGE_BASE : Nat := 0x249000
abbrev RZ_STAGE_LEN : Nat := 0x249001
abbrev RZ_STAGE_POS : Nat := 0x249002
abbrev RZ_STAGE_ROW : Nat := 0x249003
abbrev RZ_LEDGER_EXT : Nat := 0x249100
abbrev RZ_STRIPE_EN : Nat := 0x249200
abbrev RZ_STRIPE_TENSOR : Nat := 0x249201
abbrev RZ_STRIPE_ROWS : Nat := 0x249202
abbrev RZ_STRIPE_HALO : Nat := 0x249203
abbrev RZ_TAG_BASE : Nat := 0x249300
abbrev RZ_VERDICT : Nat := 0x250001
abbrev RZ_SEQ_CMD : Nat := 0x250002
abbrev RZ_CANCEL : Nat := 0x250003
abbrev RZ_FTIME_NEXT : Nat := 0x251001
abbrev RZ_START_GROUP : Nat := 0x251002
abbrev RZ_RELEASE_LEAD : Nat := 0x251003
abbrev RZ_EXPERT_WDIGEST : Nat := 0x252000
abbrev RZ_INPUT_SET : Nat := 0x252100
abbrev RZ_DIGEST_CTRL : Nat := 0x252101
abbrev RZ_BDIGEST_BASE : Nat := 0x252102
abbrev RZ_STOKE_EN : Nat := 0x260001
abbrev RZ_HOLDUP_MJ : Nat := 0x260101
abbrev RZ_LOG_PERSIST : Nat := 0x260201
abbrev RZ_XSPI_CMD : Nat := 0x260202
abbrev RZ_XSPI_DST : Nat := 0x260203
abbrev RZ_XSPI_ARG : Nat := 0x260204
abbrev RZ_SOOT_AUTO : Nat := 0x260301
abbrev RZ_SOOT_TAIL : Nat := 0x270001
abbrev RZ_SOOT_ALERT_SEV : Nat := 0x270101
abbrev RZ_RERUN_AUTO : Nat := 0x270201
abbrev RZ_RERUN_LIMIT : Nat := 0x270202
abbrev RZ_REWIND_BASE : Nat := 0x270203
abbrev RZ_SCRUB_PERIOD : Nat := 0x270301
abbrev RZ_DBG_PIN_EN : Nat := 0x280001
abbrev RZ_STATE : Nat := 0x300001
abbrev RZ_STATE_REASON : Nat := 0x300002
abbrev RZ_OD_REFUSED : Nat := 0x300101
abbrev RZ_UNLOCK_FAIL : Nat := 0x300102
abbrev RZ_ALERT_CAUSE : Nat := 0x300200
abbrev RZ_SEQ_STATE : Nat := 0x310001
abbrev RZ_LAST_REFUSAL : Nat := 0x310002
abbrev RZ_STATUS_HEAD : Nat := 0x310003
abbrev RZ_VERDICT_LATE : Nat := 0x310101
abbrev RZ_VERDICT_DISCARD : Nat := 0x310102
abbrev RZ_STATUS_LOST : Nat := 0x310103
abbrev RZ_SUMMARY_SEQ : Nat := 0x310200
abbrev RZ_RBANK0_STATE : Nat := 0x330001
abbrev RZ_RBANK1_STATE : Nat := 0x330002
abbrev RZ_NORM_SAT : Nat := 0x330101
abbrev RZ_BAD_INPUT : Nat := 0x330102
abbrev RZ_BAD_GROUP : Nat := 0x330103
abbrev RZ_BAD_LOGIT : Nat := 0x340101
abbrev RZ_ZERO_GATE : Nat := 0x340102
abbrev RZ_WEIGHT_SAT : Nat := 0x340103
abbrev RZ_FN_MISMATCH : Nat := 0x340104
abbrev RZ_FTAB11_STATE : Nat := 0x34100B
abbrev RZ_FTAB12_STATE : Nat := 0x34100C
abbrev RZ_FTAB13_STATE : Nat := 0x34100D
abbrev RZ_FTAB14_STATE : Nat := 0x34100E
abbrev RZ_FTAB15_STATE : Nat := 0x34100F
abbrev RZ_FTAB_LAST_FAIL : Nat := 0x341100
abbrev RZ_ASH_CAP : Nat := 0x343001
abbrev RZ_ASH_BAD : Nat := 0x343002
abbrev RZ_SKIPPED : Nat := 0x343003
abbrev RZ_NULL_SLOTS : Nat := 0x343004
abbrev RZ_EARLY_RELEASED : Nat := 0x343005
abbrev RZ_ASH_RING_DROP : Nat := 0x343006
abbrev RZ_ASH_RING_HEAD : Nat := 0x343007
abbrev RZ_LJOB_HEAD : Nat := 0x345001
abbrev RZ_IDX_OOB : Nat := 0x345002
abbrev RZ_LAYOUT_SAT : Nat := 0x345003
abbrev RZ_LJOB_REFUSED : Nat := 0x345004
abbrev RZ_MX_NANBLK : Nat := 0x345005
abbrev RZ_LAYOUT_STATE : Nat := 0x345006
abbrev RZ_LAYOUT_LAST_FAIL : Nat := 0x345007
abbrev RZ_LAYOUT_CRC : Nat := 0x345008
abbrev RZ_MX_SAT : Nat := 0x345009
abbrev RZ_PKT_SENT : Nat := 0x346001
abbrev RZ_PKT_REPLAY : Nat := 0x346002
abbrev RZ_POOL_BUSY : Nat := 0x346003
abbrev RZ_POOL_FREE : Nat := 0x346004
abbrev RZ_POOL_MIN_FREE : Nat := 0x346005
abbrev RZ_QUEUE_RESET : Nat := 0x346006
abbrev RZ_PKT_DISCARD : Nat := 0x346007
abbrev RZ_BULK_SENT : Nat := 0x346008
abbrev RZ_FAB_RETRY : Nat := 0x347001
abbrev RZ_FAB_UNKNOWN : Nat := 0x347002
abbrev RZ_RCACHE_HIT : Nat := 0x347003
abbrev RZ_RCACHE_FULL : Nat := 0x347004
abbrev RZ_STALE_REQ : Nat := 0x347005
abbrev RZ_ROUTE_CHANGE : Nat := 0x347006
abbrev RZ_EPOCH_WRAP_LOSS : Nat := 0x347007
abbrev RZ_FAB_PORT_STATE : Nat := 0x347008
abbrev RZ_FAB0_OPEN : Nat := 0x347009
abbrev RZ_FAB1_OPEN : Nat := 0x34700A
abbrev RZ_BULK_DUP : Nat := 0x34700B
abbrev RZ_REPLY_ORPHAN : Nat := 0x34700C
abbrev RZ_BULK_STALE : Nat := 0x34700D
abbrev RZ_PLACE_EPOCH : Nat := 0x348001
abbrev RZ_PLACE_STATE : Nat := 0x348002
abbrev RZ_COLL_FAIL : Nat := 0x348101
abbrev RZ_COLL_LAST_FAIL : Nat := 0x348102
abbrev RZ_COLL_PAD_DROP : Nat := 0x348103
abbrev RZ_STATS_SAT : Nat := 0x348104
abbrev RZ_ROUTE_MEM_STATE : Nat := 0x348401
abbrev RZ_ROUTE_BAD_RECORD : Nat := 0x348402
abbrev RZ_PRED_POSTED : Nat := 0x348403
abbrev RZ_BATCH_EPOCH : Nat := 0x349001
abbrev RZ_STALE_RETURN : Nat := 0x349002
abbrev RZ_RET_ERROR : Nat := 0x349003
abbrev RZ_STAGED : Nat := 0x349004
abbrev RZ_COMBINED : Nat := 0x349005
abbrev RZ_ZERO_ROWS : Nat := 0x349006
abbrev RZ_CANCEL_FENCE_MAX : Nat := 0x349007
abbrev RZ_LEDGER_LIVE : Nat := 0x349008
abbrev RZ_STASH_FREE : Nat := 0x349009
abbrev RZ_RET_REPLAY : Nat := 0x34900A
abbrev RZ_FTIME : Nat := 0x351001
abbrev RZ_FTIME_STEP : Nat := 0x351002
abbrev RZ_TIMING_BROKEN : Nat := 0x351003
abbrev RZ_REPLAY_STATE : Nat := 0x351200
abbrev RZ_REPLAY_POS : Nat := 0x351201
abbrev RZ_PROG_DIGEST : Nat := 0x352000
abbrev RZ_INPUT_DIGEST : Nat := 0x352001
abbrev RZ_WT_DIGEST : Nat := 0x352002
abbrev RZ_DIGEST_STATE : Nat := 0x352003
abbrev RZ_TJ : Nat := 0x360001
abbrev RZ_TJ_MAX : Nat := 0x360002
abbrev RZ_CLK_STATE : Nat := 0x360101
abbrev RZ_STOKE_COUNT : Nat := 0x360102
abbrev RZ_STOKE_MS : Nat := 0x360103
abbrev RZ_THROTTLE_COUNT : Nat := 0x360104
abbrev RZ_THERMAL_BANK : Nat := 0x360105
abbrev RZ_CLK_LOST : Nat := 0x360201
abbrev RZ_KINDLE_PHASE : Nat := 0x360301
abbrev RZ_KINDLE_TIME : Nat := 0x360302
abbrev RZ_KINDLE_FAIL : Nat := 0x360303
abbrev RZ_XSPI_STATE : Nat := 0x360401
abbrev RZ_LAST_COMMIT_KIB : Nat := 0x360402
abbrev RZ_COMMIT_NEED : Nat := 0x360403
abbrev RZ_XLOG_COUNT : Nat := 0x360404
abbrev RZ_HOLDUP_REFUSED : Nat := 0x360405
abbrev RZ_SOOT_HEAD : Nat := 0x370001
abbrev RZ_SOOT_LOST : Nat := 0x370002
abbrev RZ_SOOT_FIRST_FATAL : Nat := 0x370003
abbrev RZ_PARITY_REPLAY : Nat := 0x370101
abbrev RZ_SECDED_CORR : Nat := 0x370102
abbrev RZ_SECDED_UNCORR : Nat := 0x370103
abbrev RZ_SCRUB_LAST : Nat := 0x370104
abbrev RZ_RERUN_COUNT : Nat := 0x370201
abbrev RZ_REWIND_COUNT : Nat := 0x370202
abbrev RZ_WATCHDOG : Nat := 0x370301
abbrev RZ_FN_IEEE : Nat := 0x440201
abbrev RZ_SCORE_FN : Nat := 0x440202
abbrev RZ_FN_COMPARE : Nat := 0x440301
abbrev RZ_EARLY_DISPATCH : Nat := 0x443001
abbrev RZ_EARLY_HOLD : Nat := 0x443002
abbrev RZ_IDX_WRAP : Nat := 0x445001
abbrev RZ_BURST : Nat := 0x446001
abbrev RZ_TWO_HALF : Nat := 0x446002
abbrev RZ_POOL_RESERVE : Nat := 0x446003
abbrev RZ_BUSY_BACKOFF : Nat := 0x446004
abbrev RZ_DRAIN_LIMIT : Nat := 0x446005
abbrev RZ_FAB_WEIGHTING : Nat := 0x447001
abbrev RZ_GATE_TIMEOUT : Nat := 0x447002
abbrev RZ_GATE_INFLIGHT : Nat := 0x447003
abbrev RZ_COLL_TIMEOUT : Nat := 0x448001
abbrev RZ_HYST_EN : Nat := 0x448401
abbrev RZ_HYST_MARGIN : Nat := 0x448402
abbrev RZ_STOKE_LIMIT : Nat := 0x460001
abbrev RZ_KINDLE_WAIT : Nat := 0x460002
abbrev RZ_THROTTLE_EXIT : Nat := 0x460101
abbrev RZ_ROUTER_BANK0 : Nat := 0x601000
abbrev RZ_ROUTER_BANK1 : Nat := 0x601100
abbrev RZ_FTAB11 : Nat := 0x60200B
abbrev RZ_FTAB12 : Nat := 0x60200C
abbrev RZ_FTAB13 : Nat := 0x60200D
abbrev RZ_FTAB14 : Nat := 0x60200E
abbrev RZ_FTAB15 : Nat := 0x60200F
abbrev RZ_OWNER_TABLE : Nat := 0x603000
abbrev RZ_TENSOR_TABLE : Nat := 0x603100
abbrev RZ_QUEUE_MAP0 : Nat := 0x604000
abbrev RZ_QUEUE_MAP1 : Nat := 0x604001
abbrev RZ_LANDING_TABLE : Nat := 0x605000
abbrev RZ_MCAST_TABLE : Nat := 0x605100
abbrev RZ_GROUP_TABLE : Nat := 0x606000
abbrev RZ_PLACE_BANK0 : Nat := 0x606100
abbrev RZ_PLACE_BANK1 : Nat := 0x606101
abbrev RZ_ROUTE_MAP : Nat := 0x607000
abbrev RZ_SOOT_LOG : Nat := 0x608000
abbrev RZ_HOB_CONFIG : Nat := 0x702000
abbrev RZ_FN_ROM0 : Nat := 0x703000
abbrev RZ_FN_ROM1 : Nat := 0x703001
abbrev RZ_FN_ROM2 : Nat := 0x703002
abbrev RZ_FN_ROM3 : Nat := 0x703003
abbrev RZ_FN_ROM4 : Nat := 0x703004
abbrev RZ_FN_ROM5 : Nat := 0x703005
abbrev RZ_FN_ROM6 : Nat := 0x703006
abbrev RZ_FN_ROM7 : Nat := 0x703007
abbrev RZ_FN_ROM8 : Nat := 0x703008
abbrev RZ_FN_ROM9 : Nat := 0x703009
abbrev RZ_FN_ROM10 : Nat := 0x70300A
abbrev RZ_FN_VG30 : Nat := 0x703100
abbrev RZ_FN_VG31 : Nat := 0x703101
abbrev RZ_FN_VG32 : Nat := 0x703102
abbrev RZ_FN_VG33 : Nat := 0x703103
abbrev RZ_FN_VG34 : Nat := 0x703104
abbrev RZ_FN_VG35 : Nat := 0x703105
abbrev RZ_FN_VG36 : Nat := 0x703106
abbrev RZ_FN_VG37 : Nat := 0x703107
abbrev RZ_FN_VG38 : Nat := 0x703108
abbrev RZ_FN_VG39 : Nat := 0x703109
abbrev RZ_FN_VG310 : Nat := 0x70310A
abbrev RZ_FN_VG3_CONST : Nat := 0x70310B
abbrev RZ_HIST_BANK0 : Nat := 0x704000
abbrev RZ_HIST_BANK1 : Nat := 0x704001
abbrev RZ_DBG_SEL0 : Nat := 0x710001
abbrev RZ_DBG_SEL1 : Nat := 0x710002
abbrev RZ_DBG_SEL2 : Nat := 0x710003
abbrev RZ_DBG_SEL3 : Nat := 0x710004
abbrev RZ_DBG_SEL4 : Nat := 0x710005
abbrev RZ_DBG_SEL5 : Nat := 0x710006
abbrev RZ_DBG_SEL6 : Nat := 0x710007
abbrev RZ_DBG_SEL7 : Nat := 0x710008
abbrev RZ_DBG_SEL8 : Nat := 0x710009
abbrev RZ_DBG_SEL9 : Nat := 0x71000A
abbrev RZ_DBG_SEL10 : Nat := 0x71000B
abbrev RZ_DBG_SEL11 : Nat := 0x71000C
abbrev RZ_DBG_SEL12 : Nat := 0x71000D
abbrev RZ_DBG_SEL13 : Nat := 0x71000E
abbrev RZ_DBG_SEL14 : Nat := 0x71000F
abbrev RZ_DBG_SEL15 : Nat := 0x710010
abbrev RZ_DBG_LIST_LEN : Nat := 0x710011
abbrev RZ_DBG_CATALOG : Nat := 0x710020
abbrev RZ_PIN_STATE : Nat := 0x710101
abbrev RZ_SYNC_PULSES : Nat := 0x710102
abbrev RZ_SYNC_PRESENCE : Nat := 0x710103
abbrev RZ_SYNC_GLITCH : Nat := 0x710104
abbrev RZ_HOLDUP_DROPS : Nat := 0x710105
abbrev RZ_JTAG_IDCODE : Nat := 0x710201
abbrev RZ_LEDGER : Nat := 0x749000
abbrev RZ_PERSIST_CMD : Nat := 0x800001
abbrev RZ_PERSIST_EDIT : Nat := 0x800002
abbrev RZ_PERSIST_STATE : Nat := 0x800003
abbrev RZ_PERSIST_LAST : Nat := 0x800004
abbrev RZ_LOG_BASE : Nat := 0x801000
abbrev RZ_LOG_LEN : Nat := 0x801001
abbrev RZ_LOG_EN : Nat := 0x801002
abbrev RZ_LOG_RESERVE : Nat := 0x801003
abbrev RZ_LOG_SEG : Nat := 0x801004
abbrev RZ_LOG_HEAD : Nat := 0x801100
abbrev RZ_LOG_TAIL : Nat := 0x801101
abbrev RZ_REPLAY_EN : Nat := 0x801200
abbrev RZ_REPLAY_SRC : Nat := 0x801201
abbrev RZ_REPLAY_LEN : Nat := 0x801202

end Obj

def odRows0 : List OdRow := [
  ⟨0x100001, .string, .const, 0, 1, false, 8⟩,
  ⟨0x100002, .string, .const, 0, 1, false, 39⟩,
  ⟨0x100003, .u32, .const, 0, 0, false, 0⟩,
  ⟨0x100101, .u16, .const, 0, 0, false, 0⟩,
  ⟨0x100102, .u32, .const, 0, 0, false, 0⟩,
  ⟨0x100103, .u16, .const, 0x300, 0, false, 0⟩,
  ⟨0x100201, .u32, .ro, 0, 2, false, 0⟩,
  ⟨0x100202, .u64, .const, 0, 0, false, 0⟩,
  ⟨0x100301, .u16, .const, 0, 2, false, 0⟩,
  ⟨0x100302, .u8, .const, 0, 2, false, 0⟩,
  ⟨0x101001, .u8, .ro, 0, 0, false, 0⟩,
  ⟨0x101002, .u8, .ro, 0, 0, false, 0⟩,
  ⟨0x102000, .domain, .ro, 0, 1, false, 0⟩,
  ⟨0x102001, .u32, .const, 0, 0, false, 0⟩,
  ⟨0x103000, .u64, .rw, 0, 0, false, 0⟩,
  ⟨0x103001, .u32, .rw, 0xbebc200, 0, true, 0⟩,
  ⟨0x110001, .u32, .wo, 0, 1, false, 0⟩,
  ⟨0x110002, .bits32, .ro, 0, 0, false, 0⟩,
  ⟨0x200001, .u8, .wo, 0, 1, false, 0⟩,
  ⟨0x200100, .u8, .rws, 0, 0, true, 0⟩,
  ⟨0x200200, .bits32, .wo, 0, 1, false, 0⟩,
  ⟨0x200201, .bits32, .rw, 0x1ff, 0, true, 0⟩,
  ⟨0x201001, .u8, .ro, 0, 2, false, 0⟩,
  ⟨0x201002, .bool, .rws, 0, 0, true, 0⟩,
  ⟨0x220001, .u32, .rws, 0x30d40, 0, true, 0⟩,
  ⟨0x220002, .u32, .rws, 0x5dc0, 0, true, 0⟩,
  ⟨0x220100, .bool, .rws, 0, 0, true, 0⟩,
  ⟨0x220200, .u64, .rws, 0, 0, false, 0⟩,
  ⟨0x220201, .u32, .rws, 0, 0, false, 0⟩,
  ⟨0x220300, .u64, .rws, 0, 0, false, 0⟩,
  ⟨0x220301, .u16, .rws, 0x400, 0, false, 0⟩,
  ⟨0x220302, .u32, .rw, 0, 0, false, 0⟩,
  ⟨0x220400, .u64, .rws, 0, 0, false, 0⟩,
  ⟨0x231001, .u64, .rw, 0, 0, false, 0⟩,
  ⟨0x231002, .u32, .rw, 0, 0, false, 0⟩,
  ⟨0x231003, .u8, .wo, 0, 1, false, 0⟩,
  ⟨0x240203, .u8, .rws, 0, 0, true, 0⟩,
  ⟨0x240204, .f32, .rws, 0x3f800000, 0, true, 0⟩,
  ⟨0x240401, .f32, .rws, 0, 0, true, 0⟩,
  ⟨0x240402, .u64, .rw, 0, 0, false, 0⟩]

def odRows1 : List OdRow := [
  ⟨0x241001, .u64, .rw, 0, 0, false, 0⟩,
  ⟨0x241002, .u32, .rw, 0, 0, false, 0⟩,
  ⟨0x241003, .u8, .wo, 0, 1, false, 0⟩,
  ⟨0x242001, .u64, .rw, 0, 0, false, 0⟩,
  ⟨0x242002, .u32, .rw, 0, 0, false, 0⟩,
  ⟨0x242003, .u8, .wo, 0, 1, false, 0⟩,
  ⟨0x243000, .u64, .rws, 0, 0, false, 0⟩,
  ⟨0x243001, .u32, .rws, 0x10000, 0, false, 0⟩,
  ⟨0x243002, .bool, .rws, 0, 0, true, 0⟩,
  ⟨0x243003, .u32, .rw, 0, 0, false, 0⟩,
  ⟨0x243100, .u64, .rws, 0, 0, false, 0⟩,
  ⟨0x244001, .u8, .rws, 0, 0, true, 0⟩,
  ⟨0x244002, .u8, .rws, 0, 0, true, 0⟩,
  ⟨0x245000, .u64, .rws, 0, 0, false, 0⟩,
  ⟨0x245001, .u16, .rws, 0x100, 0, false, 0⟩,
  ⟨0x245002, .u32, .rw, 0, 0, false, 0⟩,
  ⟨0x245003, .u8, .wo, 0, 1, false, 0⟩,
  ⟨0x246000, .u64, .rws, 0, 0, false, 0⟩,
  ⟨0x246001, .u64, .rws, 0, 0, false, 0⟩,
  ⟨0x246101, .u8, .rws, 0, 0, true, 0⟩,
  ⟨0x246102, .u8, .rws, 1, 0, true, 0⟩,
  ⟨0x246103, .u8, .rws, 2, 0, true, 0⟩,
  ⟨0x246104, .u8, .rws, 3, 0, true, 0⟩,
  ⟨0x246200, .u64, .rws, 0, 0, false, 0⟩,
  ⟨0x246201, .u16, .rws, 0x40, 0, true, 0⟩,
  ⟨0x246202, .u32, .rws, 0x2ee0, 0, true, 0⟩,
  ⟨0x247000, .u64, .rws, 0, 0, false, 0⟩,
  ⟨0x247001, .u32, .rws, 0x100000, 0, true, 0⟩,
  ⟨0x247200, .u64, .rws, 0, 0, false, 0⟩,
  ⟨0x247300, .u64, .rws, 0, 0, false, 0⟩,
  ⟨0x247301, .u16, .rws, 0x40, 0, true, 0⟩,
  ⟨0x248000, .u64, .rw, 0, 0, false, 0⟩,
  ⟨0x248001, .u32, .rw, 0, 0, false, 0⟩,
  ⟨0x248002, .u8, .wo, 0, 1, false, 0⟩,
  ⟨0x248003, .u8, .rws, 0, 0, true, 0⟩,
  ⟨0x248100, .u64, .rws, 0, 0, false, 0⟩,
  ⟨0x248200, .u64, .rws, 0, 0, false, 0⟩,
  ⟨0x248201, .u64, .rws, 0, 0, false, 0⟩,
  ⟨0x248202, .u64, .rws, 0, 0, false, 0⟩,
  ⟨0x248400, .bool, .rws, 0, 0, true, 0⟩]

def odRows2 : List OdRow := [
  ⟨0x248401, .u64, .rws, 0, 0, false, 0⟩,
  ⟨0x248402, .u64, .rws, 0, 0, false, 0⟩,
  ⟨0x249000, .u64, .rws, 0, 0, false, 0⟩,
  ⟨0x249001, .u64, .rws, 0, 0, false, 0⟩,
  ⟨0x249002, .u8, .rws, 8, 0, true, 0⟩,
  ⟨0x249003, .u32, .rws, 0x2000, 0, true, 0⟩,
  ⟨0x249100, .u64, .rws, 0, 0, false, 0⟩,
  ⟨0x249200, .bool, .rws, 0, 0, true, 0⟩,
  ⟨0x249201, .u8, .rws, 0, 0, true, 0⟩,
  ⟨0x249202, .u16, .rws, 0x10, 0, true, 0⟩,
  ⟨0x249203, .u8, .rws, 1, 0, true, 0⟩,
  ⟨0x249300, .u64, .rws, 0, 0, false, 0⟩,
  ⟨0x250001, .u64, .wo, 0, 1, false, 0⟩,
  ⟨0x250002, .u8, .wo, 0, 1, false, 0⟩,
  ⟨0x250003, .u64, .wo, 0, 1, false, 0⟩,
  ⟨0x251001, .u64, .rw, 0, 0, false, 0⟩,
  ⟨0x251002, .u8, .rws, 0, 0, true, 0⟩,
  ⟨0x251003, .u32, .rws, 0xea60, 0, true, 0⟩,
  ⟨0x252000, .domain, .rw, 0, 1, false, 32⟩,
  ⟨0x252100, .domain, .rws, 0, 1, false, 16⟩,
  ⟨0x252101, .u8, .wo, 0, 1, false, 0⟩,
  ⟨0x252102, .u64, .rws, 0, 0, false, 0⟩,
  ⟨0x260001, .bool, .rw, 0, 0, true, 0⟩,
  ⟨0x260101, .u32, .rw, 0, 0, true, 0⟩,
  ⟨0x260201, .bool, .rws, 0, 0, true, 0⟩,
  ⟨0x260202, .u8, .wo, 0, 1, false, 0⟩,
  ⟨0x260203, .u64, .rw, 0, 0, false, 0⟩,
  ⟨0x260204, .u32, .rw, 0, 0, false, 0⟩,
  ⟨0x260301, .bool, .rw, 1, 0, true, 0⟩,
  ⟨0x270001, .u32, .rw, 0, 0, false, 0⟩,
  ⟨0x270101, .u8, .rw, 2, 0, true, 0⟩,
  ⟨0x270201, .bool, .rws, 1, 0, true, 0⟩,
  ⟨0x270202, .u8, .rws, 3, 0, true, 0⟩,
  ⟨0x270203, .u64, .rws, 0, 0, false, 0⟩,
  ⟨0x270301, .u32, .rws, 0x3e8, 0, true, 0⟩,
  ⟨0x280001, .bool, .rw, 0, 0, true, 0⟩,
  ⟨0x300001, .u8, .ro, 1, 0, false, 0⟩,
  ⟨0x300002, .u8, .ro, 0, 0, false, 0⟩,
  ⟨0x300101, .u32, .ro, 0, 0, false, 0⟩,
  ⟨0x300102, .u32, .ro, 0, 0, false, 0⟩]

def odRows3 : List OdRow := [
  ⟨0x300200, .bits32, .ro, 0, 0, false, 0⟩,
  ⟨0x310001, .u8, .ro, 0, 0, false, 0⟩,
  ⟨0x310002, .u64, .ro, 0, 0, false, 0⟩,
  ⟨0x310003, .u32, .ro, 0, 0, false, 0⟩,
  ⟨0x310101, .u32, .ro, 0, 0, false, 0⟩,
  ⟨0x310102, .u32, .ro, 0, 0, false, 0⟩,
  ⟨0x310103, .u32, .ro, 0, 0, false, 0⟩,
  ⟨0x310200, .u32, .ro, 0, 0, false, 0⟩,
  ⟨0x330001, .u8, .ro, 0, 0, false, 0⟩,
  ⟨0x330002, .u8, .ro, 0, 0, false, 0⟩,
  ⟨0x330101, .u32, .ro, 0, 0, false, 0⟩,
  ⟨0x330102, .u32, .ro, 0, 0, false, 0⟩,
  ⟨0x330103, .u32, .ro, 0, 0, false, 0⟩,
  ⟨0x340101, .u32, .ro, 0, 0, false, 0⟩,
  ⟨0x340102, .u32, .ro, 0, 0, false, 0⟩,
  ⟨0x340103, .u32, .ro, 0, 0, false, 0⟩,
  ⟨0x340104, .u32, .ro, 0, 0, false, 0⟩,
  ⟨0x34100B, .u8, .ro, 0, 0, false, 0⟩,
  ⟨0x34100C, .u8, .ro, 0, 0, false, 0⟩,
  ⟨0x34100D, .u8, .ro, 0, 0, false, 0⟩,
  ⟨0x34100E, .u8, .ro, 0, 0, false, 0⟩,
  ⟨0x34100F, .u8, .ro, 0, 0, false, 0⟩,
  ⟨0x341100, .u32, .ro, 0, 0, false, 0⟩,
  ⟨0x343001, .u64, .ro, 0, 0, false, 0⟩,
  ⟨0x343002, .u64, .ro, 0, 0, false, 0⟩,
  ⟨0x343003, .u64, .ro, 0, 0, false, 0⟩,
  ⟨0x343004, .u64, .ro, 0, 0, false, 0⟩,
  ⟨0x343005, .u64, .ro, 0, 0, false, 0⟩,
  ⟨0x343006, .u32, .ro, 0, 0, false, 0⟩,
  ⟨0x343007, .u32, .ro, 0, 0, false, 0⟩,
  ⟨0x345001, .u32, .ro, 0, 0, false, 0⟩,
  ⟨0x345002, .u64, .ro, 0, 0, false, 0⟩,
  ⟨0x345003, .u64, .ro, 0, 0, false, 0⟩,
  ⟨0x345004, .u32, .ro, 0, 0, false, 0⟩,
  ⟨0x345005, .u64, .ro, 0, 0, false, 0⟩,
  ⟨0x345006, .u8, .ro, 0, 0, false, 0⟩,
  ⟨0x345007, .u32, .ro, 0, 0, false, 0⟩,
  ⟨0x345008, .u32, .ro, 0, 0, false, 0⟩,
  ⟨0x345009, .u64, .ro, 0, 0, false, 0⟩,
  ⟨0x346001, .u64, .ro, 0, 0, false, 0⟩]

def odRows4 : List OdRow := [
  ⟨0x346002, .u64, .ro, 0, 0, false, 0⟩,
  ⟨0x346003, .u64, .ro, 0, 0, false, 0⟩,
  ⟨0x346004, .u32, .ro, 0x60000, 0, false, 0⟩,
  ⟨0x346005, .u32, .ro, 0x60000, 0, false, 0⟩,
  ⟨0x346006, .u32, .ro, 0, 0, false, 0⟩,
  ⟨0x346007, .u64, .ro, 0, 0, false, 0⟩,
  ⟨0x346008, .u64, .ro, 0, 0, false, 0⟩,
  ⟨0x347001, .u64, .ro, 0, 0, false, 0⟩,
  ⟨0x347002, .u32, .ro, 0, 0, false, 0⟩,
  ⟨0x347003, .u64, .ro, 0, 0, false, 0⟩,
  ⟨0x347004, .u64, .ro, 0, 0, false, 0⟩,
  ⟨0x347005, .u64, .ro, 0, 0, false, 0⟩,
  ⟨0x347006, .u32, .ro, 0, 0, false, 0⟩,
  ⟨0x347007, .u32, .ro, 0, 0, false, 0⟩,
  ⟨0x347008, .u8, .ro, 0, 0, false, 0⟩,
  ⟨0x347009, .u16, .ro, 0, 0, false, 0⟩,
  ⟨0x34700A, .u16, .ro, 0, 0, false, 0⟩,
  ⟨0x34700B, .u64, .ro, 0, 0, false, 0⟩,
  ⟨0x34700C, .u64, .ro, 0, 0, false, 0⟩,
  ⟨0x34700D, .u64, .ro, 0, 0, false, 0⟩,
  ⟨0x348001, .u16, .ro, 0, 0, false, 0⟩,
  ⟨0x348002, .u8, .ro, 0, 0, false, 0⟩,
  ⟨0x348101, .u32, .ro, 0, 0, false, 0⟩,
  ⟨0x348102, .u32, .ro, 0, 0, false, 0⟩,
  ⟨0x348103, .u64, .ro, 0, 0, false, 0⟩,
  ⟨0x348104, .u32, .ro, 0, 0, false, 0⟩,
  ⟨0x348401, .u8, .ro, 0, 0, false, 0⟩,
  ⟨0x348402, .u32, .ro, 0, 0, false, 0⟩,
  ⟨0x348403, .u32, .ro, 0, 0, false, 0⟩,
  ⟨0x349001, .u16, .ro, 0, 0, false, 0⟩,
  ⟨0x349002, .u64, .ro, 0, 0, false, 0⟩,
  ⟨0x349003, .u32, .ro, 0, 0, false, 0⟩,
  ⟨0x349004, .u64, .ro, 0, 0, false, 0⟩,
  ⟨0x349005, .u64, .ro, 0, 0, false, 0⟩,
  ⟨0x349006, .u64, .ro, 0, 0, false, 0⟩,
  ⟨0x349007, .u32, .ro, 0, 0, false, 0⟩,
  ⟨0x349008, .u32, .ro, 0, 0, false, 0⟩,
  ⟨0x349009, .u32, .ro, 0x80000, 0, false, 0⟩,
  ⟨0x34900A, .u64, .ro, 0, 0, false, 0⟩,
  ⟨0x351001, .u64, .ro, 0, 0, false, 0⟩]

def odRows5 : List OdRow := [
  ⟨0x351002, .u32, .ro, 0, 0, false, 0⟩,
  ⟨0x351003, .u32, .ro, 0, 0, false, 0⟩,
  ⟨0x351200, .u8, .ro, 0, 0, false, 0⟩,
  ⟨0x351201, .u64, .ro, 0, 0, false, 0⟩,
  ⟨0x352000, .domain, .ro, 0, 1, false, 32⟩,
  ⟨0x352001, .domain, .ro, 0, 1, false, 32⟩,
  ⟨0x352002, .domain, .ro, 0, 1, false, 64⟩,
  ⟨0x352003, .u8, .ro, 0, 0, false, 0⟩,
  ⟨0x360001, .i32, .ro, 0, 0, false, 0⟩,
  ⟨0x360002, .i32, .ro, 0, 0, false, 0⟩,
  ⟨0x360101, .bits32, .ro, 0, 0, false, 0⟩,
  ⟨0x360102, .u32, .ro, 0, 0, false, 0⟩,
  ⟨0x360103, .u64, .ro, 0, 0, false, 0⟩,
  ⟨0x360104, .u32, .ro, 0, 0, false, 0⟩,
  ⟨0x360105, .u32, .ro, 0, 0, false, 0⟩,
  ⟨0x360201, .bits32, .ro, 0, 0, false, 0⟩,
  ⟨0x360301, .u8, .ro, 0, 0, false, 0⟩,
  ⟨0x360302, .u32, .ro, 0, 0, false, 0⟩,
  ⟨0x360303, .u32, .ro, 0, 0, false, 0⟩,
  ⟨0x360401, .u8, .ro, 0, 0, false, 0⟩,
  ⟨0x360402, .u32, .ro, 0, 0, false, 0⟩,
  ⟨0x360403, .u32, .ro, 0, 0, false, 0⟩,
  ⟨0x360404, .u16, .ro, 0, 0, false, 0⟩,
  ⟨0x360405, .u32, .ro, 0, 0, false, 0⟩,
  ⟨0x370001, .u32, .ro, 0, 0, false, 0⟩,
  ⟨0x370002, .u32, .ro, 0, 0, false, 0⟩,
  ⟨0x370003, .domain, .ro, 0, 1, false, 32⟩,
  ⟨0x370101, .u64, .ro, 0, 0, false, 0⟩,
  ⟨0x370102, .u64, .ro, 0, 0, false, 0⟩,
  ⟨0x370103, .u32, .ro, 0, 0, false, 0⟩,
  ⟨0x370104, .u32, .ro, 0, 0, false, 0⟩,
  ⟨0x370201, .u32, .ro, 0, 0, false, 0⟩,
  ⟨0x370202, .u32, .ro, 0, 0, false, 0⟩,
  ⟨0x370301, .u32, .ro, 0, 0, false, 0⟩,
  ⟨0x440201, .bool, .rws, 0, 0, true, 0⟩,
  ⟨0x440202, .u8, .rws, 3, 0, true, 0⟩,
  ⟨0x440301, .bool, .rws, 0, 0, false, 0⟩,
  ⟨0x443001, .bool, .rws, 1, 0, true, 0⟩,
  ⟨0x443002, .u16, .rws, 0x400, 0, true, 0⟩,
  ⟨0x445001, .bool, .rws, 0, 0, true, 0⟩]

def odRows6 : List OdRow := [
  ⟨0x446001, .u8, .rws, 0x10, 0, true, 0⟩,
  ⟨0x446002, .bool, .rws, 0, 0, true, 0⟩,
  ⟨0x446003, .u32, .rws, 0x4000, 0, true, 0⟩,
  ⟨0x446004, .u32, .rws, 0x4b0, 0, true, 0⟩,
  ⟨0x446005, .u32, .rws, 0x1d4c0, 0, true, 0⟩,
  ⟨0x447001, .bool, .rws, 1, 0, true, 0⟩,
  ⟨0x447002, .u32, .rws, 0x249f00, 0, true, 0⟩,
  ⟨0x447003, .u8, .rws, 0x10, 0, true, 0⟩,
  ⟨0x448001, .u32, .rws, 0x249f00, 0, true, 0⟩,
  ⟨0x448401, .bool, .rws, 0, 0, true, 0⟩,
  ⟨0x448402, .f32, .rws, 0, 0, true, 0⟩,
  ⟨0x460001, .u16, .rws, 0xfa, 0, true, 0⟩,
  ⟨0x460002, .u32, .rws, 0x186a0, 0, true, 0⟩,
  ⟨0x460101, .i32, .rws, 0x3e8, 0, true, 0⟩,
  ⟨0x601000, .domain, .ro, 0, 1, false, 0⟩,
  ⟨0x601100, .domain, .ro, 0, 1, false, 0⟩,
  ⟨0x60200B, .domain, .ro, 0, 1, false, 0⟩,
  ⟨0x60200C, .domain, .ro, 0, 1, false, 0⟩,
  ⟨0x60200D, .domain, .ro, 0, 1, false, 0⟩,
  ⟨0x60200E, .domain, .ro, 0, 1, false, 0⟩,
  ⟨0x60200F, .domain, .ro, 0, 1, false, 0⟩,
  ⟨0x603000, .domain, .rws, 0, 1, false, 262144⟩,
  ⟨0x603100, .domain, .rws, 0, 1, false, 4096⟩,
  ⟨0x604000, .domain, .ro, 0, 1, false, 16384⟩,
  ⟨0x604001, .domain, .ro, 0, 1, false, 16384⟩,
  ⟨0x605000, .domain, .rws, 0, 1, true, 2048⟩,
  ⟨0x605100, .domain, .rws, 0, 1, true, 8192⟩,
  ⟨0x606000, .domain, .rws, 0, 1, false, 4194304⟩,
  ⟨0x606100, .domain, .ro, 0, 1, false, 524288⟩,
  ⟨0x606101, .domain, .ro, 0, 1, false, 524288⟩,
  ⟨0x607000, .domain, .rws, 0, 1, false, 65536⟩,
  ⟨0x608000, .domain, .ro, 0, 1, false, 32768⟩,
  ⟨0x702000, .domain, .ro, 0, 1, false, 32768⟩,
  ⟨0x703000, .domain, .ro, 0, 1, false, 4096⟩,
  ⟨0x703001, .domain, .ro, 0, 1, false, 4096⟩,
  ⟨0x703002, .domain, .ro, 0, 1, false, 4096⟩,
  ⟨0x703003, .domain, .ro, 0, 1, false, 4096⟩,
  ⟨0x703004, .domain, .ro, 0, 1, false, 4096⟩,
  ⟨0x703005, .domain, .ro, 0, 1, false, 4096⟩,
  ⟨0x703006, .domain, .ro, 0, 1, false, 4096⟩]

def odRows7 : List OdRow := [
  ⟨0x703007, .domain, .ro, 0, 1, false, 4096⟩,
  ⟨0x703008, .domain, .ro, 0, 1, false, 4096⟩,
  ⟨0x703009, .domain, .ro, 0, 1, false, 4096⟩,
  ⟨0x70300A, .domain, .ro, 0, 1, false, 4096⟩,
  ⟨0x703100, .domain, .ro, 0, 1, false, 4096⟩,
  ⟨0x703101, .domain, .ro, 0, 1, false, 4096⟩,
  ⟨0x703102, .domain, .ro, 0, 1, false, 4096⟩,
  ⟨0x703103, .domain, .ro, 0, 1, false, 4096⟩,
  ⟨0x703104, .domain, .ro, 0, 1, false, 4096⟩,
  ⟨0x703105, .domain, .ro, 0, 1, false, 4096⟩,
  ⟨0x703106, .domain, .ro, 0, 1, false, 4096⟩,
  ⟨0x703107, .domain, .ro, 0, 1, false, 4096⟩,
  ⟨0x703108, .domain, .ro, 0, 1, false, 4096⟩,
  ⟨0x703109, .domain, .ro, 0, 1, false, 4096⟩,
  ⟨0x70310A, .domain, .ro, 0, 1, false, 4096⟩,
  ⟨0x70310B, .domain, .ro, 0, 1, false, 64⟩,
  ⟨0x704000, .domain, .ro, 0, 1, false, 262144⟩,
  ⟨0x704001, .domain, .ro, 0, 1, false, 262144⟩,
  ⟨0x710001, .u16, .rw, 0, 0, false, 0⟩,
  ⟨0x710002, .u16, .rw, 0, 0, false, 0⟩,
  ⟨0x710003, .u16, .rw, 0, 0, false, 0⟩,
  ⟨0x710004, .u16, .rw, 0, 0, false, 0⟩,
  ⟨0x710005, .u16, .rw, 0, 0, false, 0⟩,
  ⟨0x710006, .u16, .rw, 0, 0, false, 0⟩,
  ⟨0x710007, .u16, .rw, 0, 0, false, 0⟩,
  ⟨0x710008, .u16, .rw, 0, 0, false, 0⟩,
  ⟨0x710009, .u16, .rw, 0, 0, false, 0⟩,
  ⟨0x71000A, .u16, .rw, 0, 0, false, 0⟩,
  ⟨0x71000B, .u16, .rw, 0, 0, false, 0⟩,
  ⟨0x71000C, .u16, .rw, 0, 0, false, 0⟩,
  ⟨0x71000D, .u16, .rw, 0, 0, false, 0⟩,
  ⟨0x71000E, .u16, .rw, 0, 0, false, 0⟩,
  ⟨0x71000F, .u16, .rw, 0, 0, false, 0⟩,
  ⟨0x710010, .u16, .rw, 0, 0, false, 0⟩,
  ⟨0x710011, .u8, .rw, 1, 0, false, 0⟩,
  ⟨0x710020, .domain, .ro, 0, 1, false, 262144⟩,
  ⟨0x710101, .bits32, .ro, 0, 0, false, 0⟩,
  ⟨0x710102, .u32, .ro, 0, 0, false, 0⟩,
  ⟨0x710103, .u32, .ro, 0, 0, false, 0⟩,
  ⟨0x710104, .u32, .ro, 0, 0, false, 0⟩]

def odRows8 : List OdRow := [
  ⟨0x710105, .u32, .ro, 0, 0, false, 0⟩,
  ⟨0x710201, .u32, .const, 0, 0, false, 0⟩,
  ⟨0x749000, .domain, .ro, 0, 1, false, 33554432⟩,
  ⟨0x800001, .u8, .wo, 0, 1, false, 0⟩,
  ⟨0x800002, .domain, .wo, 0, 1, false, 1048576⟩,
  ⟨0x800003, .u8, .ro, 0, 0, false, 0⟩,
  ⟨0x800004, .u32, .ro, 0, 0, false, 0⟩,
  ⟨0x801000, .u64, .rws, 0, 0, false, 0⟩,
  ⟨0x801001, .u64, .rws, 0, 0, false, 0⟩,
  ⟨0x801002, .bool, .rws, 1, 0, true, 0⟩,
  ⟨0x801003, .u32, .rws, 0x20000, 0, true, 0⟩,
  ⟨0x801004, .u32, .rws, 0x100000, 0, true, 0⟩,
  ⟨0x801100, .u64, .ro, 0, 0, false, 0⟩,
  ⟨0x801101, .u64, .rw, 0, 0, false, 0⟩,
  ⟨0x801200, .bool, .rws, 0, 0, false, 0⟩,
  ⟨0x801201, .u64, .rws, 0, 0, false, 0⟩,
  ⟨0x801202, .u64, .rws, 0, 0, false, 0⟩]

/-- Every object the manual defines, in ascending index.subindex (R300). -/
def odRows : List OdRow :=
  odRows0 ++ odRows1 ++ odRows2 ++ odRows3 ++ odRows4 ++ odRows5 ++ odRows6 ++ odRows7 ++ odRows8

/-- The row of a key; none where the key names no object. -/
def odRow (key : Nat) : Option OdRow := odRows.find? (fun r => r.key == key)

/-- The default of a scalar object (0 where the manual states none). -/
def odDefault (key : Nat) : Nat :=
  match odRow key with
  | some r => r.dflt
  | none => 0

/-- The width in bits of a scalar object; 0 where the key names none. -/
def odWidth (key : Nat) : Nat :=
  match odRow key with
  | some r => 8 * r.ty.size
  | none => 0

/-- An object of the expert range (R296). -/
def odExpert (key : Nat) : Bool := decide (0x400000 ≤ key) && decide (key < 0x600000)

end Sys2Proof.Machine
end

