-- ==== Sys2Proof/Machine/State.lean ====
section
/-!
DEFINITION. The state of one engine: everything the manual gives it, as plain data. INVENTORY.md lists each piece with the
rule that names it and its reset value. Scalar objects of the dictionary stand in `objs` under their keys; the rest stands
in one structure for each unit.
-/

namespace Sys2Proof.Machine

/-- Faults that stop the machine. The manual gives the engine no event that stops it (FAULTED is a state it runs in,
R361), so there is none: nothing raises one. -/
inductive Fault where
deriving DecidableEq, Repr

/-- Refusals of a command. -/
inductive Refusal where
  /-- Raised by exec's arms only, for a command the model has no meaning for. Safe: the run stops. -/
  | notModelled (mnemonic : String)
deriving DecidableEq, Repr

/-- The states of Table 12-11; and the engine gated by a power failure during a commit (R336), which shows the state it was
in. -/
inductive Mode where
  | off | kindling | ready | running | banked | faulted | powerFail
deriving DecidableEq, Repr

/-- One thing for each of two: ledger banks, router banks, placement banks, fabric ports (false first). -/
structure Two (α : Type) where
  b0 : α
  b1 : α
deriving DecidableEq, Repr

/-- A step's key (R231). -/
structure Key where
  stepId : BitVec 32
  batch : BitVec 12
deriving DecidableEq, Repr

/-! ### What leaves the engine -/

/-- Messages between engines whose layout the manual does not give: over the peer path, by fabric requests of TCLASS 3 and
6, and as single gateway messages (R18, R60, R129, R181, R243, R249, R279, R357). -/
inductive EngMsg where
  | packet (p : Packet)
  | packetReply (hdr : BitVec 256) (status : Nat)
  | present (role : Byte)
  | arrival
  | trayArrival
  | scan (stepId : BitVec 32) (batch : BitVec 12) (dir : TreeDir) (pos : Nat) (body : ScanBody)
  | coll (group : BitVec 8) (program : Byte) (dir : TreeDir) (pos : Nat) (body : CollBody)
  | certaintyRequest (stepId : BitVec 32) (entry : BitVec 19) (pairs : List (BitVec 4 × BitVec 16 × Nat))
  | certaintyAnswer (stepId : BitVec 32) (entry : BitVec 19) (flags : List (BitVec 4 × Bool))
  | hostInput (i : PeerInput)
  | counts (stepId : BitVec 32) (predicted : Bool) (counts : List (Nat × Nat))
  | halfZero (stepId : BitVec 32)
  | layoutCrc (crc : BitVec 32)
  | cancel (n : Notice)
  | rerun (key : Key) (code : Byte) (origin : BitVec 17)
deriving DecidableEq, Repr

/-- A fabric payload: bytes, or a message whose layout the manual does not give; one too long for a request travels as so many
parts (R190). -/
inductive FabBody where
  | bytes (bs : List Byte)
  | msg (m : EngMsg)
  | part (m : EngMsg) (i n : Nat)
deriving DecidableEq, Repr

/-- An MCTP packet (R302): its SOM and EOM flags, its message tag, at most 64 B of the message. -/
structure MctpPacket where
  som : Bool
  eom : Bool
  mtag : BitVec 3
  bytes : List Byte
deriving DecidableEq, Repr

/-- What the engine has put on its ports. -/
inductive Msg where
  /-- An MCTP message: a dictionary response (Table 12-8) or a control response (R302), in its packets. -/
  | mctp (packets : List MctpPacket)
  /-- What a read of the register window returns (R304). -/
  | window (bytes : List Byte)
  | peer (m : EngMsg)
  | fab (port : Bool) (hdr : BitVec 256) (body : FabBody)
  /-- A bulk offered to the gateway (R206). -/
  | bulk (hdr : BitVec 512) (body : List Byte)
  | bulkAck (src : BitVec 17) (rack : BitVec 9) (seq : BitVec 32)
  /-- A single gateway message to a rack (R181, R243, R357). -/
  | gate (rack : Nat) (m : EngMsg)
  /-- A packet or close record delivered to a die (R176). -/
  | die (port : Nat) (hdr : BitVec 256) (payload : List Byte)
  /-- Return credits given back to a die (R219). -/
  | dieCredit (port : Nat) (units : Nat)
  /-- A pulse on SYNC_OUT, high for so many SYNC cycles (Table 15-4). -/
  | syncOut (high : Nat)
  /-- What the selected JTAG data register holds after capture (Table 15-6). -/
  | jtag (width : Nat) (dr : BitVec 256)
  /-- The words of one frame on DBG_OBS (R372). -/
  | dbg (words : List (BitVec 16))
deriving DecidableEq, Repr

/-! ### Identity, kindling, dictionary, pins -/

/-- What the hub die latches at power-on: the location word (R321), the engine's identity, the grade (R17). -/
structure Ident where
  location : BitVec 32
  eng : Bool
  grade14 : Bool
deriving DecidableEq, Repr

/-- Kindling in progress (R320 to R323). -/
structure Kindle where
  phase : Nat
  fromOff : Bool
  started : Nat
  /-- Phase 6 and phase 7, which run in parallel, have ended. -/
  diesDone : Bool
  lpDone : Bool
  /-- The package barrier is held (R6, R29). -/
  held : Bool
  /-- The tray master's listening time has ended and it drives the line (R322). -/
  driving : Bool
  /-- The peer's arrival at the package barrier, before this engine's own (R6). -/
  peerRole : Option Byte
  /-- UNBANK is under way (R326). -/
  unbank : Bool
  /-- The far end of the peer path presents "no credits, not present" (R30, R368). -/
  peerGone : Bool
deriving DecidableEq, Repr

/-- An open domain write (R308): its path, object, and the bytes staged so far. -/
structure Transfer where
  path : Path
  key : Nat
  len : Nat
deriving DecidableEq, Repr

/-- The dictionary's own state (R296, R304 to R308): locks, the open and the abandoned transfer, the window's registers. -/
structure Dict where
  unlockMctp : Bool
  unlockBand : Bool
  xfer : Option Transfer
  /-- Abandoned transfers that no segment has reached since, one at most of each path and object. -/
  abandoned : List Transfer
  oaAddr : BitVec 64
  oaData : BitVec 64
  oaCount : BitVec 16
  oaStatus : Byte
  dbLast : Byte
  dbStatus : Byte
  mbAddr : BitVec 64
  mbOffset : BitVec 64
  mbLen : BitVec 64
  mbStatus : Byte
  /-- The CORE cycles until which OA_STATUS and MB_STATUS may show BUSY (R305, R306). -/
  oaUntil : Nat
  mbUntil : Nat
  /-- When the MCTP requests came that may still wait for their answers: the queue of R303. -/
  reqs : List Nat
  mbBuf : Memory
  /-- The set last written to RZ_PERSIST_EDIT (R298). -/
  edit : List Byte
deriving DecidableEq, Repr

/-- Pins, the test multiplexer and the JTAG segment (R364 to R373). -/
structure Pins where
  /-- HOLDUP_OK as taken (R367). -/
  holdup : Bool
  /-- The state that a power failure during a commit met (R336). -/
  failMode : Mode
  /-- The CORE cycle until which a pulse holds SYNC_IN high, and the one of the last edge of TIMEPULSE_IN. -/
  syncUntil : Nat
  timeEdge : Option Nat
  /-- The list in force for the present frame, and how often group 0x000 has been shown (Table 15-5). -/
  dbgList : List (BitVec 16)
  dbgZero : Nat
  dbgObs : List (BitVec 16)
  dbgFrames : Nat
  jtagIr : Byte
  jtagDr : BitVec 256
deriving DecidableEq, Repr

/-- Fabric time (R277). -/
structure FTime where
  value : BitVec 64
  valid : Bool
  /-- The CORE cycle of the last write of RZ_FTIME_NEXT that no edge has taken yet. -/
  armed : Option Nat
  /-- What was armed before that cycle: an edge in the same cycle finds this setting (R371). -/
  before : Option (BitVec 64)
deriving DecidableEq, Repr

/-! ### Temperature and clocks -/

/-- Stoke (R329): since the step boundary at which it was entered; whether the rail's ramp has ended and the clock switched;
since when an event that ends it waits for the next step boundary. -/
inductive Stoke where
  | off
  | on (since : Nat) (switched : Bool) (ending : Option Nat)
deriving DecidableEq, Repr

structure Therm where
  stoke : Stoke
  /-- CORE cycles of the stoke periods that have ended (RZ_STOKE_MS). -/
  stokeTime : Nat
  cooldown : Bool
  throttled : Bool
  /-- Since when RZ_TJ has stayed below RZ_THROTTLE_EXIT. -/
  coolSince : Option Nat
  /-- A frequency change that waits for a step boundary: to throttled or back, since when (R327). -/
  change : Option (Bool × Nat)
  /-- A 120 °C sample's bank waits for the cancel fences (R330). -/
  bankWait : Bool
  /-- Layout jobs are held (Table 13-4). -/
  jobsHeld : Bool
deriving DecidableEq, Repr

/-! ### Persistence -/

/-- The xSPI regions of Table 13-6 that commits write. -/
inductive Region where
  | objects | placement | soot | log
deriving DecidableEq, Repr

/-- A commit record (R333): the CRC-32 over the content, and the one over the record itself. -/
structure CommitRecord where
  seq : BitVec 32
  region : Region
  copy : Nat
  len : Nat
  crc : BitVec 32
  own : BitVec 32
deriving DecidableEq, Repr

inductive CommitKind where
  | objects | empty | placement | soot | log | free
deriving DecidableEq, Repr

/-- The commands of RZ_PERSIST_CMD (R298) and RZ_XSPI_CMD (Table 13-8). -/
inductive XCmd where
  | save | edit | clear | placeSave | placeLoad | sootSnap | logRead | logFree | sootRead
deriving DecidableEq, Repr

/-- A commit in progress (R334 to R336): what it writes and where. -/
structure Commit where
  kind : CommitKind
  auto : Bool
  copy : Nat
  bytes : List Byte
  /-- For a log segment: where it starts in the log; for a release: how many segments. -/
  arg : Nat
deriving DecidableEq, Repr

/-- A read of RZ_XSPI_CMD in progress (R338): where its bytes go. -/
structure XRead where
  load : Bool
  dst : Nat
  bytes : List Byte
deriving DecidableEq, Repr

structure Xspi where
  nor : Memory
  /-- The two sectors of commit records, and which of them is being filled (Table 13-6). -/
  sectors : Two (List CommitRecord)
  sector : Bool
  /-- The newest sequence number used. -/
  seq : BitVec 32
  /-- The oldest persisted log segment's slot, and how many follow it (R338). -/
  logFirst : Nat
  logHeld : Nat
  commit : Option Commit
  read : Option XRead
  /-- A command that waits for an automatic commit, and a RESET that waits for a commit (R334). -/
  heldCmd : Option XCmd
  heldReset : Bool
  /-- Refused automatic commits that wait for their retry, the oldest first (R335). -/
  retry : List Commit
  /-- Where closed segments start whose automatic commit has not begun. -/
  closed : List Nat
deriving DecidableEq, Repr

/-! ### Soot log, replay log, digests -/

/-- The soot log (R349 to R351). HEAD, TAIL and LOST are objects. -/
structure Soot where
  ring : Tab (BitVec 256)
  firstFatal : Option (BitVec 256)
  /-- The queue of 64 events: how many have been posted in a CORE cycle, and in which. -/
  queued : Nat
  cycle : Nat
  /-- An event was lost since the last entry. -/
  lost : Bool
deriving DecidableEq, Repr

/-- A record to be written to the log: its type, step, ordinal, T_OFF and payload (Table 11-3). -/
structure LogEntry where
  ty : Nat
  stepId : Nat
  ord : Nat
  tOff : Nat
  payload : List Byte
deriving DecidableEq, Repr

/-- An input from outside that waits for room for its record (R280). -/
inductive LogHeld where
  | verdict (word : BitVec 64) (timely : Bool)
  | timeout (k : Key)
  | cancel (word : BitVec 64)
  | command (cmd : Nat)
  | seed (v : BitVec 64)
  | mask (addr len : Nat)
  | table (ctrl : Byte) (src len : Nat)
  | weights (digest : List Byte)
  | decision (commit : Bool)
  | stream (bytes : List Byte)
deriving DecidableEq, Repr

/-- The replay log (R280, R281) and a replay in progress (R285). -/
structure Log where
  seq : BitVec 64
  /-- The first SEQ of the open segment. -/
  segSeq : BitVec 64
  /-- Admission ordinal (Table 11-3): none before the first START since kindling. -/
  ord : Option (BitVec 32)
  replay : Bool
  /-- Records of the replayed log already taken. -/
  taken : List Nat
  /-- Records that wait for room in the ring, in order. -/
  waiting : List LogEntry
  /-- Host inputs that wait for room, in order. -/
  held : List LogHeld
  /-- The last record written, which a failed write repeats (R290). -/
  last : Option LogEntry
deriving DecidableEq, Repr

/-- Digests (R287, R288). -/
structure Digests where
  prog : List Byte
  input : List Byte
  wt : Two (List Byte)
  wdigest : List Byte
  inputSet : List Byte
  phase1 : Nat
  phase2 : Nat
  /-- Parity errors on an engine's state in the digest being formed, 0 to 2 (R290). -/
  parity : Nat
  /-- The chaining values that the four SHA-256 engines hold, as their last digests left them, the oldest first (Table 1-1). -/
  sha : List (List Byte)
deriving DecidableEq, Repr

/-! ### The sequencer -/

/-- A loop being run (R37): its body, its register, how many passes are left after this one. -/
structure Frame where
  first : Nat
  last : Nat
  reg : Nat
  left : Nat
deriving DecidableEq, Repr

/-- What the sequencer waits for. -/
inductive Wait where
  | none
  /-- At the instruction at pc. -/
  | fetch
  /-- A STEP has been fetched: for its pulse, bank or check. -/
  | step
  /-- A COLL, by group and program, waits to begin or to complete. -/
  | coll (group : Nat) (program : Nat)
  /-- An INPUT of class placement commit runs its commit. -/
  | commit
  /-- An INPUT of class router-bank or function-table load waits for its load to end. -/
  | load
  /-- Halted for the host: the RZ_SEQ_STATE code. -/
  | halted (code : Nat)
  /-- HALT was executed: in-flight steps retire. -/
  | ending
  /-- A step was marked: nothing more is issued until the rewind (R359). -/
  | rewind
deriving DecidableEq, Repr

/-- A step fetched by the sequencer and not yet accepted (R33): its patched descriptor, offsets, its pulse. -/
structure Fetched where
  desc : BitVec 512
  /-- FIRST_TOKEN before it is cut to its field (R46). -/
  firstToken : Nat
  offset : Nat
  descOff : BitVec 32
  crcOk : Bool
  t0 : Option Nat
  pulse : Bool
deriving DecidableEq, Repr

/-- Barrier arrivals at a step's start (R31). -/
structure Barrier where
  own : Bool
  peer : Bool
  packages : List Nat
  /-- The completed package barrier has been told to the tray master. -/
  told : Bool
  fired : Bool
  /-- A release time that the pulse waits for (R279). -/
  release : Option Nat
  needRelease : Bool
  /-- The start barrier of the schedule has not begun here. -/
  startDue : Bool
deriving DecidableEq, Repr

/-- A load in progress or held: the CTRL byte that began it, SRC and LEN as they stood at the GO; in a replay the image that
the log holds (R285). -/
structure Load where
  ctrl : Byte
  src : Nat
  len : Nat
  image : Option (List Byte)
  /-- An INPUT instruction waits for it. -/
  input : Bool
deriving DecidableEq, Repr

/-- A skip mask (R115): where its bytes lie, in order, and its length in tokens; a mask taken from a log gives no length
(R285). -/
structure Mask where
  pieces : List (Nat × Nat)
  len : Option Nat
deriving DecidableEq, Repr

/-- The inputs held in RUNNING, one for each class (R38). -/
structure Held where
  place : Bool
  rbank : Option Load
  wdigest : Option (List Byte)
  seed : Option (BitVec 64)
  mask : Option Mask
  ftab : Option Load
deriving DecidableEq, Repr

/-- A place of the sequencer: image offset, loops, registers. -/
abbrev Place := Nat × List Frame × List (BitVec 20)

/-- A rewind record (R358). -/
structure Rewind where
  offset : Nat
  frames : List Frame
  regs : List (BitVec 20)
  seed : BitVec 64
  mask : Option Mask
  group : Nat
  /-- Instructions that forbid an automatic rewind, between this STEP and the furthest instruction executed. -/
  blocks : List Place
  /-- Seeds and masks applied since, to apply again (R359). -/
  seeds : List (BitVec 64)
  masks : List Mask
deriving DecidableEq, Repr

structure Seq where
  wait : Wait
  pc : Nat
  frames : List Frame
  regs : List (BitVec 20)
  /-- STEP instructions executed since START (R39). -/
  steps : Nat
  lastStepId : Option (BitVec 32)
  /-- The START checks are running (R310). -/
  checking : Bool
  startPending : Bool
  fetched : Option Fetched
  barrier : Barrier
  held : Held
  /-- The mask taken and not yet used (R116). -/
  mask : Option Mask
  /-- The furthest instruction executed, with its loop state, for SKIP after a rewind (R360). -/
  furthest : Place
  /-- After a rewind: the instructions that forbid an automatic one, between the sequencer's place and the furthest. -/
  ahead : List Place
  /-- Inputs kept for a rewind, to apply without waiting. -/
  keptSeeds : List (BitVec 64)
  keptMasks : List Mask
  /-- The seed and mask in force at the furthest instruction executed, while a rewind has the sequencer before it: what a SKIP
  goes on with (R360). -/
  front : Option (Nat × Option Mask)
  /-- How often a step has been re-run: the place of its STEP, the count. -/
  reruns : List (Place × Nat)
  /-- The second sequencer copy holds what this one holds (R15): false from a LOCKSTEP_MISMATCH to the next kindling (R345). -/
  lockstep : Bool
  /-- The step of the last STEP was refused: a fused barrier after it runs unfused (R244). -/
  refused : Bool
  /-- The bank the next accepted step takes (R23). -/
  nextBank : Bool
  /-- Steps are refused after a peer's loss (R30). -/
  refuse : Bool
  /-- Function pipes, and lookup stages as 64 on, in compare mode for the rest of the schedule (R346). -/
  compare : List Nat
  /-- The last steps that passed the rotation test, by pipe and stage. -/
  passed : Tab (BitVec 32)
  /-- The last steps of the previous COLL's fused barrier: a fused barrier waits for this bank's scan. -/
  fusedBank : Bool
  /-- START or HALT or ABORT left the schedule: 3 HALT, 4 ABORT. -/
  reason : Nat
deriving DecidableEq, Repr

/-! ### Steps -/

/-- The modelled times of a step, CORE cycles after its t0 (R53). -/
structure Model where
  c : Nat
  ns : Nat
  tS : Nat
  tSs : Nat
  tPo : Nat
  tAd : Nat
  tDi : Nat
  tRs : Nat
  tCe : Nat
  lastGrate : Nat
  /-- The check assumed the throttled clock (R51). -/
  slow : Bool
deriving DecidableEq, Repr

/-- How a step ended. -/
inductive Ended where
  | no
  | complete
  | marked (code : Nat)
  | cancelled
  /-- A rewind executes it again, or the host skipped it (R359, R360). -/
  | rewound
deriving DecidableEq, Repr

/-- A scan's progress at this member (R249). -/
structure Scan where
  /-- Subtree totals received from children, by position. -/
  fromBelow : List (Nat × List (Nat × Nat))
  sentUp : Bool
  /-- The exclusive offset and the group's totals, as they came down or the root formed them. -/
  offset : Option (List (Nat × Nat))
  group : Option (List (Nat × Nat))
  /-- Children whose offset, and whose totals, have left. -/
  downSent : List Nat
  totSent : List Nat
  /-- Offsets and totals, once the scan has completed here. -/
  offs : Option (List (Nat × Nat))
  totals : List (Nat × Nat)
  /-- The variant applied here, 8 for a cancel, and the values other members told (R63). -/
  own : Option Nat
  seen : List Nat
  sentAt : Nat
deriving DecidableEq, Repr

/-- A cancel fence (R234). -/
structure CFence where
  since : Nat
  receipts : List Nat
  missing : Nat
  poison : Bool
  swept : Bool
deriving DecidableEq, Repr

/-- An accepted step: one for each ledger bank, kept until the next step of that bank is accepted. -/
structure Step where
  desc : BitVec 512
  offset : Nat
  descOff : BitVec 32
  ord : BitVec 32
  t0 : Nat
  /-- Acceptance order. -/
  nth : Nat
  model : Model
  tag : BitVec 64
  seed : BitVec 64
  mask : Option Mask
  members : List Nat
  pos : Nat
  line : Option Nat
  /-- First grate cycle, last grate cycle, end of selection (CORE cycles). -/
  grateAt : Option Nat
  grateEnd : Option Nat
  units : Nat
  timeRow : List F32
  scan : Scan
  posted : Bool
  predicted : Bool
  variant : Option Nat
  /-- An accepted verdict that waits for t_ad (R57). -/
  waitVerdict : Option Nat
  walked : Bool
  walkAt : Nat
  dispatched : Option Nat
  ended : Ended
  endedAt : Option Nat
  retired : Bool
  cancelled : Bool
  fence : Option CFence
  rewind : Option Rewind
  routeFp : BitVec 64
  outFp : BitVec 64
  admitted : Nat
  ashed : Nat
  /-- a_m(i) of the walk, by instance (R126). -/
  admits : Tab Nat
  routedTokens : Nat
  sharedClosed : Bool
  halfZero : Bool
  halfSent : Bool
  slotsCmp : Nat
  slotsChg : Nat
  /-- Local indices whose previous route record could not be read (R267). -/
  badRoutes : List Nat
  /-- Statistics pending until the rewind record is released (R259). -/
  pendStats : Bool
  /-- Blocks of the share not yet tagged: tokens retired, and whether one was poisoned or cancelled (R238). -/
  blocks : List (Nat × Nat × Bool)
  overrun : Bool
  broken : Bool
  throttle : Bool
  fabRetry : Bool
  resend : Bool
  noticed : Bool
deriving DecidableEq, Repr

/-! ### Tables -/

/-- A router bank (R66 to R72): its state is an object. -/
structure RBank where
  bytes : List Byte
  bodyDigest : List Byte
  digest : List Byte
deriving DecidableEq, Repr

/-- A loaded function-table slot (R97). -/
structure FSlot where
  bytes : List Byte
  digest : List Byte
deriving DecidableEq, Repr

structure Tables where
  rbanks : Two RBank
  rload : Option Load
  fslots : List FSlot
  fload : Option Load
  owner : Tab (BitVec 128)
  tensor : Tab (BitVec 128)
  /-- RZ_LAYOUT_CRC as the peer last reported it (R144). -/
  peerCrc : Option (BitVec 32)
  groups : Tab (BitVec 32)
  /-- Groups invalid after a double-bit error (R267). -/
  badGroups : List Nat
  place : Two (Tab (BitVec 64))
  qmap : Two (Tab (BitVec 64))
  /-- A commit has passed since kindling (R257). -/
  placed : Bool
  routeMap : Tab (BitVec 128)
  landing : Tab (BitVec 32)
  mcast : Tab (BitVec 256)
  hist : Two (Tab Nat)
deriving DecidableEq, Repr

/-- An accepted layout job (R150, R159): where its descriptor lies, the descriptor, its status so far; whether it still waits
for LOADs of what it reads, or its rows have been written and only acknowledgements are awaited. -/
structure Job where
  addr : Nat
  desc : BitVec 512
  status : Nat
  reading : Bool
deriving DecidableEq, Repr

/-! ### Collectives -/

/-- A collective in progress at this member (R243, R247, R279, R256). -/
structure Coll where
  group : Nat
  program : Nat
  pos : Nat
  got : List (Nat × CollBody)
  sentUp : Bool
  sentAt : Nat
  begun : Bool
deriving DecidableEq, Repr

/-- A message that came before this member reached its collective. -/
structure CollEarly where
  group : Nat
  program : Nat
  dir : TreeDir
  pos : Nat
  body : CollBody
deriving DecidableEq, Repr

/-- A scan message that came before this member accepted its step. -/
structure ScanEarly where
  key : Key
  dir : TreeDir
  pos : Nat
  body : ScanBody
deriving DecidableEq, Repr

/-- A placement commit in progress (R256). -/
structure PCommit where
  input : Bool
  begun : Bool
  image : List Byte
  code : Nat
  crc : BitVec 32
deriving DecidableEq, Repr

structure Colls where
  now : Option Coll
  early : List CollEarly
  scanEarly : List ScanEarly
  commit : Option PCommit
deriving DecidableEq, Repr

/-! ### Dispatch -/

/-- A pair or marker that waits on a path's pending list (R166). -/
structure Pend where
  /-- The kind of path: a packet for another engine of the rack leaves on the port that then carries its destination. -/
  path : DispPath
  /-- Destination node; queue number for the own pool. -/
  dest : Nat
  nth : Nat
  hdr : BitVec 256
deriving DecidableEq, Repr

/-- What a bellows context does. -/
inductive CtxState where
  /-- Holds a released pair that waits for its rank (R128). -/
  | held
  | sent
  /-- Waits for RZ_BUSY_BACKOFF since a CORE cycle. -/
  | backoff (since : Nat)
deriving DecidableEq, Repr

/-- A bellows context (R163). -/
structure Ctx where
  num : Nat
  path : DispPath
  dest : Nat
  hdr : BitVec 256
  replays : Nat
  st : CtxState
deriving DecidableEq, Repr

/-- An aggregation buffer (R169). -/
structure Agg where
  slot : Nat
  rack : Nat
  /-- The headers of its packets; the bytes lie in the buffer's memory. -/
  hdrs : List (BitVec 256)
  bytes : Nat
  opened : Nat
  /-- The flue contexts of the returns in it (R221). -/
  ctxs : List Nat
deriving DecidableEq, Repr

/-- A bulk offered and not yet acknowledged (R206). -/
structure Bulk where
  slot : Nat
  rack : Nat
  seq : BitVec 32
  hdrs : List (BitVec 256)
  bytes : Nat
  ctxs : List Nat
  offers : Nat
  sentAt : Nat
deriving DecidableEq, Repr

/-- How often a far pair has been replayed, whose context is free (R163, R168). -/
structure FarReplay where
  key : Key
  entry : Nat
  slot : Nat
  count : Nat
deriving DecidableEq, Repr

/-- A packet that waits for an aggregation buffer: its rack, the flue context that holds it, whether a bulk carries it alone
(R169, R221). -/
structure FarWait where
  rack : Nat
  packet : Packet
  ctx : Option Nat
  alone : Bool
deriving DecidableEq, Repr

structure Bellows where
  /-- Entries whose row's gather has been issued and has not come back (R164). -/
  gathers : List Nat
  farReplays : List FarReplay
  pend : List Pend
  ctxs : List Ctx
  /-- Packets issued to the own pool and not yet taken by it. -/
  ownPath : List Packet
  /-- For each path: the list served last and how many packets of its burst. -/
  turn : List (DispPath × Nat × Nat)
  aggs : List Agg
  /-- Flushed buffers that wait for the in-flight limit. -/
  waiting : List Agg
  bulks : List Bulk
  farWait : List FarWait
  bulkSeq : Tab (BitVec 32)
  incarn : Option (BitVec 32)
deriving DecidableEq, Repr

/-- A committed packet in the pool: its header, payload and cells as runs (first cell, count). -/
structure PoolPkt where
  hdr : BitVec 256
  payload : List Byte
  cells : List (Nat × Nat)
deriving DecidableEq, Repr

/-- A step slot of a queue (R179). -/
structure PSlot where
  key : Key
  placeEpoch : Nat
  commits : Nat
  final : Option Nat
  halfEnd : Option Nat
  halfClosed : Bool
  delivered : Nat
  lastPrio : Option Nat
  fmt : Nat
  dSlices : Nat
  sender : BitVec 17
  closed : Bool
deriving DecidableEq, Repr

/-- A close record that waits for its packets: deliverable once so many packets of the slot were delivered (R179). -/
structure PClose where
  hdr : BitVec 256
  key : Key
  need : Nat
  /-- The slot ends with this record. -/
  last : Bool
  cells : List (Nat × Nat)
  /-- Packets of each class of the queue that were committed before the record was built and not yet delivered. -/
  ahead : List Nat
deriving DecidableEq, Repr

/-- Where a packet that waits for space came from. -/
inductive PoolFrom where
  | own
  | bulk (slot : Nat)
deriving DecidableEq, Repr

/-- A sweep of the owner array in progress (R175). -/
inductive Sweep where
  | list (q : Nat) (cls : Nat)
  | free
deriving DecidableEq, Repr

structure Pool where
  /-- Free cells as runs in free-list order. -/
  free : List (Nat × Nat)
  /-- Packets of each list, at 4 * queue number + class. -/
  lists : Tab (List PoolPkt)
  slots : Tab (List PSlot)
  closes : Tab (List PClose)
  cancelled : List Key
  waiting : List (PoolFrom × Packet)
  sweeps : List Sweep
  /-- Pointers whose two copies differ, which the next update of the pointer detects (R175). -/
  differ : List Sweep
deriving DecidableEq, Repr

/-- A packet or close record that a die port has begun to deliver: its message, the units that still have to leave, and the
queue and key of the packet (R176, R177). -/
structure Sending where
  hdr : BitVec 256
  payload : List Byte
  units : List Nat
  slot : Option (Nat × Key)
deriving DecidableEq, Repr

/-- A die port (R176, R177, R219): credits held, cells out on the die in order. -/
structure DiePort where
  credits : Nat
  out : List Nat
  sending : Option Sending
  /-- Return credits that the die holds (R219). -/
  ret : Nat
  lastCredit : Nat
  /-- The queue number served last in each class. -/
  served : List Nat
  /-- The port is out of service until kindling: its clock was lost (Table 14-2), or its die stalled (R184, Table 14-4). -/
  lost : Bool
deriving DecidableEq, Repr

/-! ### Returns and combine -/

/-- What a flue context holds (R221, R223, R226, R228). -/
inductive FlueUse where
  /-- A row in the stash, or held direct, for a position of an entry. -/
  | row (entry : Nat) (pos : Nat) (direct : Bool) (data : List Byte)
  /-- A combined or zero row whose writes wait for acknowledgement: how many are left. -/
  | write (entry : Nat) (left : Nat)
  /-- A return or receipt being sent on by this fronting engine. -/
  | send (p : Packet) (replays : Nat)
  /-- Reductions of a die return: pieces left, whether one ended unknown, the receipt to send. -/
  | reduce (p : Packet) (left : Nat) (bad : Bool)
deriving DecidableEq, Repr

structure FlueCtx where
  num : Nat
  use : FlueUse
deriving DecidableEq, Repr

/-- A reduction piece issued over the NOC and not yet acknowledged (R228): scoring entry, position, address, values. -/
structure NocRed where
  ctx : Nat
  scorer : Nat
  entry : Nat
  pos : Nat
  key : Key
deriving DecidableEq, Repr

/-- A cancelled key whose reductions this fronting engine fences, to send drain receipts to the group (R233). -/
structure Drain where
  key : Key
  group : BitVec 8
  place : Nat
  bank : Bool
  failed : Bool
deriving DecidableEq, Repr

structure Flue where
  ctxs : List FlueCtx
  ledger : Tab (BitVec 512)
  combineQ : List Nat
  ownPath : List Packet
  /-- Returns written to the staging area and not yet acknowledged: entry, position. -/
  staging : List (Nat × Nat)
  /-- Tokens of whose home row no part has been issued yet (R232). -/
  unissued : List Nat
  /-- Tokens whose arrival zero row is not yet acknowledged. -/
  zeroing : List Nat
  /-- Zero rows of skipped, bad, null and dropped tokens not yet acknowledged: entry, writes left. -/
  zeros : List (Nat × Nat)
  nocReds : List NocRed
  drains : List Drain
  /-- Far returns whose bulks have been acknowledged, the latest 4,096, each with its resends so far: what a replay request that
  is relayed later resends (R221, log entry 24). -/
  farKept : List (Packet × Nat)
deriving DecidableEq, Repr

/-! ### The rack fabric -/

/-- What the bytes that LOADs bring are for: a scored unit of a bank's step, the gather of an entry's row, the layout job in
progress, the second digest phase (R16, R139). -/
inductive FetchUse where
  | unit (bank : Bool) (unit : Nat)
  | gather (entry : Nat)
  | job
  | digest
deriving DecidableEq, Repr

/-- Bytes that LOADs bring from other packages: requests still open, and what has come, by package and address. -/
structure Fetch where
  id : Nat
  use : FetchUse
  left : Nat
  got : List ((Nat × Nat) × Byte)
deriving DecidableEq, Repr

/-- What an open operation serves; a key names the step, where a context may have been given to another. -/
inductive Serve where
  | dispatch (ctx : Nat) (key : Key)
  | flue (ctx : Nat) (key : Key)
  | home (entry : Nat)
  | reduce (ctx : Nat) (key : Key) (node : Nat)
  | load (use : FetchUse) (id : Nat)
  | job
  | coll (group program : Nat)
  | scan (key : Key) (group : Nat)
  | notice (key : Option Key)
  | receipt (key : Key)
  | rerun (key : Key)
  | forward (slot : Nat)
deriving DecidableEq, Repr

/-- A fabric operation as its unit asks for it. -/
structure FabWait where
  dst : Nat
  hdr : BitVec 256
  body : FabBody
  serve : Serve
  /-- For an MSTORE: the members that have not replied. -/
  members : List Nat
deriving DecidableEq, Repr

/-- An open fabric operation (R194, R195, R203). -/
structure FabOp extends FabWait where
  port : Bool
  tag : Nat
  gen : Nat
  origT : Nat
  seq : Nat
  attempt : Nat
  lastPort : Bool
  epoch : Nat
  firstAt : Nat
  lastAt : Nat
deriving DecidableEq, Repr

/-- A port's arbitration (R209, R210): the group served, each group's deficit and the context it served last, and the active
flows by group and by destination as counted at a CORE cycle. -/
structure Arb where
  cur : Nat
  deficit : Tab Nat
  last : Tab Nat
  groups : Tab Nat
  dsts : Tab Nat
  at_ : Option Nat
deriving DecidableEq, Repr

structure FabPort where
  up : Bool
  /-- The clock domain was lost: down until kindling (Table 14-2). -/
  lost : Bool
  epoch : Nat
  nextSeq : Nat
  gens : Tab Nat
  /-- Tick of each tag's last taking, plus one. -/
  ticks : Tab Nat
  arb : Arb
deriving DecidableEq, Repr

/-- A reply-cache entry (R197). -/
structure RcEntry where
  src : BitVec 17
  port : Bool
  tag : BitVec 10
  gen : BitVec 2
  origT : BitVec 16
  status : Nat
  data : BitVec 64
  time : Nat
deriving DecidableEq, Repr

/-- A fence (R203, R204): destinations, the sequence numbers it takes, the bulks sent to the racks of its set and not yet
acknowledged, whether an operation in it ended unknown. -/
structure Fence where
  key : Key
  dests : List Nat
  seq0 : Nat
  seq1 : Nat
  bulks : List (Nat × BitVec 32)
  failed : Bool
  /-- It holds up the report that half 0 is acknowledged (R183), not a drain (R233). -/
  half : Bool
deriving DecidableEq, Repr

/-- A landing buffer (R207): the bulk's source and the packets still to place. -/
structure Land where
  slot : Nat
  src : BitVec 17
  packets : List Packet
  /-- What the checks find about the packets still to place, in order (R174, R175); the rest are clean. -/
  chks : List Arrival
  /-- Packets forwarded or waiting whose commit is not yet known; those of them that the peer has not answered. -/
  left : Nat
  peer : List Packet
deriving DecidableEq, Repr

/-- An MSTORE this member has replied to (R205), by its requester, port, tag, generation and ORIG_T. -/
structure MReply where
  src : Nat
  port : Bool
  tag : Nat
  gen : Nat
  origT : Nat
deriving DecidableEq, Repr

structure Fabric where
  ports : Two FabPort
  ops : List FabOp
  waitQ : List FabWait
  fences : List Fence
  rcache : List RcEntry
  /-- The last MSTORE replied to for each requester, port and tag. -/
  mreplied : List MReply
  /-- No request of the engine's own until the hold ends (R199). -/
  hold : Bool
  gateUp : Bool
  gateLost : Bool
  lands : List Land
  /-- Operations that wait out RZ_BUSY_BACKOFF, since when (Table 8-4). -/
  resend : List (Nat × FabWait)
  /-- Bytes asked for by LOADs (R139). -/
  fetches : List Fetch
  /-- How many uses have asked for bytes. -/
  fetchId : Nat
  /-- The reply cache's region has been cleared since kindling (R199). -/
  rcReady : Bool
deriving DecidableEq, Repr

/-! ### Dedicated storage -/

/-- Buffers of Table 1-1 as their unit's last work left them: instructions in the step-program cache, by image address; the
norm unit's rows; the top-k unit's candidates with their selection keys; the layout unit's register tile; what in the
collective cores' memories differs from the ROM's content; the commit buffer's 64 KiB. -/
structure Stores where
  progCache : List (Nat × List Byte)
  normRows : List (List (BitVec 32))
  candidates : List (Nat × F32)
  tile : List (List Byte)
  coreMem : Memory
  commitBuf : List Byte
deriving DecidableEq, Repr

/-! ### The engine -/

structure State where
  /-- Commands that wait, first in first out. -/
  pending : List Instr
  /-- CORE cycles since power good. -/
  core : Nat
  mode : Mode
  ident : Ident
  objs : Tab Nat
  kindle : Kindle
  dict : Dict
  pins : Pins
  ftime : FTime
  therm : Therm
  xspi : Xspi
  soot : Soot
  log : Log
  digests : Digests
  seq : Seq
  steps : Two (Option Step)
  /-- Steps accepted since power good. -/
  accepted : Nat
  tables : Tables
  job : Option Job
  colls : Colls
  bellows : Bellows
  pool : Pool
  dies : List DiePort
  flue : Flue
  fabric : Fabric
  stores : Stores
  /-- Stacked memory of this engine's package. -/
  mem : Memory
  /-- The engine's LPDDR5X packages. -/
  lp : Memory
  /-- The model's own: how many free values have been taken (log entry 3). -/
  free : Nat
  /-- The model's own: what the engine has put on its ports, oldest first. -/
  egress : List Msg
deriving DecidableEq, Repr

/-! ### Reset values -/

def Ident.none : Ident := { location := 0, eng := false, grade14 := false }

def Kindle.start (fromOff : Bool) (phase now : Nat) : Kindle :=
  { phase := phase, fromOff := fromOff, started := now, diesDone := false, lpDone := false, held := false,
    driving := false, peerRole := none, unbank := false, peerGone := false }

def Dict.cleared : Dict :=
  { unlockMctp := false, unlockBand := false, xfer := none, abandoned := [], oaAddr := 0, oaData := 0, oaCount := 0,
    oaStatus := 0, dbLast := 0, dbStatus := 0, mbAddr := 0, mbOffset := 0, mbLen := 0, mbStatus := 0, mbBuf := [],
    oaUntil := 0, mbUntil := 0, reqs := [], edit := [] }

def Pins.cleared : Pins :=
  { holdup := false, failMode := .off, syncUntil := 0, timeEdge := none, dbgList := [0], dbgZero := 0, dbgObs := [],
    dbgFrames := 0, jtagIr := 0x01, jtagDr := 0 }

def FTime.cleared : FTime := { value := 0, valid := false, armed := none, before := none }

def Therm.cleared : Therm :=
  { stoke := .off, stokeTime := 0, cooldown := false, throttled := false, coolSince := none, change := none, bankWait := false,
    jobsHeld := false }

def Xspi.blank : Xspi :=
  { nor := [], sectors := { b0 := [], b1 := [] }, sector := false, seq := 0, logFirst := 0, logHeld := 0,
    commit := none, read := none, heldCmd := none, heldReset := false, retry := [], closed := [] }

def Soot.cleared : Soot := { ring := [], firstFatal := none, queued := 0, cycle := 0, lost := false }

def Log.cleared : Log :=
  { seq := 0, segSeq := 0, ord := none, replay := false, taken := [], waiting := [], held := [], last := none }

def Digests.cleared : Digests :=
  { prog := zeroDigest, input := zeroDigest, wt := { b0 := zeroDigest, b1 := zeroDigest }, wdigest := zeroDigest,
    inputSet := List.replicate 16 0, phase1 := 0, phase2 := 0, parity := 0,
    sha := List.replicate 4 zeroDigest }

def Barrier.cleared : Barrier :=
  { own := false, peer := false, packages := [], told := false, fired := false, release := none, needRelease := false,
    startDue := false }

def Held.cleared : Held := { place := false, rbank := none, wdigest := none, seed := none, mask := none, ftab := none }

def Seq.cleared : Seq :=
  { wait := .none, pc := 0, frames := [], regs := [0, 0, 0, 0], steps := 0, lastStepId := none, checking := false,
    startPending := false, fetched := none, barrier := .cleared, held := .cleared, mask := none,
    furthest := (0, [], [0, 0, 0, 0]), ahead := [], keptSeeds := [], keptMasks := [], front := none, reruns := [], lockstep := true, refused := false,
    nextBank := false, refuse := false, compare := [], passed := [], fusedBank := false, reason := 0 }

def RBank.cleared : RBank := { bytes := [], bodyDigest := zeroDigest, digest := zeroDigest }

def FSlot.cleared : FSlot := { bytes := [], digest := zeroDigest }

def Tables.cleared : Tables :=
  { rbanks := { b0 := .cleared, b1 := .cleared }, rload := none, fslots := List.replicate 5 .cleared, fload := none,
    owner := [], tensor := [], peerCrc := none, groups := [], badGroups := [], place := { b0 := [], b1 := [] },
    qmap := { b0 := [], b1 := [] }, placed := false, routeMap := [], landing := [], mcast := [],
    hist := { b0 := [], b1 := [] } }

def Colls.cleared : Colls := { now := none, early := [], scanEarly := [], commit := none }

def Bellows.cleared : Bellows :=
  { gathers := [], farReplays := [], pend := [], ctxs := [], ownPath := [], turn := [], aggs := [], waiting := [], bulks := [],
    farWait := [], bulkSeq := [], incarn := none }

/-- Cells of the hearth pool (R15). -/
def poolCells : Nat := 393216

def Pool.cleared : Pool :=
  { free := [(0, poolCells)], lists := [], slots := [], closes := [], cancelled := [], waiting := [], sweeps := [], differ := [] }

def DiePort.cleared : DiePort :=
  { credits := 512, out := [], sending := none, ret := 512, lastCredit := 0, served := [2047, 2047, 2047, 2047], lost := false }

def Flue.cleared : Flue :=
  { ctxs := [], ledger := [], combineQ := [], ownPath := [], staging := [], unissued := [], zeroing := [], zeros := [], nocReds := [],
    drains := [], farKept := [] }

def Arb.cleared : Arb := { cur := 0, deficit := [], last := [], groups := [], dsts := [], at_ := none }

def FabPort.cleared : FabPort :=
  { up := false, lost := false, epoch := 0, nextSeq := 0, gens := [], ticks := [], arb := .cleared }

def Fabric.cleared : Fabric :=
  { ports := { b0 := .cleared, b1 := .cleared }, ops := [], waitQ := [], fences := [], rcache := [], mreplied := [], hold := true,
    gateUp := false, gateLost := false, lands := [], resend := [], fetches := [], fetchId := 0, rcReady := false }

def Stores.cleared : Stores :=
  { progCache := [], normRows := [], candidates := [], tile := [], coreMem := [], commitBuf := [] }

/-- The engine with nothing in it but a location and what the xSPI part holds, in a mode. -/
def State.empty (mode : Mode) (ident : Ident) (xspi : Xspi) (egress : List Msg) (free : Nat) : State :=
  { pending := [], core := 0, mode := mode, ident := ident, objs := [], kindle := .start true 0 0, dict := .cleared,
    pins := .cleared, ftime := .cleared, therm := .cleared, xspi := xspi, soot := .cleared, log := .cleared,
    digests := .cleared, seq := .cleared, steps := { b0 := none, b1 := none }, accepted := 0, tables := .cleared,
    job := none, colls := .cleared, bellows := .cleared, pool := .cleared, dies := List.replicate 8 .cleared,
    flue := .cleared, fabric := .cleared, stores := .cleared, mem := [], lp := [], free := free, egress := egress }

/-- Right after power good and the release of reset: KINDLING, phase 0 (R320), every object at its default, every array
clear, the xSPI part blank. The location word, the identity and the grade are the model's choice (log entry 2). -/
def State.reset : State := State.empty .kindling .none .blank [] 0

end Sys2Proof.Machine
end

