-- ==== Sys2Proof/Machine/Operands.lean ====
section
/-!
DEFINITION. The packed structures that commands carry and tables hold: a name for each field of the manual's tables, read
from the structure's bits. Bit 0 is the least significant (R375).
-/

namespace Sys2Proof.Machine

/-- A packed structure of 8 * n bits from its bytes, byte 0 first (R375). -/
def ofBytes (n : Nat) (bs : List Byte) : BitVec n := BitVec.ofNat n (leNat bs)

/-- The bytes of a packed structure, byte 0 first. -/
def toBytes {n : Nat} (x : BitVec n) : List Byte := leBytes (n / 8) x.toNat

/-! ### Step descriptor (Table 2-3) -/

abbrev Desc := BitVec 512

namespace Desc
def ver (d : Desc) : Nat := fld d 511 508
def crc (d : Desc) : Nat := fld d 503 488
def admGroup (d : Desc) : Nat := fld d 487 480
def stepId (d : Desc) : BitVec 32 := BitVec.ofNat 32 (fld d 479 448)
def batch (d : Desc) : BitVec 12 := BitVec.ofNat 12 (fld d 447 436)
def placeEpoch (d : Desc) : Nat := fld d 435 420
def predSummary (d : Desc) : Bool := bit d 416
def n (d : Desc) : Nat := fld d 415 396
def dSlices (d : Desc) : Nat := fld d 395 388
def k (d : Desc) : Nat := fld d 387 383
def shared (d : Desc) : Nat := fld d 382 380
def e (d : Desc) : Nat := fld d 379 367
def hierGroups (d : Desc) : Nat := fld d 366 360
def hierTopg (d : Desc) : Nat := fld d 359 353
def hidden (d : Desc) : Nat := fld d 352 344
def firstToken (d : Desc) : Nat := fld d 343 318
def inTensor (d : Desc) : Nat := fld d 317 310
def outTensor (d : Desc) : Nat := fld d 309 302
def gateMode (d : Desc) : Nat := fld d 301 299
def renorm (d : Desc) : Bool := bit d 298
def layerNorm (d : Desc) : Bool := bit d 297
def timeEn (d : Desc) : Bool := bit d 296
def posEn (d : Desc) : Bool := bit d 295
def window (d : Desc) : Nat := fld d 294 293
def routerBank (d : Desc) : Bool := bit d 292
def vg3 (d : Desc) : Bool := bit d 291
def arrival (d : Desc) : Bool := bit d 290
def dropWrite (d : Desc) : Bool := bit d 289
def tagEn (d : Desc) : Bool := bit d 288
def dispFmt (d : Desc) : Nat := fld d 287 286
def retFmt (d : Desc) : Nat := fld d 285 284
def outFmt (d : Desc) : Nat := fld d 283 282
def skipEn (d : Desc) : Bool := bit d 281
def noiseEn (d : Desc) : Bool := bit d 280
def verdictMode (d : Desc) : Nat := fld d 279 278
def capVariants (d : Desc) : Nat := fld d 277 274
def capDefault (d : Desc) : Nat := fld d 273 271
def capTable (d : Desc) : Nat := fld d 263 232
def expertTurn (d : Desc) : Nat := fld d 231 200
def dScore (d : Desc) : Nat := fld d 159 128
def dAdmit (d : Desc) : Nat := fld d 127 96
def dVerdict (d : Desc) : Nat := fld d 95 64
def dDispatch (d : Desc) : Nat := fld d 63 32
def dCombine (d : Desc) : Nat := fld d 31 0

def key (d : Desc) : Key := { stepId := stepId d, batch := batch d }

/-- d_model. -/
def dim (d : Desc) : Nat := 128 * dSlices d

/-- Members of a scored unit: 1, or w of window routing (Table 2-3, WINDOW). -/
def w (d : Desc) : Nat := match window d with | 1 => 4 | 2 => 8 | _ => 1

/-- h of R19. -/
def h (d : Desc) : Nat := (n d + 1) / 2

/-- Positions of a token: routed slots, then shared positions. -/
def positions (d : Desc) : Nat := k d + shared d

/-- The reserved fields and encodings of the descriptor are as R12 asks (R44). -/
def reservedOk (d : Desc) : Bool :=
  fld d 507 504 == 0 && fld d 419 417 == 0 && fld d 270 264 == 0 && fld d 199 160 == 0 && decide (gateMode d ≤ 3) &&
  decide (window d ≤ 2) && decide (retFmt d ≤ 2) && decide (outFmt d ≤ 2) && decide (verdictMode d ≤ 2)
end Desc

/-! ### Dispatch header (Table 7-2) -/

namespace DHdr
abbrev T := BitVec 256
def type (h : T) : Nat := fld h 255 252
def prio (h : T) : Nat := fld h 251 250
def bank (h : T) : Bool := bit h 249
def arrival (h : T) : Bool := bit h 248
def batch (h : T) : BitVec 12 := BitVec.ofNat 12 (fld h 247 236)
def placeEpoch (h : T) : Nat := fld h 235 220
def srcNode (h : T) : Nat := fld h 219 203
def entry (h : T) : Nat := fld h 202 184
def slot (h : T) : Nat := fld h 183 180
def inst (h : T) : Nat := fld h 179 164
def rank (h : T) : Nat := fld h 163 144
def weight (h : T) : Nat := fld h 143 128
def dispFmt (h : T) : Nat := fld h 127 126
def wfmt (h : T) : Bool := bit h 125
def cells (h : T) : Nat := fld h 124 115
def dSlices (h : T) : Nat := fld h 114 107
def homeBlock (h : T) : Nat := fld h 106 93
def homeOff (h : T) : Nat := fld h 92 81
def stepId (h : T) : BitVec 32 := BitVec.ofNat 32 (fld h 80 49)
def final (h : T) : Bool := bit h 48
def halfEnd (h : T) : Bool := bit h 47
def qnum (h : T) : Nat := fld h 46 36
def payCrc (h : T) : BitVec 32 := BitVec.ofNat 32 (fld h 31 0)
def key (h : T) : Key := { stepId := stepId h, batch := batch h }
def reservedOk (h : T) : Bool := fld h 35 32 == 0
end DHdr

/-! ### Return header (Table 9-6) -/

namespace RHdr
abbrev T := BitVec 256
def type (h : T) : Nat := fld h 255 252
def shared (h : T) : Bool := bit h 251
def bank (h : T) : Bool := bit h 250
def poison (h : T) : Bool := bit h 249
def batch (h : T) : BitVec 12 := BitVec.ofNat 12 (fld h 247 236)
def placeEpoch (h : T) : Nat := fld h 235 220
def dstNode (h : T) : Nat := fld h 219 203
def entry (h : T) : Nat := fld h 202 184
def slot (h : T) : Nat := fld h 183 180
def inst (h : T) : Nat := fld h 179 164
def expNode (h : T) : Nat := fld h 163 147
def retFmt (h : T) : Nat := fld h 146 145
def cells (h : T) : Nat := fld h 144 134
def dSlices (h : T) : Nat := fld h 133 126
def stepId (h : T) : BitVec 32 := BitVec.ofNat 32 (fld h 125 94)
def digestFrag (h : T) : Nat := fld h 93 78
def payCrc (h : T) : BitVec 32 := BitVec.ofNat 32 (fld h 31 0)
def key (h : T) : Key := { stepId := stepId h, batch := batch h }
def reservedOk (h : T) : Bool := fld h 248 248 == 0 && fld h 77 32 == 0
end RHdr

/-! ### Bulk header (Table 7-3) -/

namespace BHdr
abbrev T := BitVec 512
def type (h : T) : Nat := fld h 511 508
def srcNode (h : T) : Nat := fld h 503 487
def dstRack (h : T) : Nat := fld h 486 478
def pkts (h : T) : Nat := fld h 477 465
def bytes (h : T) : Nat := fld h 464 444
def seq (h : T) : BitVec 32 := BitVec.ofNat 32 (fld h 431 400)
def bodyCrc (h : T) : BitVec 32 := BitVec.ofNat 32 (fld h 399 368)
def incarn (h : T) : BitVec 32 := BitVec.ofNat 32 (fld h 367 336)
def reservedOk (h : T) : Bool := fld h 507 504 == 0 && fld h 443 432 == 0 && fld h 335 0 == 0
end BHdr

/-! ### Fabric request and reply headers (Tables 8-2, 8-3) -/

namespace FHdr
abbrev T := BitVec 256
def op (h : T) : Nat := fld h 255 250
def port (h : T) : Bool := bit h 249
def tag (h : T) : Nat := fld h 248 239
def gen (h : T) : Nat := fld h 238 237
def attempt (h : T) : Nat := fld h 236 233
def epoch (h : T) : Nat := fld h 232 229
def srcNode (h : T) : Nat := fld h 228 212
def dstNode (h : T) : Nat := fld h 211 195
def share (h : T) : Nat := fld h 194 183
def tclass (h : T) : Nat := fld h 182 179
def len (h : T) : Nat := fld h 178 162
def issueT (h : T) : Nat := fld h 161 146
def efmt (h : T) : Nat := fld h 145 142
def mgroup (h : T) : Nat := fld h 141 134
def addr (h : T) : Nat := fld h 127 80
def origT (h : T) : Nat := fld h 79 64
/-- [133:128] and [63:0] are reserved; SHARE of 0, TCLASS 7 to 15 and an MGROUP outside MSTORE are not of Table 8-2. -/
def reservedOk (h : T) : Bool :=
  fld h 133 128 == 0 && fld h 63 0 == 0 && decide (tclass h ≤ 6) && (op h == 0x03 || mgroup h == 0)
/-- STATUS and DATA of a reply. -/
def status (h : T) : Nat := fld h 194 191
def data (h : T) : BitVec 64 := BitVec.ofNat 64 (fld h 127 64)
def replyOrigT (h : T) : Nat := fld h 143 128
end FHdr

/-! ### Tables -/

/-- Tensor record (Table 6-1) and owner entry (Table 6-2) are read in Layout.lean. -/
abbrev PEntry := BitVec 64

namespace PEntry
/-- Placement entry (Table 10-5). -/
def valid (p : PEntry) : Bool := bit p 63
def nrepM1 (p : PEntry) : Nat := fld p 62 59
def node (p : PEntry) : Nat := fld p 58 42
def qnum (p : PEntry) : Nat := fld p 41 31
def die (p : PEntry) : Nat := fld p 30 28
def reservedOk (p : PEntry) : Bool := fld p 27 0 == 0
end PEntry

abbrev QEntry := BitVec 64

namespace QEntry
/-- Queue-map entry (Table 7-8). -/
def valid (q : QEntry) : Bool := bit q 63
def shared (q : QEntry) : Bool := bit q 62
def inst (q : QEntry) : Nat := fld q 61 46
def die (q : QEntry) : Nat := fld q 45 43
def mk (shared : Bool) (inst die : Nat) : QEntry := packed 64 [(1, 1), (1, b2n shared), (16, inst), (3, die), (43, 0)]
end QEntry

abbrev MEntry := BitVec 32

namespace MEntry
/-- Group member entry (Table 10-2). -/
def valid (m : MEntry) : Bool := bit m 31
def parent (m : MEntry) : Nat := fld m 28 17
def node (m : MEntry) : Nat := fld m 16 0
def reservedOk (m : MEntry) : Bool := fld m 30 29 == 0
end MEntry

abbrev RMap := BitVec 128

namespace RMap
/-- Route-map entry (Table 10-9). -/
def valid (r : RMap) : Bool := bit r 127
def k (r : RMap) : Nat := fld r 126 122
def firstToken (r : RMap) : Nat := fld r 121 96
def descOff (r : RMap) : Nat := fld r 95 64
def line (r : RMap) : Nat := fld r 63 28
def cur (r : RMap) : Bool := bit r 27
def validH (r : RMap) : Bool := bit r 26
def reservedOk (r : RMap) : Bool := fld r 25 0 == 0
/-- Record bytes (R261). -/
def rb (r : RMap) : Nat := 4 * ceilDiv (12 * k r) 32
def setHalf (r : RMap) (cur validH : Bool) : RMap := setFld (setFld r 27 27 (b2n cur)) 26 26 (b2n validH)
end RMap

/-! ### Ledger entry (Tables 9-1 to 9-3) -/

abbrev LEntry := BitVec 512

namespace LEntry
def state (l : LEntry) : Nat := fld l 511 508
def homeBlock (l : LEntry) : Nat := fld l 507 494
def homeOff (l : LEntry) : Nat := fld l 493 482
def batch (l : LEntry) : BitVec 12 := BitVec.ofNat 12 (fld l 481 470)
def placeEpoch (l : LEntry) : Nat := fld l 469 454
def frag (l : LEntry) : Nat := fld l 453 438
def setState (l : LEntry) (v : Nat) : LEntry := setFld l 511 508 v
def setFrag (l : LEntry) (v : Nat) : LEntry := setFld l 453 438 v
end LEntry

/-- Low bit of routed slot s's field in its record (Table 9-1): slots 8 to 15 stand in the extension record. -/
def slotLow (s : Nat) : Nat := 329 - 47 * (s % 8)

/-- Low bit of shared position j's field. -/
def sharedLow (j : Nat) : Nat := 421 - 15 * j

/-- One position of a token as the ledger holds it: its instance and weight (0 for a shared one), state, context. -/
structure Position where
  inst : Nat
  weight : Nat
  rstate : Nat
  ctx : Nat
deriving DecidableEq, Repr

def Position.pack (p : Position) : Nat := Machine.pack [(16, p.inst), (16, p.weight), (3, p.rstate), (12, p.ctx)]

def Position.ofField (f : Nat) : Position :=
  { inst := bits f 46 31, weight := bits f 30 15, rstate := bits f 14 12, ctx := bits f 11 0 }

end Sys2Proof.Machine
end

