-- ==== Sys2Proof/Machine/Ops.lean ====
section
/-!
DEFINITION. The named operations over the state that every meaning uses: objects and counters, modes, memory, steps by bank
and key, the egress, free values.
-/

namespace Sys2Proof.Machine

/-- A command's meaning that always has its effect. -/
abbrev Res := Host.Outcome State Fault Refusal

/-! ### Two -/

def Two.get {α : Type} (t : Two α) (b : Bool) : α := if b then t.b1 else t.b0

def Two.set {α : Type} (t : Two α) (b : Bool) (v : α) : Two α := if b then { t with b1 := v } else { t with b0 := v }

/-! ### Objects -/

/-- The value a scalar object holds. -/
def State.obj (s : State) (k : Nat) : Nat := Tabs.get odDefault s.objs k

def State.setObj (s : State) (k v : Nat) : State := { s with objs := Tabs.set odDefault s.objs k v }

/-- A counter advanced, modulo 2 raised to its width (R295). -/
def State.count (s : State) (k n : Nat) : State := s.setObj k ((s.obj k + n) % 2 ^ odWidth k)

def State.flag (s : State) (k : Nat) : Bool := s.obj k != 0

/-- A state code (Table 12-11). -/
def Mode.code : Mode → Nat
  | .off => 0 | .kindling => 1 | .ready => 2 | .running => 3 | .banked => 4 | .faulted => 5 | .powerFail => 0

/-- The state that RZ_STATE shows: while a power failure gates the engine, the one that it met. -/
def State.shown (s : State) : Mode := if s.mode = .powerFail then s.pins.failMode else s.mode

/-- The clocks of the engine's domains run: not in OFF, nor under the gating of a power failure (R312, R336). -/
def State.clocked (s : State) : Bool := s.mode != .off && s.mode != .powerFail

/-- The engine's node ID (R9, R321). -/
def State.node (s : State) : Nat := s.obj Obj.RZ_NODE_ID

def nodeRack (n : Nat) : Nat := bits n 16 8
def nodeTray (n : Nat) : Nat := bits n 7 4
def nodePkg (n : Nat) : Nat := bits n 3 1

/-- The other engine of a package: the node ID with ENG inverted. -/
def peerOf (n : Nat) : Nat := if n % 2 = 0 then n + 1 else n - 1

/-- Engine 0 of a package (R28). -/
def State.primary (s : State) : Bool := !s.ident.eng

/-- The phase role (Table 0-4): 0 denoise, 1 cache, 2 conditioning. -/
def State.role (s : State) : Nat := s.obj Obj.RZ_PHASE_ROLE

/-! ### Egress and free values -/

def State.emit (s : State) (m : Msg) : State := { s with egress := s.egress ++ [m] }

def State.emits (s : State) (ms : List Msg) : State := { s with egress := s.egress ++ ms }

/-- A fresh value that the manual does not state. -/
def State.takeFree (s : State) : BitVec 64 × State := (Config.freeWord s.free, { s with free := s.free + 1 })

/-! ### Memory -/

def State.readMem (s : State) (a n : Nat) : List Byte := s.mem.read a n

def State.readMemNat (s : State) (a n : Nat) : Nat := s.mem.readNat a n

def State.writeMem (s : State) (a : Nat) (bs : List Byte) : State := { s with mem := s.mem.write a bs }

def State.writeMemNat (s : State) (a n v : Nat) : State := { s with mem := s.mem.writeNat a n v }

def State.writeLp (s : State) (a : Nat) (bs : List Byte) : State := { s with lp := s.lp.write a bs }

/-! ### Fabric time -/

/-- RZ_FTIME (Table 11-8): bit 63 is set while FTIME is invalid. -/
def FTime.shown (f : FTime) : Nat := if f.valid then f.value.toNat else f.value.toNat % 2 ^ 63 + 2 ^ 63

/-- Fabric time in 100-ns ticks, modulo 2^16 (R188, R277). -/
def State.ticks (s : State) : Nat := s.ftime.value.toNat / 120 % 65536

/-- Ticks without the wrap, for the cache's and the tags' ages. -/
def State.ticksFull (s : State) : Nat := s.ftime.value.toNat / 120

/-! ### Steps -/

def State.step? (s : State) (b : Bool) : Option Step := s.steps.get b

def State.setStep (s : State) (b : Bool) (t : Step) : State := { s with steps := s.steps.set b (some t) }

def Step.key (t : Step) : Key := Desc.key t.desc

def Step.isKey (t : Step) (k : Key) : Bool := decide (Step.key t = k)

/-- An accepted step that has not retired (R23): its bank is not free. -/
def Step.live (t : Step) : Bool := !t.retired

/-- The bank whose most recently accepted step has a key. -/
def State.bankOf (s : State) (k : Key) : Option Bool :=
  match s.steps.b0, s.steps.b1 with
  | some t, u => if Step.isKey t k then some false else
    match u with
    | some u => if Step.isKey u k then some true else none
    | none => none
  | none, some u => if Step.isKey u k then some true else none
  | none, none => none

/-- The bank whose most recently accepted step has a STEP_ID. -/
def State.bankOfId (s : State) (id : BitVec 32) (batch : Option (BitVec 12)) : Option Bool :=
  let hit (t : Option Step) : Bool :=
    match t with
    | some t => Desc.stepId t.desc == id && (batch == none || batch == some (Desc.batch t.desc))
    | none => false
  if hit s.steps.b0 then some false else if hit s.steps.b1 then some true else none

/-- A bank holds a live step. -/
def State.bankLive (s : State) (b : Bool) : Bool :=
  match s.steps.get b with
  | some t => Step.live t
  | none => false

/-- A step is in flight (R23, R359). -/
def State.inFlight (s : State) : Bool := s.bankLive false || s.bankLive true

/-- The banks of live steps, the earlier step's first (R25). -/
def State.liveBanks (s : State) : List Bool :=
  let at? (b : Bool) : List (Nat × Bool) :=
    match s.steps.get b with
    | some t => if Step.live t then [(t.nth, b)] else []
    | none => []
  match at? false, at? true with
  | [(i, _)], [(j, _)] => if i < j then [false, true] else [true, false]
  | a, b => (a ++ b).map (·.2)

/-- The banks that hold a step, the step accepted first in front. -/
def State.stepOrder (s : State) : List Bool :=
  match s.steps.b0, s.steps.b1 with
  | some t, some u => if t.nth < u.nth then [false, true] else [true, false]
  | some _, none => [false]
  | none, some _ => [true]
  | none, none => []

/-- A change of one step, where its bank holds one. -/
def State.onStep (s : State) (b : Bool) (f : Step → Step) : State :=
  match s.steps.get b with
  | some t => s.setStep b (f t)
  | none => s

/-- CORE cycles since a step's t0. -/
def State.since (s : State) (t0 : Nat) : Nat := s.core - t0

/-! ### Die ports -/

def State.dieAt (s : State) (port : Nat) : DiePort := (s.dies[port]?).getD .cleared

def State.setDie (s : State) (port : Nat) (d : DiePort) : State := { s with dies := s.dies.set port d }

/-! ### Sparse lists by key -/

/-- The entry of a short association list. -/
def assoc {α : Type} (l : List (Nat × α)) (k : Nat) : Option α := l.lookup k

def assocSet {α : Type} (l : List (Nat × α)) (k : Nat) (v : α) : List (Nat × α) :=
  l.filter (fun p => p.1 != k) ++ [(k, v)]

/-- A sparse table of counts, rising indices. -/
def tabOfCounts (l : List (Nat × Nat)) : Tab Nat := l.foldl (fun t p => Tabs.set (fun _ => 0) t p.1 p.2) []

/-- The count of an index; 0 where none is listed. -/
def countOf (t : Tab Nat) (i : Nat) : Nat := Tabs.get (fun _ => 0) t i

/-- The peer path carries traffic: this end presents credits from phase 1 of kindling on, but in BANKED and FAULTED, and the
far end is present (R368, Table 15-3). -/
def State.peerOpen (s : State) : Bool :=
  !s.kindle.peerGone &&
  match s.mode with
  | .kindling => decide (1 ≤ s.kindle.phase)
  | .ready => true
  | .running => true
  | _ => false

/-- GATE is up (R200, Table 14-2). -/
def State.gateOpen (s : State) : Bool := s.fabric.gateUp && !s.fabric.gateLost

/-- A gateway message leaves for a rack, where GATE is up (R368). -/
def State.toGate (s : State) (rack : Nat) (m : EngMsg) : State := if s.gateOpen then s.emit (.gate rack m) else s

/-- A message leaves on the peer path, where both ends are present (R368). -/
def State.toPeer (s : State) (m : EngMsg) : State := if s.peerOpen then s.emit (.peer m) else s

end Sys2Proof.Machine
end

