-- ==== Sys2Proof/Machine/Bank.lean ====
section
/-!
DEFINITION. Router banks (R66 to R72): the header, the sections, the mapping of columns to experts, the load's checks; and
the coordinates of a token (R82).
-/

namespace Sys2Proof.Machine

/-! ### Header (Table 3-1) -/

abbrev BankHdr := BitVec 512

namespace BankHdr
def magic (h : BankHdr) : Nat := fld h 511 480
def ver (h : BankHdr) : Nat := fld h 479 472
def dSlices (h : BankHdr) : Nat := fld h 471 464
def e (h : BankHdr) : Nat := fld h 463 451
def g (h : BankHdr) : Nat := fld h 450 444
def h (h : BankHdr) : Nat := fld h 443 435
def hidAct (h : BankHdr) : Bool := bit h 434
def timeArg (h : BankHdr) : Bool := bit h 433
def hasTime (h : BankHdr) : Bool := bit h 432
def hasPos (h : BankHdr) : Bool := bit h 431
def posOrder (h : BankHdr) : Nat := fld h 430 429
def geomH (h : BankHdr) : Nat := fld h 428 416
def geomW (h : BankHdr) : Nat := fld h 415 403
def sigma (h : BankHdr) : F32 := BitVec.ofNat 32 (fld h 383 352)
def sigmaScale (h : BankHdr) : F32 := BitVec.ofNat 32 (fld h 351 320)
def eps (h : BankHdr) : F32 := BitVec.ofNat 32 (fld h 319 288)
def bankLen (h : BankHdr) : Nat := fld h 287 256
def bodyCrc (h : BankHdr) : Nat := fld h 255 224
def reservedOk (h : BankHdr) : Bool := fld h 402 384 == 0 && fld h 223 0 == 0

/-- m: experts of a group; bg: blocks of a group (R68). -/
def m (b : BankHdr) : Nat := e b / g b
def bg (b : BankHdr) : Nat := ceilDiv (m b) 64
def nbE (b : BankHdr) : Nat := if g b = 0 then ceilDiv (e b) 64 else g b * bg b
def nbH (b : BankHdr) : Nat := ceilDiv (2 * h b) 64
def k1 (b : BankHdr) : Nat := if h b = 0 then dSlices b else ceilDiv (h b) 128

/-- Block and column of an expert (R68). -/
def place (b : BankHdr) (x : Nat) : Nat × Nat :=
  if g b = 0 then (x / 64, x % 64) else (x / m b * bg b + x % m b / 64, x % m b % 64)

/-- The column of a block maps to an expert (R68). -/
def used (b : BankHdr) (blk c : Nat) : Bool :=
  if g b = 0 then decide (64 * blk + c < e b) else decide (blk % bg b * 64 + c < m b)
end BankHdr

/-- Sections past the pad, in order (Table 3-2): expert bias, group bias, hidden bias, T, P, hidden weights, group weights,
expert weights. -/
inductive Sect where
  | expertBias | groupBias | hiddenBias | timeMat | posMat | hiddenW | groupW | expertW
deriving DecidableEq, Repr

def sects : List Sect :=
  [.expertBias, .groupBias, .hiddenBias, .timeMat, .posMat, .hiddenW, .groupW, .expertW]

def sectSize (b : BankHdr) : Sect → Nat
  | .expertBias => BankHdr.nbE b * 256
  | .groupBias => if BankHdr.g b = 0 then 0 else 256
  | .hiddenBias => BankHdr.nbH b * 256
  | .timeMat => if BankHdr.hasTime b then BankHdr.nbE b * 8192 else 0
  | .posMat => if BankHdr.hasPos b then BankHdr.nbE b * 8192 else 0
  | .hiddenW => BankHdr.dSlices b * BankHdr.nbH b * 16384
  | .groupW => if BankHdr.g b = 0 then 0 else BankHdr.k1 b * 16384
  | .expertW => BankHdr.k1 b * BankHdr.nbE b * 16384

/-- Offset of a section: 512 and the sizes of those before it. -/
def sectOff (b : BankHdr) (x : Sect) : Nat := 512 + ((sects.takeWhile (· ≠ x)).map (sectSize b)).sum

/-- The image's length by its sections (R67). -/
def sectTotal (b : BankHdr) : Nat := 512 + (sects.map (sectSize b)).sum

def sectBytes (b : BankHdr) (img : List Byte) (x : Sect) : List Byte := slice img (sectOff b x) (sectSize b x)

/-! ### Checks (R69) -/

def bf16Finite (v : Nat) : Bool := bits v 14 7 != 255

def f32Finite (v : Nat) : Bool := F32.isFinite (BitVec.ofNat 32 v)

/-- Values of n bytes that follow one another: a used one is finite, an unused one all zero. -/
def valuesOk (n : Nat) (finite : Nat → Bool) (used : Nat → Bool) : Nat → Nat → List Byte → Bool
  | 0, _, _ => true
  | k + 1, i, bs =>
    let v := leNat (bs.take n)
    (if used i then finite v else v == 0) && valuesOk n finite used k (i + 1) (bs.drop n)

/-- Element i of a section of 256-B bias blocks, and of blocks of `rows` rows and 64 columns. -/
def biasOk (used : Nat → Nat → Bool) (bs : List Byte) : Bool :=
  valuesOk 4 f32Finite (fun i => used (i / 64) (i % 64)) (bs.length / 4) 0 bs

def blocksOk (rows : Nat) (used : Nat → Nat → Nat → Bool) (bs : List Byte) : Bool :=
  valuesOk 2 bf16Finite (fun i => used (i / (64 * rows)) (i / rows % 64) (i % rows)) (bs.length / 2) 0 bs

/-- Check 4: values finite, padding zero. -/
def contentOk (b : BankHdr) (img : List Byte) : Bool :=
  let rowIn (s i : Nat) : Bool := BankHdr.h b == 0 || decide (s * 128 + i < BankHdr.h b)
  let hid (blk c : Nat) : Bool := decide (64 * blk + c < 2 * BankHdr.h b)
  F32.isFinite (BankHdr.sigma b) && F32.isFinite (BankHdr.sigmaScale b) && F32.isFinite (BankHdr.eps b) &&
  valuesOk 4 f32Finite (fun _ => true) 64 0 (slice img 64 256) &&
  (slice img 320 192).all (· == 0) &&
  biasOk (BankHdr.used b) (sectBytes b img .expertBias) &&
  biasOk (fun _ c => decide (c < BankHdr.g b)) (sectBytes b img .groupBias) &&
  biasOk hid (sectBytes b img .hiddenBias) &&
  blocksOk 64 (fun blk c _ => BankHdr.used b blk c) (sectBytes b img .timeMat) &&
  blocksOk 64 (fun blk c _ => BankHdr.used b blk c) (sectBytes b img .posMat) &&
  blocksOk 128 (fun k c _ => hid (k % BankHdr.nbH b) c) (sectBytes b img .hiddenW) &&
  blocksOk 128 (fun s c i => decide (c < BankHdr.g b) && rowIn s i) (sectBytes b img .groupW) &&
  blocksOk 128 (fun k c i => BankHdr.used b (k % BankHdr.nbE b) c && rowIn (k / BankHdr.nbE b) i)
    (sectBytes b img .expertW)

/-- Check 1: the header's fields. -/
def bankHdrOk (b : BankHdr) : Bool :=
  BankHdr.magic b == 0x47524154 && BankHdr.ver b == 3 && BankHdr.reservedOk b &&
  inRange 2 128 (BankHdr.dSlices b) && inRange 1 4096 (BankHdr.e b) &&
  (BankHdr.g b == 0 || (inRange 2 64 (BankHdr.g b) && BankHdr.e b % BankHdr.g b == 0)) &&
  decide (BankHdr.h b ≤ 256) && decide (BankHdr.posOrder b ≤ 2) && inRange 2 4096 (BankHdr.geomH b) &&
  inRange 2 4096 (BankHdr.geomW b) &&
  (BankHdr.posOrder b == 0 || (BankHdr.geomH b % 2 == 0 && BankHdr.geomW b % 2 == 0))
where inRange (lo hi v : Nat) : Bool := decide (lo ≤ v) && decide (v ≤ hi)

/-- Check 5: the parameters. -/
def bankParamOk (b : BankHdr) : Bool :=
  F32.isPosNormal (BankHdr.eps b) && F32.isFinite (BankHdr.sigmaScale b) &&
  (if BankHdr.timeArg b then F32.isFinite (BankHdr.sigma b) else F32.isPosNormal (BankHdr.sigma b))

/-- The state code a full load ends with (R69). -/
def bankCheck (len : Nat) (img : List Byte) : Nat :=
  let b : BankHdr := ofBytes 512 (img.take 64)
  if decide (img.length < 64) || !bankHdrOk b then 3
  else if BankHdr.bankLen b != sectTotal b || decide (4194304 < sectTotal b) || BankHdr.bankLen b != len then 4
  else if (crc32 (img.drop 64)).toNat != BankHdr.bodyCrc b then 5
  else if !contentOk b img then 6
  else if !bankParamOk b then 7
  else 1

/-- A header-only load is accepted against the loaded header (R70). -/
def headerLoadOk (old new : BankHdr) : Bool :=
  let cut (h : BankHdr) : BankHdr := setFld h 383 320 0
  decide (cut old = cut new) && bankHdrOk new && bankParamOk new && F32.isFinite (BankHdr.sigma new) &&
  F32.isFinite (BankHdr.sigmaScale new)

/-! ### The banks of the store -/

def State.bankBytes (s : State) (b : Bool) : List Byte := (s.tables.rbanks.get b).bytes

def State.bankHdr (s : State) (b : Bool) : BankHdr := ofBytes 512 ((s.bankBytes b).take 64)

/-- The state object of a bank. -/
def rbankStateKey (b : Bool) : Nat := if b then Obj.RZ_RBANK1_STATE else Obj.RZ_RBANK0_STATE

def State.bankValid (s : State) (b : Bool) : Bool := s.obj (rbankStateKey b) == 1

/-! ### Coordinates (R82) -/

/-- (f, r, c) of a tensor token index. -/
def coordsOf (b : BankHdr) (t : Nat) : Nat × Nat × Nat :=
  let hw := BankHdr.geomH b * BankHdr.geomW b
  let w := BankHdr.geomW b
  match BankHdr.posOrder b with
  | 1 =>
    let q := t % hw
    let j := q / 4
    let m := q % 4
    (t / hw, 2 * (j / (w / 2)) + m / 2, 2 * (j % (w / 2)) + m % 2)
  | 2 =>
    let q := t % (2 * hw)
    let j := q / 8
    let m := q % 8
    (2 * (t / (2 * hw)) + m / 4, 2 * (j / (w / 2)) + m % 4 / 2, 2 * (j % (w / 2)) + m % 4 % 2)
  | _ => (t / hw, t % hw / w, t % hw % w)

end Sys2Proof.Machine
end

