-- ==== Sys2Proof/Machine/Flags.lean ====
section
/-!
DEFINITION. Alert causes (R314, R353), the soot log (R349 to R353), the status ring (R50), and the replay log (R280 to
R283): what the engine flags and records, each written in one place.
-/

namespace Sys2Proof.Machine

/-! ### Alerts -/

namespace Alert
abbrev stepRefused : Nat := 0
abbrev seqHalt : Nat := 1
abbrev soot : Nat := 2
abbrev faulted : Nat := 3
abbrev selfTransition : Nat := 4
abbrev thermal : Nat := 5
abbrev persistFail : Nat := 6
abbrev replayDiverged : Nat := 7
abbrev kindleHeld : Nat := 8
end Alert

/-- An alert cause is set (R314). -/
def State.alert (s : State) (bit : Nat) : State :=
  s.setObj Obj.RZ_ALERT_CAUSE (s.obj Obj.RZ_ALERT_CAUSE ||| 2 ^ bit)

/-- ALERT_N is driven low: a cause bit is set whose mask bit is set (R314); a RESET and phase 0 release it (R366). -/
def State.alertLow (s : State) : Bool :=
  let on : Bool := match s.mode with
    | .off => false
    | .kindling => decide (1 ≤ s.kindle.phase)
    | _ => true
  on && (s.obj Obj.RZ_ALERT_CAUSE &&& s.obj Obj.RZ_ALERT_MASK) != 0

/-! ### Soot log -/

/-- A soot event: code, severity, action, LOC, DETAIL, the other engine concerned, the step concerned. -/
structure SootEv where
  code : Nat
  sev : Nat
  action : Nat
  loc : Nat := 0
  detail : Nat := 0
  node : Option Nat := none
  step : Option Key := none
deriving DecidableEq, Repr

/-- The soot entry of Table 14-3. -/
def sootEntry (s : State) (e : SootEv) (lost : Bool) (rep seq : Nat) : BitVec 256 :=
  let sid := match e.step with | some k => k.stepId.toNat | none => 0xFFFFFFFF
  let batch := match e.step with | some k => k.batch.toNat | none => 0
  packed 256 [(8, e.code), (3, e.sev), (4, e.action), (1, b2n lost), (16, rep), (64, FTime.shown s.ftime), (32, sid),
    (12, batch), (3, s.shown.code), (17, e.node.getD s.node), (32, e.loc), (32, e.detail), (32, seq)]

/-- An event merges into the newest entry (R351): same CODE, LOC, NODE and STEP_ID, TIME within 1 ms. -/
def sootMerges (a b : BitVec 256) : Bool :=
  fld a 255 248 == fld b 255 248 && fld a 95 64 == fld b 95 64 && fld a 112 96 == fld b 112 96 &&
  fld a 159 128 == fld b 159 128 &&
  decide (fld a 223 160 ≤ fld b 223 160 + 1200000) && decide (fld b 223 160 ≤ fld a 223 160 + 1200000)

def sootZero : Nat → BitVec 256 := fun _ => 0

/-- R353: an entry at or above RZ_SOOT_ALERT_SEV sets cause SOOT. -/
def State.sootAlert (s : State) (sev : Nat) : State :=
  if s.obj Obj.RZ_SOOT_ALERT_SEV ≤ sev then s.alert Alert.soot else s

/-- Events that the queue of 64 holds: those posted in this CORE cycle; it is empty again in the next (log entry 38). -/
def State.sootQueued (s : State) : Nat := if s.soot.cycle = s.core then s.soot.queued else 0

/-- An event is written to the ring, or merged into the newest entry (R349, R351, R353). -/
def State.sootWrite (s : State) (e : SootEv) : State :=
  let head := s.obj Obj.RZ_SOOT_HEAD
  let at_ := (head + 1023) % 1024
  let newest := Tabs.get sootZero s.soot.ring at_
  let full := decide (1024 ≤ (head + 2 ^ 32 - s.obj Obj.RZ_SOOT_TAIL) % 2 ^ 32)
  let entry := sootEntry s e (full || s.soot.lost) 0 head
  if decide (newest ≠ 0) && sootMerges newest entry then
    let rep := min 0xFFFF (fld newest 239 224 + 1)
    let s := { s with soot := { s.soot with ring := Tabs.set sootZero s.soot.ring at_ (setFld newest 239 224 rep) } }
    s.sootAlert (fld newest 247 245)
  else
    let s := if full then (s.count Obj.RZ_SOOT_TAIL 1).count Obj.RZ_SOOT_LOST 1 else s
    let fatal := if e.sev = 4 && s.soot.firstFatal.isNone then some entry else s.soot.firstFatal
    let s := { s with soot :=
      { s.soot with ring := Tabs.set sootZero s.soot.ring (head % 1024) entry, firstFatal := fatal, lost := false } }
    (s.count Obj.RZ_SOOT_HEAD 1).sootAlert e.sev

/-- A unit posts an event: it is lost where the queue is full (R349). -/
def State.soot_ (s : State) (e : SootEv) : State :=
  let n := s.sootQueued
  if 64 ≤ n then State.count { s with soot := { s.soot with lost := true } } Obj.RZ_SOOT_LOST 1
  else State.sootWrite { s with soot := { s.soot with queued := n + 1, cycle := s.core } } e

/-! ### Status ring -/

/-- The step status record of Table 2-7. -/
def statusRecord (stepId status failMask firstFail variant batch modelEnd deadline : Nat) : BitVec 128 :=
  packed 128 [(32, stepId), (8, status), (5, failMask), (3, firstFail), (4, variant), (12, batch), (32, modelEnd),
    (32, deadline)]

/-- A record enters the status ring (R50). -/
def State.postStatus (s : State) (r : BitVec 128) : State :=
  let base := s.obj Obj.RZ_STATUS_RING
  if base = 0 then s.count Obj.RZ_STATUS_LOST 1
  else
    let len := s.obj Obj.RZ_STATUS_RING_LEN
    let head := s.obj Obj.RZ_STATUS_HEAD
    let full := decide ((head + 2 ^ 32 - s.obj Obj.RZ_STATUS_TAIL) % 2 ^ 32 = len)
    let s := if full then (s.count Obj.RZ_STATUS_TAIL 1).count Obj.RZ_STATUS_LOST 1 else s
    (s.writeMem (base + head % len * 16) (toBytes r)).count Obj.RZ_STATUS_HEAD 1

/-! ### Replay log -/

/-- The log record header of Table 11-3. -/
def logHeader (s : State) (e : LogEntry) : BitVec 256 :=
  packed 256 [(8, e.ty), (8, 0), (17, e.payload.length), (17, s.node), (14, 0), (64, s.log.seq.toNat), (32, e.stepId),
    (32, e.ord), (32, e.tOff), (32, if e.payload.isEmpty then 0 else (crc32 e.payload).toNat)]

/-- Bytes of a record: its header, and its payload zero-padded to a multiple of 32 (R281). -/
def recordSize (payload : Nat) : Nat := 32 + roundUp payload 32

/-- The current admission ordinal (Table 11-3). -/
def State.ordNow (s : State) : Nat := match s.log.ord with | some o => o.toNat | none => 0xFFFFFFFF

/-- Bytes placed at the head of the log ring, which advances (R280). -/
def State.logBytes (s : State) (bs : List Byte) : State :=
  let base := s.obj Obj.RZ_LOG_BASE
  let len := s.obj Obj.RZ_LOG_LEN
  let at_ := s.obj Obj.RZ_LOG_HEAD % len
  let room := len - at_
  let s := s.writeLp (base + at_) (bs.take room)
  let s := if room < bs.length then s.writeLp base (bs.drop room) else s
  s.count Obj.RZ_LOG_HEAD bs.length

/-- The log ring is written: RZ_LOG_EN is 1 and a ring is set (log entry 6), in READY, RUNNING and BANKED (R280). -/
def State.logOn (s : State) : Bool :=
  s.flag Obj.RZ_LOG_EN && s.obj Obj.RZ_LOG_LEN != 0 && s.obj Obj.RZ_LOG_SEG != 0 &&
  (s.mode == .ready || s.mode == .running || s.mode == .banked)

/-- Bytes of the open segment before the head. -/
def State.segBytes (s : State) : List Byte :=
  let head := s.obj Obj.RZ_LOG_HEAD
  let used := head % s.obj Obj.RZ_LOG_SEG
  s.lp.read (s.obj Obj.RZ_LOG_BASE + (head - used) % s.obj Obj.RZ_LOG_LEN) used

/-- SEGMENT_END fills the segment to its last byte; a closed segment is committed while RZ_LOG_PERSIST is 1 (R283,
R334). -/
def State.closeSegment (s : State) : State :=
  let seg := s.obj Obj.RZ_LOG_SEG
  let head := s.obj Obj.RZ_LOG_HEAD
  let left := seg - head % seg
  let first := packed 256 [(64, s.log.segSeq.toNat), (32, (crc32 s.segBytes).toNat), (160, 0)]
  let payload := toBytes first ++ List.replicate (left - 64) 0
  let hdr := logHeader s { ty := 0x1F, stepId := 0xFFFFFFFF, ord := s.ordNow, tOff := 0, payload := payload }
  let s := s.logBytes (toBytes hdr ++ payload)
  let s := { s with log := { s.log with seq := s.log.seq + 1, segSeq := s.log.seq + 1 } }
  if s.flag Obj.RZ_LOG_PERSIST then
    { s with xspi := { s.xspi with closed := s.xspi.closed ++ [head - head % seg] } }
  else s

/-- Where the head stands after a record of `size` bytes: the record closes the segment that has no room for it and a
SEGMENT_END (R280). -/
def headAfter (seg head size : Nat) : Nat :=
  let left := seg - head % seg
  if left < size + 64 then head + left + size else head + size

/-- Records of these payload lengths fit in what the ring has released, one after the other (R280: no record is discarded). -/
def recordsFit (seg limit : Nat) : Nat → List Nat → Bool
  | _, [] => true
  | head, n :: ns => let h := headAfter seg head (recordSize n); decide (h ≤ limit) && recordsFit seg limit h ns

/-- The log can take records of these payload lengths now: it is off, or no record waits and they fit. -/
def State.logReady (s : State) (ns : List Nat) : Bool :=
  !s.logOn || (s.log.waiting.isEmpty &&
    recordsFit (s.obj Obj.RZ_LOG_SEG) (s.obj Obj.RZ_LOG_TAIL + s.obj Obj.RZ_LOG_LEN) (s.obj Obj.RZ_LOG_HEAD) ns)

/-- A record is placed in the ring under the next SEQ. -/
def State.logPut (s : State) (e : LogEntry) : State :=
  let seg := s.obj Obj.RZ_LOG_SEG
  let left := seg - s.obj Obj.RZ_LOG_HEAD % seg
  let s := if left < recordSize e.payload.length + 64 then s.closeSegment else s
  let s := s.logBytes (toBytes (logHeader s e) ++ zeroFill 32 e.payload)
  { s with log := { s.log with seq := s.log.seq + 1, last := some e } }

/-- A replay-log record is written, or waits for room (R280, R281; log entry 38). -/
def State.logRecord (s : State) (e : LogEntry) : State :=
  if !s.logOn then s
  else if s.logReady [e.payload.length] then s.logPut e
  else { s with log := { s.log with waiting := s.log.waiting ++ [e] } }

/-- Waiting records are written, as far as there is room. -/
def drainEntries : List LogEntry → State → State
  | [], s => s
  | e :: es, s =>
    if s.logReady [e.payload.length] then drainEntries es (s.logPut e)
    else { s with log := { s.log with waiting := e :: es } }

/-- An input is applied once its records can be written; until then it waits, behind those that wait already (R280). -/
def State.orHold (s : State) (h : LogHeld) (ns : List Nat) (apply : State → State) : State :=
  if s.log.held.isEmpty && s.logReady ns then apply s else { s with log := { s.log with held := s.log.held ++ [h] } }

/-- A record that applies to no step. -/
def State.logFree (s : State) (ty : Nat) (payload : List Byte) : State :=
  s.logRecord { ty := ty, stepId := 0xFFFFFFFF, ord := s.ordNow, tOff := 0, payload := payload }

/-- A record that applies to a step, at the present CORE cycle. -/
def State.logStep (s : State) (ty : Nat) (t : Step) (payload : List Byte) : State :=
  s.logRecord
    { ty := ty, stepId := (Desc.stepId t.desc).toNat, ord := t.ord.toNat, tOff := s.since t.t0, payload := payload }

end Sys2Proof.Machine
end

