-- ==== Sys2Proof/Machine/Groups.lean ====
section
/-!
DEFINITION. Groups of engines (R245 to R250): members, trees, scopes, and the rules a group table must meet.
-/

namespace Sys2Proof.Machine

/-- A group's entries that are not all zero: (position, entry), rising. -/
def groupEntries (t : Tab (BitVec 32)) (g : Nat) : List (Nat × MEntry) :=
  t.filterMap (fun p => if p.1 / 4096 = g then some (p.1 % 4096, p.2) else none)

/-- A group's member list: positions and entries, valid ones (R246). -/
def State.group (s : State) (g : Nat) : List (Nat × MEntry) :=
  (groupEntries s.tables.groups g).filter (fun p => MEntry.valid p.2)

/-- The node IDs of a group's members, by position. -/
def State.members (s : State) (g : Nat) : List Nat := (s.group g).map (fun p => MEntry.node p.2)

/-- The parents of a group's members, by position. -/
def State.parents (s : State) (g : Nat) : List Nat := (s.group g).map (fun p => MEntry.parent p.2)

/-- A node's position in a group. -/
def State.posIn (s : State) (g node : Nat) : Option Nat := (s.members g).findIdx? (· == node)

/-- The children of a position, ascending. -/
def childrenOf (parents : List Nat) (pos : Nat) : List Nat :=
  (List.range parents.length).filter (fun j => decide (0 < j) && parents.getD j 0 == pos)

/-- `a` is `j` or an ancestor of `j`. -/
def isAncestor (parents : List Nat) (a : Nat) : Nat → Nat → Bool
  | 0, j => j == a
  | n + 1, j => j == a || (decide (0 < j) && isAncestor parents a n (parents.getD j 0))

/-- Positions of the subtree at a position: consecutive, from it on (R246). -/
def subtreeOf (parents : List Nat) (pos : Nat) : List Nat :=
  (List.range parents.length).filter (fun j => isAncestor parents pos parents.length j)

/-- A group is well formed (R246), over its entries that are not all zero. -/
def groupWf (es : List (Nat × MEntry)) : Bool :=
  let nodes := es.map (fun p => MEntry.node p.2)
  let parents := es.map (fun p => MEntry.parent p.2)
  es.map (·.1) == List.range es.length &&
  es.all (fun p => MEntry.valid p.2 && MEntry.reservedOk p.2) &&
  decide nodes.Nodup &&
  (List.range es.length).all (fun j =>
    if j = 0 then parents.getD 0 0 == 0
    else decide (parents.getD j 0 < j) && isAncestor parents (parents.getD j 0) j (j - 1)) &&
  (List.range es.length).all (fun j =>
    let n := nodes.getD j 0
    if n % 2 = 1 && nodes.contains (n - 1) then
      decide (0 < j) && nodes.getD (j - 1) 0 == n - 1 && parents.getD j 0 == j - 1 && (childrenOf parents j).isEmpty
    else true)

/-- Scopes of a group, in widening order (R52): 0 package, 1 tray, 2 rack, 3 system. -/
def scopeOf (nodes : List Nat) : Nat :=
  match nodes with
  | [] => 0
  | a :: ns =>
    if ns.all (fun b => samePkg a b) then 0
    else if ns.all (fun b => a / 16 == b / 16) then 1
    else if ns.all (fun b => a / 256 == b / 256) then 2
    else 3
where
  samePkg (a b : Nat) : Bool := a / 2 == b / 2

/-- The first member, by position, of those sharing a key with position j. -/
def firstOf (nodes : List Nat) (key : Nat → Nat) (j : Nat) : Nat :=
  (nodes.findIdx? (fun n => n % 2 == 0 && key n == key (nodes.getD j 0))).getD j

/-- Gateway edges from a rack root up to the group root. -/
def gateDepth (parents : List Nat) : Nat → Nat → Nat
  | 0, _ => 0
  | n + 1, j => if j = 0 then 0 else 1 + gateDepth parents n (parents.getD j 0)

/-- A group's tree meets Table 10-3 for its scope. -/
def treeOk (nodes parents : List Nat) : Bool :=
  let tray (n : Nat) : Nat := n / 16
  let rack (n : Nat) : Nat := n / 256
  let isRackRoot (j : Nat) : Bool := firstOf nodes rack j == j
  nodes.getD 0 1 % 2 == 0 &&
  (List.range nodes.length).all (fun j =>
    let n := nodes.getD j 0
    let p := parents.getD j 0
    if j = 0 then true
    else if n % 2 = 1 then nodes.getD p 0 == n - 1
    else if firstOf nodes tray j != j then p == firstOf nodes tray j
    else if !isRackRoot j then p == firstOf nodes rack j
    else isRackRoot p && decide (gateDepth parents 4 j ≤ 3) &&
      decide (((childrenOf parents p).filter isRackRoot).length ≤ 8))

/-- The limit of n_inst for a scope (Table 10-3). -/
def scopeLimit : Nat → Nat
  | 0 => 65536
  | 1 => 1024
  | 2 => 16384
  | _ => 4096

/-- t_scope of Table 10-4. -/
def scopeTime : Nat → Nat
  | 0 => 960
  | 1 => 4800
  | 2 => 14400
  | _ => 48000

/-- A group can be used: not empty, well formed, not invalid (R250, R256, R267). -/
def State.groupUsable (s : State) (g : Nat) : Bool :=
  !(s.group g).isEmpty && groupWf (groupEntries s.tables.groups g) && !s.tables.badGroups.contains g

end Sys2Proof.Machine
end

