-- ==== Sys2Proof/Machine/Issue.lean ====
section
/-!
DEFINITION. Issuing fabric requests (R188, R194, R195, R199, R200, R203, R205, R210), answering them (R189), and messages
between engines over the path that fits the distance (Table 7-1).
-/

namespace Sys2Proof.Machine

/-- The path to another engine (Table 7-1). -/
inductive Route where
  | own | peer | rack | far
deriving DecidableEq, Repr

def State.route (s : State) (dst : Nat) : Route :=
  if dst = s.node then .own
  else if dst / 2 = s.node / 2 then .peer
  else if nodeRack dst = nodeRack s.node then .rack
  else .far

/-- The port that carries traffic to a node (Table 7-1): by parity, or the surviving one. -/
def portFor (up : Bool → Bool) (dst : Nat) : Option Bool :=
  let want := dst % 2 == 1
  if up want then some want else if up (!want) then some (!want) else none

/-- A port is up for traffic (R200). -/
def State.fabUp (s : State) (port : Bool) : Bool :=
  let p := s.fabric.ports.get port
  p.up && !p.lost

/-! ### Arbitration at a port (R209, R210) -/

/-- The context that holds an entry's row for its writes. -/
def State.homeHolder (s : State) (e : Nat) : Option Nat :=
  s.flue.ctxs.findSome? (fun c =>
    match c.use with
    | .write e' _ => if e' = e then some c.num else none
    | _ => none)

/-- The arbitration group of what an operation serves, and the context within it: bellows contexts form groups 0 to 63 and flue
contexts groups 64 to 127 by their number ÷ 64, the collective cores' streams group 128, the layout unit, table broadcast and
control traffic group 129. A zero row without a context goes with the layout unit, a landed packet with control traffic. -/
def State.flowOf (s : State) (x : Serve) : Nat × Nat :=
  let flue (n : Nat) : Nat × Nat := (64 + n / 64, n)
  match x with
  | .dispatch n _ => (n / 64, n)
  | .flue n _ => flue n
  | .reduce n _ _ => flue n
  | .home e => match s.homeHolder e with | some n => flue n | none => (129, 0)
  | .coll _ program => (128, program % 16)
  | .scan key _ => (128, 8 + key.batch.toNat % 8)
  | .load _ _ => (129, 0)
  | .job => (129, 0)
  | .notice _ => (129, 1)
  | .receipt _ => (129, 2)
  | .rerun _ => (129, 3)
  | .forward _ => (129, 4)

/-- 1,024 FAB cycles at 1.6 GHz, in CORE cycles. -/
def flowPeriod : Nat := 768

def zeroNat : Nat → Nat := fun _ => 0

def tally (l : List Nat) : Tab Nat := l.foldl (fun t i => Tabs.set zeroNat t i (Tabs.get zeroNat t i + 1)) []

def State.arb (s : State) (port : Bool) : Arb := (s.fabric.ports.get port).arb

def State.setArb (s : State) (port : Bool) (a : Arb) : State :=
  { s with fabric := { s.fabric with ports := s.fabric.ports.set port { s.fabric.ports.get port with arb := a } } }

/-- SHARE (R210): active flows of the port to the destination, 1 to 4,095; 1 while weighting is off. -/
def State.share (s : State) (port : Bool) (dst : Nat) : Nat :=
  if s.flag Obj.RZ_FAB_WEIGHTING then min 4095 (max 1 (Tabs.get zeroNat (s.arb port).dsts dst)) else 1

/-- A group's quantum: 64 B for each of its active flows on the port; 64 B while weighting is off. -/
def State.quantum (s : State) (port : Bool) (g : Nat) : Nat :=
  if s.flag Obj.RZ_FAB_WEIGHTING then 64 * max 1 (Tabs.get zeroNat (s.arb port).groups g) else 64

/-- Bytes of a request on its port: its header and its payload. -/
def FabWait.size (w : FabWait) : Nat := 32 + (if FHdr.op w.hdr = 0x01 then 0 else FHdr.len w.hdr)

/-- The packages whose memory an operation's bytes lie in: the target's, or every member's. -/
def FabWait.packages (w : FabWait) : List Nat := if FHdr.op w.hdr = 0x03 then w.members.map (· / 2) else [w.dst / 2]

/-- The operation writes bytes of stacked memory: a store, an atomic or a reduction. -/
def FabWait.writes (w : FabWait) : Bool := [0x02, 0x03, 0x08, 0x09, 0x0A, 0x10, 0x11].contains (FHdr.op w.hdr)

/-- Two operations write a common byte of stacked memory (R193). -/
def FabWait.meets (v w : FabWait) : Bool :=
  v.writes && w.writes && v.packages.any w.packages.contains &&
  decide (FHdr.addr v.hdr < FHdr.addr w.hdr + FHdr.len w.hdr) && decide (FHdr.addr w.hdr < FHdr.addr v.hdr + FHdr.len v.hdr)

/-- An operation may be outstanding beside those that are open (R193). -/
def State.clear (s : State) (w : FabWait) : Bool := !s.fabric.ops.any (fun o => w.meets o.toFabWait)

/-- The first waiting operation of each context, in waiting order. -/
def State.heads (s : State) : List FabWait → List (Nat × Nat) → List FabWait
  | [], _ => []
  | w :: ws, seen =>
    let f := s.flowOf w.serve
    if seen.contains f then s.heads ws seen else w :: s.heads ws (f :: seen)

/-- The waiting operations that a port may send next, one for each context. -/
def State.ready (s : State) (port : Bool) : List FabWait :=
  (s.heads (s.fabric.waitQ.filter (fun w => portFor s.fabUp w.dst == some port)) []).filter s.clear

/-- Requests ready for a port: those of `more`, operations that are to be sent again, and the waiting ones of other contexts. -/
def State.readyWith (s : State) (port : Bool) (more : List FabWait) : List FabWait :=
  let xs := s.heads more []
  xs ++ (s.ready port).filter (fun w => !(xs.map (fun x => s.flowOf x.serve)).contains (s.flowOf w.serve))

/-- The engines toward which an operation's requests go: one, or every member of its multicast group and the group itself, which
stands under this engine's own number. -/
def FabWait.toward (w : FabWait) : List Nat := if FHdr.op w.hdr = 0x03 then w.dst :: w.members else [w.dst]

/-- The counts of a port's active flows, one for each context that holds a request ready (R209, R210), are re-evaluated every
1,024 FAB cycles. -/
def State.countFlows (s : State) (port : Bool) (more : List FabWait) : State :=
  let a := s.arb port
  let due := match a.at_ with
    | none => true
    | some t => decide (t + flowPeriod ≤ s.core)
  if due then
    let ws := s.readyWith port more
    s.setArb port { a with
      groups := tally (ws.map (fun w => (s.flowOf w.serve).1)), dsts := tally (ws.flatMap FabWait.toward), at_ := some s.core }
  else s

/-- The smallest of a list that meets a test. -/
def leastOf (p : Nat → Bool) : List Nat → Option Nat
  | [] => none
  | a :: l =>
    match leastOf p l with
    | none => if p a then some a else none
    | some b => if p a && decide (a < b) then some a else some b

/-- The next of a list after a number, wrapping. -/
def nextAfter (l : List Nat) (n : Nat) : Option Nat := (leastOf (fun x => decide (n < x)) l).or (leastOf (fun _ => true) l)

/-- The request that a group would send: round-robin over its contexts, after the one served last. -/
def State.groupHead (s : State) (port : Bool) (rs : List FabWait) (g : Nat) : Option FabWait :=
  let mine := rs.filter (fun w => (s.flowOf w.serve).1 == g)
  let last := Tabs.get zeroNat (s.arb port).last g
  let c := match leastOf (fun x => decide (last ≤ x)) (mine.map (fun w => (s.flowOf w.serve).2)) with
    | some c => some c
    | none => leastOf (fun _ => true) (mine.map (fun w => (s.flowOf w.serve).2))
  match c with
  | some c => mine.find? (fun w => (s.flowOf w.serve).2 == c)
  | none => none

/-- Deficit round-robin: the present group sends while its deficit covers its next request; else the next group that has one
takes its quantum. A group without a request keeps no deficit. The fuel covers the largest request at the smallest quantum. -/
def State.drr (s : State) (port : Bool) (rs : List FabWait) : Nat → Arb → Option (FabWait × Arb)
  | 0, _ => none
  | n + 1, a =>
    let d := Tabs.get zeroNat a.deficit a.cur
    let hop (a : Arb) : Option (FabWait × Arb) :=
      match nextAfter (rs.map (fun w => (s.flowOf w.serve).1)) a.cur with
      | none => none
      | some g => s.drr port rs n
          { a with cur := g, deficit := Tabs.set zeroNat a.deficit g (Tabs.get zeroNat a.deficit g + s.quantum port g) }
    match s.groupHead port rs a.cur with
    | none => hop { a with deficit := Tabs.set zeroNat a.deficit a.cur 0 }
    | some w =>
      if w.size ≤ d then
        some (w, { a with
          deficit := Tabs.set zeroNat a.deficit a.cur (d - w.size)
          last := Tabs.set zeroNat a.last a.cur ((s.flowOf w.serve).2 + 1) })
      else hop a

/-- The next request of a port, and its arbitration after it. -/
def State.pick (s : State) (port : Bool) : Option (FabWait × Arb) :=
  let rs := s.ready port
  s.drr port rs (1100 * (rs.length + 1)) (s.arb port)

/-! ### Attempts -/

/-- The fields that an operation keeps over its attempts: the request header with OP, TCLASS, LEN, EFMT, MGROUP, ADDR. -/
def reqFields (op tclass len efmt mgroup addr : Nat) : BitVec 256 :=
  packed 256 [(6, op), (67, 0), (4, tclass), (17, len), (16, 0), (4, efmt), (8, mgroup), (6, 0), (48, addr), (80, 0)]

/-- The header of an attempt (Table 8-2). SHARE counts the flows toward the request's own destination (R210). -/
def State.attemptHdr (s : State) (o : FabOp) (port : Bool) (op dst mgroup : Nat) : BitVec 256 :=
  packed 256 [(6, op), (1, b2n o.port), (10, o.tag), (2, o.gen), (4, o.attempt), (4, (s.fabric.ports.get port).epoch),
    (17, s.node), (17, dst), (12, s.share port dst), (4, FHdr.tclass o.hdr), (17, FHdr.len o.hdr), (16, s.ticks),
    (4, FHdr.efmt o.hdr), (8, mgroup), (6, 0), (48, FHdr.addr o.hdr), (16, o.origT), (64, 0)]

/-- An attempt leaves: attempt 0 and every other operation's as issued; a retried MSTORE as a STORE to each member that has
not replied (R205). -/
def State.emitAttempt (s : State) (o : FabOp) (port : Bool) : State :=
  if FHdr.op o.hdr = 0x03 && o.attempt != 0 then
    s.emits (o.members.map (fun m => .fab port (s.attemptHdr o port 0x02 m 0) o.body))
  else s.emit (.fab port (s.attemptHdr o port (FHdr.op o.hdr) o.dst (FHdr.mgroup o.hdr)) o.body)

/-- The lowest free tag of a port (R194). -/
def State.freeTag (s : State) (port : Bool) : Option Nat :=
  let used := (s.fabric.ops.filter (fun o => o.port == port)).map (·.tag)
  (List.range 1024).find? (fun t => !used.contains t)

/-- A port may take a tag now: not during the send hold, not while it holds all its tags, and not a tag that it took in this
tick (R194, R199). -/
def State.tagNow (s : State) (port : Bool) : Option Nat :=
  if s.fabric.hold then none
  else
    match s.freeTag port with
    | none => none
    | some tag =>
      if Tabs.get zeroNat (s.fabric.ports.get port).ticks tag = s.ticksFull + 1 then none else some tag

/-- An operation takes a tag of a port and sends attempt 0 (R194, R203). -/
def State.issueOn (s : State) (port : Bool) (tag : Nat) (w : FabWait) : State :=
  let p := s.fabric.ports.get port
  let gen := (Tabs.get zeroNat p.gens tag + 1) % 4
  let o : FabOp :=
    { toFabWait := w, port := port, tag := tag, gen := gen, origT := s.ticks, seq := p.nextSeq, attempt := 0,
      lastPort := port, epoch := p.epoch, firstAt := s.core, lastAt := s.core }
  let p := { p with
    gens := Tabs.set zeroNat p.gens tag gen
    ticks := Tabs.set zeroNat p.ticks tag (s.ticksFull + 1)
    nextSeq := (p.nextSeq + 1) % 2 ^ 64 }
  let unissued := match w.serve with
    | .home e => s.flue.unissued.filter (· != e)
    | _ => s.flue.unissued
  State.emitAttempt { s with flue := { s.flue with unissued := unissued }, fabric := { s.fabric with
    ports := s.fabric.ports.set port p, ops := s.fabric.ops ++ [o], waitQ := s.fabric.waitQ.erase w } } o port

/-- A port issues waiting operations as its arbitration picks them, as far as it can; the fuel is their number. -/
def State.pumpPort (port : Bool) : Nat → State → State
  | 0, s => s
  | n + 1, s =>
    match s.tagNow port, s.pick port with
    | some tag, some (w, a) => State.pumpPort port n ((s.setArb port a).issueOn port tag w)
    | _, _ => s

/-- Waiting operations are issued, as far as they can be. -/
def State.pumpFab (s : State) : State :=
  let run (s : State) (port : Bool) : State := State.pumpPort port s.fabric.waitQ.length (s.countFlows port [])
  if s.fabric.waitQ.isEmpty then s else run (run s false) true

/-- An operation is issued, or waits. -/
def State.request (s : State) (w : FabWait) : State :=
  State.pumpFab { s with fabric := { s.fabric with waitQ := s.fabric.waitQ ++ [w] } }

/-- An operation to one engine. -/
def State.requestTo (s : State) (dst op tclass len efmt addr : Nat) (body : FabBody) (serve : Serve) : State :=
  s.request { dst := dst, hdr := reqFields op tclass len efmt 0 addr, body := body, serve := serve, members := [] }

/-- The node IDs of a multicast group in this rack (R205). -/
def State.mcastNodes (s : State) (g : Nat) : List Nat :=
  let m := Tabs.get (fun _ => (0 : BitVec 256)) s.tables.mcast g
  ((List.range 256).filter (fun i => m.getLsbD i)).map (fun i => nodeRack s.node * 256 + i)

/-- An MSTORE to a group, which awaits the replies of all its members but this engine; one to group 0 is refused with code 0x53
(R205). -/
def State.mstore (s : State) (g tclass len addr : Nat) (body : FabBody) (serve : Serve) : State :=
  let members := (s.mcastNodes g).filter (· != s.node)
  if g = 0 then s.soot_ { code := 0x53, sev := 0, action := 0 }
  else if members.isEmpty then s
  else s.request { dst := s.node, hdr := reqFields 0x03 tclass len 0 g addr, body := body, serve := serve, members := members }

/-- An operation is no longer open; what waits may take its tag. -/
def State.closeOp (s : State) (o : FabOp) : State :=
  State.pumpFab { s with fabric := { s.fabric with
    ops := s.fabric.ops.filter (fun p => !(p.port == o.port && p.tag == o.tag)) } }

def State.updateOp (s : State) (o : FabOp) : State :=
  { s with fabric := { s.fabric with
    ops := s.fabric.ops.map (fun p => if p.port = o.port ∧ p.tag = o.tag then o else p) } }

/-- R195's limits: eight attempts after attempt 0, none later than 1.6 ms after it. -/
def FabOp.mayRetry (o : FabOp) (now : Nat) : Bool := decide (o.attempt < 8) && decide (now ≤ o.firstAt + 1920000)

/-- The next attempt of an operation leaves on a port (R195). -/
def State.nextAttempt (s : State) (o : FabOp) (port : Bool) : State :=
  let o := { o with attempt := o.attempt + 1, lastPort := port, epoch := (s.fabric.ports.get port).epoch, lastAt := s.core }
  let s := s.count Obj.RZ_FAB_RETRY 1
  (s.updateOp o).emitAttempt o port

/-- The 32-byte reply (Table 8-3). -/
def replyHdr (src : Nat) (req : BitVec 256) (status : Nat) (cached : Bool) (len : Nat) (data : BitVec 64) : BitVec 256 :=
  packed 256 [(6, 0x20), (1, b2n (FHdr.port req)), (10, FHdr.tag req), (2, FHdr.gen req), (4, FHdr.attempt req),
    (4, FHdr.epoch req), (17, src), (17, FHdr.srcNode req), (4, status), (1, b2n cached), (17, len), (29, 0),
    (16, FHdr.origT req), (64, data.toNat), (64, 0)]

/-- A reply leaves for the requester (R189). -/
def State.reply (s : State) (req : BitVec 256) (status : Nat) (cached : Bool) (bytes : List Byte) (data : BitVec 64) : State :=
  match portFor s.fabUp (FHdr.srcNode req) with
  | some port => s.emit (.fab port (replyHdr s.node req status cached bytes.length data) (.bytes bytes))
  | none => s

/-- A STORE's ADDR of a message, which the manual does not give: a free value, a multiple of 4 in the package's memory (R190).
-/
def State.freeAddr (s : State) : Nat × State :=
  let (a, s) := s.takeFree
  (4 * (a.toNat % 191999930000), s)

/-- A STORE's LEN of a message whose layout the manual does not give: a free value that R190 allows. -/
def State.freeLen (s : State) : Nat × State :=
  let (a, s) := s.takeFree
  (4 * (1 + a.toNat % 2048), s)

/-- A message to one engine: over the peer path, by STOREs within the rack, or as one gateway message (R18, R243, R357). One
that is longer than a request may be goes in parts (R190). -/
def State.sendLen (s : State) (dst tclass : Nat) (m : EngMsg) (serve : Serve) (len : Option Nat) : State :=
  match s.route dst with
  | .own => s
  | .peer => s.toPeer m
  | .rack =>
    let (a, s) := s.freeAddr
    let (l, s) := match len with
      | some n => (n, s)
      | none => s.freeLen
    if l ≤ 8192 then s.requestTo dst 0x02 tclass l 0 a (.msg m) serve
    else
      let n := (l + 8191) / 8192
      (List.range n).foldl (fun s i =>
        s.requestTo dst 0x02 tclass (min 8192 (l - 8192 * i)) 0 (a + 8192 * i) (.part m i n) serve) s
  | .far => s.toGate (nodeRack dst) m

/-- A message whose length the manual does not give. -/
def State.sendMsg (s : State) (dst tclass : Nat) (m : EngMsg) (serve : Serve) : State := s.sendLen dst tclass m serve none

/-- A message to several engines. -/
def State.sendAll (s : State) (dsts : List Nat) (tclass : Nat) (m : EngMsg) (serve : Serve) : State :=
  dsts.foldl (fun s d => s.sendMsg d tclass m serve) s

/-! ### Fences (R203, R204) -/

/-- An operation is in a fence's set: to one of its destinations, at or below its numbers. -/
def Fence.has (f : Fence) (o : FabOp) : Bool :=
  (f.dests.contains o.dst || o.members.any f.dests.contains) && decide (o.seq < (if o.port then f.seq1 else f.seq0))

/-- No operation and no bulk of a fence's set is open. -/
def State.fenceDone (s : State) (f : Fence) : Bool :=
  !s.fabric.ops.any f.has && !f.bulks.any (fun x => s.bellows.bulks.any (fun b => b.rack == x.1 && b.seq == x.2))

/-- A fence over destinations takes the current sequence numbers, and over racks the bulks sent to them and not yet
acknowledged. -/
def State.fenceOver (s : State) (key : Key) (dests racks : List Nat) (half : Bool) : Fence :=
  { key := key, dests := dests, seq0 := s.fabric.ports.b0.nextSeq, seq1 := s.fabric.ports.b1.nextSeq
    bulks := (s.bellows.bulks.filter (fun b => racks.contains b.rack)).map (fun b => (b.rack, b.seq)), failed := false
    half := half }

/-! ### LOADs of other packages' rows (R16, R139) -/

/-- A LOAD of a range of a package's memory, in requests of at most 8,192 B (R190). -/
def State.loadRange (s : State) (use : FetchUse) (id node addr len : Nat) : State :=
  (List.range ((len + 8191) / 8192)).foldl (fun s i =>
    s.requestTo node 0x01 5 (min 8192 (len - 8192 * i)) 0 (addr + 8192 * i) (.bytes []) (.load use id)) s

/-- LOADs leave for what a use needs of other packages, once: (node, address, length). -/
def State.fetch (s : State) (use : FetchUse) (ranges : List (Nat × Nat × Nat)) : State :=
  if ranges.isEmpty || s.fabric.fetches.any (fun f => decide (f.use = use)) then s
  else
    let n := (ranges.map (fun r => (r.2.2 + 8191) / 8192)).sum
    let id := s.fabric.fetchId
    ranges.foldl (fun s r => s.loadRange use id r.1 r.2.1 r.2.2)
      { s with fabric := { s.fabric with
        fetches := s.fabric.fetches ++ [{ id := id, use := use, left := n, got := [] }], fetchId := id + 1 } }

/-- A use has all the bytes it asked for. -/
def State.fetched (s : State) (use : FetchUse) : Bool := s.fabric.fetches.all (fun f => decide (f.use ≠ use) || f.left == 0)

/-- The bytes that have come for a use. -/
def State.fetchedBytes (s : State) (use : FetchUse) : List ((Nat × Nat) × Byte) :=
  match s.fabric.fetches.find? (fun f => decide (f.use = use)) with
  | some f => f.got
  | none => []

/-- The bytes of some uses are no longer needed, and no LOAD for them is sent any more. -/
def State.dropFetches (s : State) (p : FetchUse → Bool) : State :=
  let of (x : Serve) : Bool := match x with | .load u _ => p u | _ => false
  { s with fabric := { s.fabric with
      fetches := s.fabric.fetches.filter (fun f => !p f.use)
      waitQ := s.fabric.waitQ.filter (fun w => !of w.serve)
      resend := s.fabric.resend.filter (fun w => !of w.2.serve) } }

def State.dropFetch (s : State) (use : FetchUse) : State := s.dropFetches (fun u => decide (u = use))

/-- A LOAD's bytes have come. -/
def State.takeLoad (s : State) (id dst addr : Nat) (bs : List Byte) : State :=
  let new := bs.zipIdx.map (fun b => ((dst / 2 * 2, addr + b.2), b.1))
  { s with fabric := { s.fabric with
      fetches := s.fabric.fetches.map (fun f =>
        if f.id = id then { f with left := f.left - 1, got := f.got ++ new } else f) } }

end Sys2Proof.Machine
end

