-- ==== Sys2Proof/Machine/Layout.lean ====
section
/-!
DEFINITION. Tensors, blocks and rows in memory (R139 to R142), element formats and their conversion (R145 to R149): where a
row's bytes lie, what values they hold, and how values become bytes.
-/

namespace Sys2Proof.Machine

/-! ### Tensor records and owner entries -/

abbrev TRec := BitVec 128

namespace TRec
/-- Tensor record (Table 6-1). -/
def valid (t : TRec) : Bool := bit t 127
def fmt (t : TRec) : Nat := fld t 126 123
def rowUnits (t : TRec) : Nat := fld t 122 115
def firstBlock (t : TRec) : Nat := fld t 114 101
def nblk (t : TRec) : Nat := fld t 100 86
def tokens (t : TRec) : Nat := fld t 85 59
def scaleOff (t : TRec) : Nat := fld t 58 35
def planeOff (t : TRec) : Nat := fld t 34 11
def reservedOk (t : TRec) : Bool := fld t 10 0 == 0
/-- Channels of an element row. -/
def dim (t : TRec) : Nat := 128 * rowUnits t
end TRec

abbrev OEnt := BitVec 128

namespace OEnt
/-- Owner-table entry (Table 6-2). -/
def valid (o : OEnt) : Bool := bit o 127
def owner (o : OEnt) : Nat := fld o 126 110
def layout (o : OEnt) : Nat := fld o 109 102
def order (o : OEnt) : Bool := bit o 109
def phLog (o : OEnt) : Nat := fld o 108 105
def kind (o : OEnt) : Nat := fld o 104 102
def handle (o : OEnt) : Nat := fld o 95 88
def base (o : OEnt) : Nat := 256 * fld o 87 56
def reservedOk (o : OEnt) : Bool := fld o 101 96 == 0 && fld o 55 0 == 0
end OEnt

def zero128 : Nat → BitVec 128 := fun _ => 0

def State.tensor (s : State) (h : Nat) : TRec := Tabs.get zero128 s.tables.tensor h

def State.ownerEnt (s : State) (i : Nat) : OEnt := Tabs.get zero128 s.tables.owner i

/-- The end of a package's stacked memory (Table 8-4, R143). -/
def memEnd : Nat := 768000000000

/-! ### Element formats (Table 6-3) -/

def fmtOk (f : Nat) : Bool := f == 0 || f == 1 || f == 2 || f == 3 || f == 5 || f == 7 || f == 9

def isMx (f : Nat) : Bool := f == 3 || f == 5 || f == 7

/-- The element type of a format under the MX element objects (R140). -/
def State.elemFmt (s : State) (f : Nat) : Fmt :=
  match f with
  | 0 => Fmt.bf16
  | 1 => Fmt.fp16
  | 3 => if s.obj Obj.RZ_MX8_ELEM = 1 then Fmt.e5m2 else Fmt.e4m3
  | 5 => if s.obj Obj.RZ_MX6_ELEM = 1 then Fmt.e3m2 else Fmt.e2m3
  | 7 => Fmt.e2m1
  | _ => Fmt.fp32

/-- emax of an MX element type (Table 6-3). -/
def State.emaxOf (s : State) (f : Nat) : Int :=
  match f with
  | 3 => if s.obj Obj.RZ_MX8_ELEM = 1 then 15 else 8
  | 5 => if s.obj Obj.RZ_MX6_ELEM = 1 then 4 else 2
  | _ => 2

/-- FMT of DISP_FMT (R148), and of RET_FMT and OUT_FMT. -/
def dispFmtCode (f : Nat) : Nat := match f with | 0 => 3 | 1 => 5 | 2 => 7 | _ => 0

/-- The arrays of a block: base offset in bytes, bytes for 256 channels (Table 6-4). -/
def arraysOf (t : TRec) : List (Nat × Nat) :=
  let scale := (256 * TRec.scaleOff t, 8)
  match TRec.fmt t with
  | 2 => [(0, 1024)]
  | 3 => [(0, 256), scale]
  | 5 => [(0, 128), (256 * TRec.planeOff t, 64), scale]
  | 7 => [(0, 128), scale]
  | _ => [(0, 512)]

/-- Bytes of a row in an array. -/
def rowBytes (d rb : Nat) : Nat := rb * d / 256

def nctOf (d : Nat) : Nat := ceilDiv d 256

/-! ### Where a row lies (R141) -/

/-- Index of the tile that holds channel tile ct of tile row tr. -/
def tileIndex (o : OEnt) (nct tr ct : Nat) : Nat :=
  let ph := 2 ^ OEnt.phLog o
  let pn := tr / ph
  let pr := tr % ph
  pn * ph * nct + (if OEnt.order o then ct * ph + pr else pr * nct + ct)

/-- The pieces (offset, length) of row `off` of a block in one array, in channel order. -/
def arrayPieces (o : OEnt) (d rb off : Nat) : List (Nat × Nat) :=
  if OEnt.kind o = 1 then [(off * rowBytes d rb, rowBytes d rb)]
  else (List.range (nctOf d)).map (fun ct =>
    ((tileIndex o (nctOf d) (off / 16) ct * 16 + off % 16) * rb, rb * min 256 (d - 256 * ct) / 256))

/-- Bytes that an array of a block occupies. -/
def arrayBytes (o : OEnt) (d rb : Nat) : Nat :=
  if OEnt.kind o = 1 then 4096 * rowBytes d rb else 4096 * nctOf d * rb

/-- A piece of memory: the owning engine, the byte address, the length. -/
structure Piece where
  node : Nat
  addr : Nat
  len : Nat
deriving DecidableEq, Repr

/-- Row t of a tensor: for each of its arrays, its pieces in channel order. -/
def State.rowPieces (s : State) (h t : Nat) : List (List Piece) :=
  let r := s.tensor h
  let o := s.ownerEnt (TRec.firstBlock r + t / 4096)
  let place (base : Nat) (p : Nat × Nat) : Piece := { node := OEnt.owner o, addr := OEnt.base o + base + p.1, len := p.2 }
  if TRec.fmt r = 9 then [[place 0 (t % 4096 * (32 * TRec.rowUnits r), 32 * TRec.rowUnits r)]]
  else (arraysOf r).map (fun a => (arrayPieces o (TRec.dim r) a.2 (t % 4096)).map (place a.1))

/-- The extents (node, start, end) of a block's arrays. -/
def State.blockExtents (s : State) (i : Nat) : List (Nat × Nat × Nat) :=
  let o := s.ownerEnt i
  let r := s.tensor (OEnt.handle o)
  let b := OEnt.base o
  if TRec.fmt r = 9 then [(OEnt.owner o, b, b + 4096 * (32 * TRec.rowUnits r))]
  else (arraysOf r).map (fun a => (OEnt.owner o, b + a.1, b + a.1 + arrayBytes o (TRec.dim r) a.2))

/-- Two node IDs name the same package (R139). -/
def samePackage (a b : Nat) : Bool := a / 2 == b / 2

/-- Two extents on one package share a byte. -/
def extentsMeet (a b : Nat × Nat × Nat) : Bool :=
  samePackage a.1 b.1 && decide (a.2.1 < b.2.2) && decide (b.2.1 < a.2.2)

/-! ### Reading -/

/-- Bytes that LOADs brought of other packages' memory, by package and address. -/
abbrev Remote := List ((Nat × Nat) × Byte)

/-- What rows of a tensor need of other packages, as LOADs fetch it: (node, address, length) (R139). -/
def State.farRanges (s : State) (h : Nat) (rows : List Nat) : List (Nat × Nat × Nat) :=
  ((rows.flatMap (fun t => (s.rowPieces h t).flatten)).filter (fun p => !samePackage p.node s.node)).map
    (fun p => (p.node, p.addr, p.len))

/-- Bytes of a package's stacked memory: this package's, or those that LOADs brought back. -/
def State.readAt (s : State) (rem : Remote) (p : Piece) : List Byte :=
  if samePackage p.node s.node then s.readMem p.addr p.len
  else (List.range p.len).map (fun i =>
    (rem.lookup (p.node / 2 * 2, p.addr + i)).getD (Config.freeByte (p.node * 2 ^ 48 + p.addr + i)))

/-- A row's bytes, for each of its arrays. -/
def State.readRow (s : State) (rem : Remote) (h t : Nat) : List (List Byte) :=
  (s.rowPieces h t).map (fun ps => ps.flatMap (s.readAt rem))

/-! ### Decoding (R146, R147) -/

/-- Element values of consecutive little-endian codes of n bytes. -/
def elemsOf (f : Fmt) (n : Nat) : Nat → List Byte → List F32
  | 0, _ => []
  | k + 1, bs => F32.ofFmt f (leNat (bs.take n)) :: elemsOf f n k (bs.drop n)

/-- The code of element c of an MX row from its arrays (Table 6-4, R147). -/
def mxCode (fmt c : Nat) (arrs : List (List Byte)) : Nat :=
  let at_ (a i : Nat) : Nat := ((arrs.getD a []).getD i 0).toNat
  let nib := at_ 0 (c / 2) / 16 ^ (c % 2) % 16
  match fmt with
  | 3 => at_ 0 c
  | 5 => nib + 16 * (at_ 1 (c / 4) / 4 ^ (c % 4) % 4)
  | _ => nib

/-- An MX element's value and whether it saturated (R146). -/
def mxValue (f : Fmt) (code scale : Nat) : F32 × Bool :=
  if scale = 255 then (f32Nan, false)
  else
    match f.decode code with
    | .fin neg m e =>
      let r := Fmt.fp32.encodeS .largest (Val.ldexp (.fin neg m e) ((scale : Int) - 127)) false
      (BitVec.ofNat 32 r.1, r.2)
    | v => (F32.ofVal v, false)

/-- A row's values, and how many saturated in decoding (R146). -/
def State.decodeRow (s : State) (fmt d : Nat) (arrs : List (List Byte)) : List F32 × Nat :=
  let f := s.elemFmt fmt
  if isMx fmt then
    let scales := arrs.getLastD []
    let vs := (List.range d).map (fun c => mxValue f (mxCode fmt c arrs) ((scales.getD (c / 32) 0).toNat))
    (vs.map (·.1), vs.countP (·.2))
  else (elemsOf f (if fmt = 2 then 4 else 2) d (arrs.headD []), 0)

/-! ### Encoding (R145, R149) -/

/-- What encoding a row counts: RZ_LAYOUT_SAT, RZ_MX_SAT, RZ_MX_NANBLK. -/
structure EncCounts where
  sat : Nat
  mxSat : Nat
  nanBlk : Nat
deriving DecidableEq, Repr

/-- The exponent of the largest magnitude of finite values: floor(log2), or none for all zeros. -/
def blockLog (v : List F32) : Option Int :=
  v.foldl (fun acc x =>
    match F32.val x with
    | .fin _ m e => if m = 0 then acc else
        let l := (Nat.log2 m : Int) + e
        match acc with
        | some a => some (max a l)
        | none => some l
    | _ => acc) none

/-- mx_block of R145: the scale byte, the codes, how many elements saturated, whether the block is non-finite. -/
def mxBlock (f : Fmt) (emax : Int) (v : List F32) : Nat × List Nat × Nat × Bool :=
  if v.any (fun x => !F32.isFinite x) then (255, v.map (fun _ => 0), 0, true)
  else
    let x : Int := match blockLog v with | none => -127 | some l => max (-127) (min 127 (l - emax))
    let cs := v.map (fun y => f.encodeS .largest (Val.ldexp (F32.val y) (-x)) false)
    ((x + 127).toNat, cs.map (·.1), cs.countP (·.2), false)

/-- The blocks of 32 channels of a row. -/
def blocks32 : Nat → List F32 → List (List F32)
  | 0, _ => []
  | n + 1, v => v.take 32 :: blocks32 n (v.drop 32)

/-- Codes packed k to a byte, each of 8 / k bits, the lowest channel in the lowest bits. -/
def packCodes (k : Nat) : Nat → List Nat → List Byte
  | 0, _ => []
  | n + 1, cs => BitVec.ofNat 8 ((cs.take k).foldr (fun c acc => c % 2 ^ (8 / k) + 2 ^ (8 / k) * acc) 0) :: packCodes k n (cs.drop k)

/-- Encoding into BF16, FP16 or FP32 (R149): bytes, saturations. -/
def encodeElems (f : Fmt) (n : Nat) (v : List F32) : List Byte × Nat :=
  let cs := v.map (F32.toFmtSat f)
  (cs.flatMap (fun c => leBytes n c.1), cs.countP (·.2))

/-- A row's values in a format: the bytes of each array, in Table 6-4's order, and what is counted. -/
def State.encodeRow (s : State) (fmt : Nat) (v : List F32) : List (List Byte) × EncCounts :=
  let f := s.elemFmt fmt
  let d := v.length
  if isMx fmt then
    let bs := (blocks32 (d / 32) v).map (mxBlock f (s.emaxOf fmt))
    let codes := bs.flatMap (fun b => b.2.1)
    let scales : List Byte := bs.map (fun b => BitVec.ofNat 8 b.1)
    let values := match fmt with
      | 3 => [packCodes 1 d codes]
      | 5 => [packCodes 2 (d / 2) (codes.map (· % 16)), packCodes 4 (d / 4) (codes.map (· / 16))]
      | _ => [packCodes 2 (d / 2) codes]
    (values ++ [scales], { sat := 0, mxSat := (bs.map (fun b => b.2.2.1)).sum, nanBlk := bs.countP (fun b => b.2.2.2) })
  else
    let r := encodeElems f (if fmt = 2 then 4 else 2) v
    ([r.1], { sat := r.2, mxSat := 0, nanBlk := 0 })

def State.countEnc (s : State) (c : EncCounts) : State :=
  ((s.count Obj.RZ_LAYOUT_SAT c.sat).count Obj.RZ_MX_SAT c.mxSat).count Obj.RZ_MX_NANBLK c.nanBlk

/-- Cells of 64 B of a packed row (R148) and of a return (Table 9-6). -/
def dispCells (fmt d : Nat) : Nat :=
  ceilDiv (match fmt with
    | 0 => d + d / 32
    | 1 => d / 2 + d / 4 + d / 32
    | 2 => d / 2 + d / 32
    | _ => 2 * d) 64

def retCells (fmt d : Nat) : Nat := (if fmt = 2 then 4 * d else 2 * d) / 64

/-! ### Writing -/

/-- A row's arrays cut along its pieces. -/
def cutPieces : List Piece → List Byte → List (Piece × List Byte)
  | [], _ => []
  | p :: ps, bs => (p, bs.take p.len) :: cutPieces ps (bs.drop p.len)

/-- The writes that put bytes (one list for each array) into row t of a tensor. -/
def State.rowWrites (s : State) (h t : Nat) (arrs : List (List Byte)) : List (Piece × List Byte) :=
  ((s.rowPieces h t).zip arrs).flatMap (fun pa => cutPieces pa.1 pa.2)

/-- Writes to this package's memory are made over the NOC; the others are left for the fabric (R139). -/
def State.writeOwn (s : State) (ws : List (Piece × List Byte)) : State :=
  ws.foldl (fun s w => if samePackage w.1.node s.node then s.writeMem w.1.addr w.2 else s) s

def State.foreignWrites (s : State) (ws : List (Piece × List Byte)) : List (Piece × List Byte) :=
  ws.filter (fun w => !samePackage w.1.node s.node)

/-- A piece cut into requests of at most 8,192 B (R190). -/
def cutRequests : Nat → Piece × List Byte → List (Piece × List Byte)
  | 0, w => [w]
  | n + 1, w =>
    if w.2.length ≤ 8192 then [w]
    else ({ w.1 with len := 8192 }, w.2.take 8192) ::
      cutRequests n ({ w.1 with addr := w.1.addr + 8192, len := w.1.len - 8192 }, w.2.drop 8192)

end Sys2Proof.Machine
end

