-- ==== Sys2Proof/Machine/Flue.lean ====
section
/-!
DEFINITION. The ember ledger (R215 to R218), the flue's contexts and staging (R223, R224), and the writes of a token's home
row (R226, R227, R236).
-/

namespace Sys2Proof.Machine

/-! ### Entries and positions -/

def zero512 : Nat → BitVec 512 := fun _ => 0

/-- Ledger entries of a bank (R20). -/
def bankEntries : Nat := 262144

/-- An entry's bank (R20). -/
def entryBank (e : Nat) : Bool := decide (bankEntries ≤ e)

/-- Entry number of local index i in a bank (R20). -/
def entryOf (b : Bool) (i : Nat) : Nat := b2n b * bankEntries + i

def State.entry (s : State) (e : Nat) : LEntry := Tabs.get zero512 s.flue.ledger e

def State.setEntry (s : State) (e : Nat) (l : LEntry) : State :=
  { s with flue := { s.flue with ledger := Tabs.set zero512 s.flue.ledger e l } }

/-- Where an entry's slot extension record lies (R216). -/
def State.extAddr (s : State) (e : Nat) : Nat := s.obj Obj.RZ_LEDGER_EXT + 64 * e

/-- Position p of an entry: the routed slots, then the shared positions (R215, R216). -/
def State.pos (s : State) (k e p : Nat) : Position :=
  if p < k then
    if p < 8 then Position.ofField (fld (s.entry e) (slotLow p + 46) (slotLow p))
    else
      let x : BitVec 512 := ofBytes 512 (s.readMem (s.extAddr e) 64)
      Position.ofField (fld x (slotLow p + 46) (slotLow p))
  else
    let f := fld (s.entry e) (sharedLow (p - k) + 14) (sharedLow (p - k))
    { inst := 0, weight := 0, rstate := bits f 14 12, ctx := bits f 11 0 }

/-- The entry with position p set. -/
def State.setPos (s : State) (k e p : Nat) (v : Position) : State :=
  if p < k then
    if p < 8 then s.setEntry e (setFld (s.entry e) (slotLow p + 46) (slotLow p) v.pack)
    else
      let x : BitVec 512 := ofBytes 512 (s.readMem (s.extAddr e) 64)
      s.writeMem (s.extAddr e) (toBytes (setFld x (slotLow p + 46) (slotLow p) v.pack))
  else
    let f := pack [(3, v.rstate), (12, v.ctx)]
    s.setEntry e (setFld (s.entry e) (sharedLow (p - k) + 14) (sharedLow (p - k)) f)

/-- A position's state changes; its context is 0 unless it becomes 4 (Table 9-2). -/
def State.setRstate (s : State) (k e p rs ctx : Nat) : State :=
  s.setPos k e p { s.pos k e p with rstate := rs, ctx := ctx }

/-- The positions of an entry of a step, in order. -/
def State.positionsOf (s : State) (t : Step) (e : Nat) : List Position :=
  (List.range (Desc.positions t.desc)).map (s.pos (Desc.k t.desc) e)

/-- A position is settled (R218). -/
def settled (p : Position) : Bool := decide (4 ≤ p.rstate) && decide (p.rstate ≤ 6)

/-- Entries of a bank that are not FREE. -/
def State.bankInUse (s : State) (b : Bool) : Bool :=
  s.flue.ledger.any (fun p => entryBank p.1 == b && LEntry.state p.2 != 0)

/-- Retirement: the entry is FREE (R20, Table 9-4). Its other fields stay, for the walk to read (R123). A gather of its row
that has not come back is of no further use: the packed row is kept until the entry retires (R164). -/
def State.freeEntry (s : State) (e : Nat) : State :=
  let s := { s with bellows := { s.bellows with gathers := s.bellows.gathers.filter (· != e) } }
  (s.dropFetch (.gather e)).setEntry e (LEntry.setState (s.entry e) 0)

/-- Every CANCELLED entry of a bank retires (R234). An entry that a sweep leaves all 0 may stay listed: it reads as an unlisted
one does. -/
def State.sweepBank (s : State) (b : Bool) : State :=
  { s with flue := { s.flue with ledger := s.flue.ledger.map (fun p =>
      if entryBank p.1 == b && LEntry.state p.2 == 7 then (p.1, LEntry.setState p.2 0) else p) } }

/-- Every entry of a bank becomes CANCELLED (R232). -/
def State.cancelEntries (s : State) (b : Bool) : State :=
  { s with flue := { s.flue with ledger := s.flue.ledger.map (fun p =>
      if entryBank p.1 == b && LEntry.state p.2 != 0 then (p.1, LEntry.setState p.2 7) else p) } }

/-! ### Contexts, stash, staging -/

/-- The lowest free flue context (R221, R223). -/
def State.freeFlueCtx (s : State) : Option Nat :=
  let used := s.flue.ctxs.map (·.num)
  (List.range 4096).find? (fun n => !used.contains n)

def State.addFlueCtx (s : State) (n : Nat) (u : FlueUse) : State :=
  { s with flue := { s.flue with ctxs := s.flue.ctxs ++ [{ num := n, use := u }] } }

def State.dropFlueCtx (s : State) (n : Nat) : State :=
  { s with flue := { s.flue with ctxs := s.flue.ctxs.filter (fun c => c.num != n) } }

def State.setFlueCtx (s : State) (n : Nat) (u : FlueUse) : State :=
  { s with flue := { s.flue with ctxs := s.flue.ctxs.map (fun c => if c.num = n then { c with use := u } else c) } }

/-- A context is free, where it still holds what a key's operation took it for; another key's is untouched (R233). -/
def State.dropFlueKey (s : State) (n : Nat) (holds : FlueUse → Bool) : State :=
  { s with flue := { s.flue with ctxs := s.flue.ctxs.filter (fun c => !(c.num == n && holds c.use)) } }

def State.flueUse (s : State) (n : Nat) : Option FlueUse := (s.flue.ctxs.find? (fun c => c.num == n)).map (·.use)

/-- The row context of position p of an entry, stash or direct. -/
def State.rowCtx (s : State) (e p : Nat) : Option (Nat × List Byte) :=
  s.flue.ctxs.findSome? (fun c =>
    match c.use with
    | .row e' p' _ d => if e' = e ∧ p' = p then some (c.num, d) else none
    | _ => none)

/-- Row contexts of an entry are freed. -/
def State.dropRows (s : State) (keep : Nat → Bool) : State :=
  { s with flue := { s.flue with ctxs := s.flue.ctxs.filter (fun c => match c.use with
      | .row e _ _ _ => keep e
      | _ => true) } }

/-- The staging address of position p of entry n (R224). -/
def State.stageAddr (s : State) (n p : Nat) : Nat :=
  s.obj Obj.RZ_STAGE_BASE + (n * s.obj Obj.RZ_STAGE_POS + p) * s.obj Obj.RZ_STAGE_ROW

/-! ### Home rows -/

/-- The step that holds a bank and is not retired. -/
def State.bankStep (s : State) (b : Bool) : Option Step :=
  match s.steps.get b with
  | some t => if Step.live t then some t else none
  | none => none

/-- The live, uncancelled step of a key. -/
def State.keyStep (s : State) (k : Key) : Option (Bool × Step) :=
  match s.bankOf k with
  | none => none
  | some b =>
    match s.bankStep b with
    | some t => if t.cancelled then none else some (b, t)
    | none => none

/-- h of a step, and this engine's share: the first package-step index and how many (R19). -/
def State.shareOf (s : State) (d : Desc) : Nat × Nat :=
  if s.primary then (0, Desc.h d) else (Desc.h d, Desc.n d - Desc.h d)

/-- The tensor index of the token of an entry in OUT_TENSOR (R215). -/
def State.tokenRow (s : State) (d : Desc) (e : Nat) : Nat :=
  (LEntry.homeBlock (s.entry e) - TRec.firstBlock (s.tensor (Desc.outTensor d))) * 4096 + LEntry.homeOff (s.entry e)

/-- A step writes in stripe order (R236). -/
def State.stripes (s : State) (d : Desc) : Bool :=
  s.flag Obj.RZ_STRIPE_EN && Desc.outTensor d == s.obj Obj.RZ_STRIPE_TENSOR

/-- Stripe rows of a token whose coordinates are (f, r, c): the home stripe first (R236). -/
def stripeRows (sr hl ns w f r c : Nat) : List Nat :=
  let j := r / sr
  let row (j rho : Nat) : Nat := ((f * ns + j) * (sr + 2 * hl) + rho) * w + c
  let m := r % sr
  [row j (m + hl)] ++
  (if m < hl && 0 < j then [row (j - 1) (sr + hl + m)] else []) ++
  (if sr - hl ≤ m && j < ns - 1 then [row (j + 1) (m - (sr - hl))] else [])

/-- The tensor rows that a token's row is written to: its home, or its stripe rows. -/
def State.destRows (s : State) (d : Desc) (t : Nat) : List Nat :=
  if s.stripes d then
    let h := s.bankHdr (Desc.routerBank d)
    let sr := s.obj Obj.RZ_STRIPE_ROWS
    let (f, r, c) := coordsOf h t
    stripeRows sr (s.obj Obj.RZ_STRIPE_HALO) (BankHdr.geomH h / sr) (BankHdr.geomW h) f r c
  else [t]

/-- STOREs of TCLASS 1 that carry a row to another package (R226). -/
def State.storePieces (s : State) (ws : List (Piece × List Byte)) (tclass : Nat) (serve : Serve) : State :=
  (ws.flatMap (cutRequests 8)).foldl (fun s w =>
    s.requestTo w.1.node 0x02 tclass w.2.length 0 w.1.addr (.bytes w.2) serve) s

/-- A row's bytes leave for the token's home: written over the NOC here, or by STOREs. The number of NOC writes that await
their acknowledgement. -/
def State.writeHome (s : State) (d : Desc) (e : Nat) (bs : List Byte) : State × Nat :=
  let rows := s.destRows d (s.tokenRow d e)
  let ws := rows.flatMap (fun t => s.rowWrites (Desc.outTensor d) t [bs])
  let foreign := s.foreignWrites ws
  let s := if foreign.length = ws.length then { s with flue := { s.flue with unissued := s.flue.unissued ++ [e] } } else s
  ((s.writeOwn ws).storePieces foreign 1 (.home e), if foreign.isEmpty then rows.length else 0)

/-- OUT_FP takes a written row (R284); under arrival combine it stays 0. -/
def State.addOutFp (s : State) (b : Bool) (t : Nat) (bs : List Byte) : State :=
  s.onStep b (fun st =>
    if Desc.arrival st.desc then st
    else { st with outFp := st.outFp + BitVec.ofNat 64 (t * 2 ^ 32 + (crc32 bs).toNat) })

/-- Bytes of an OUT_FMT row. -/
def outBytes (d : Desc) : Nat := (if Desc.outFmt d = 2 then 4 else 2) * Desc.dim d

/-- The zero row of Table 9-7 is issued: counted, fingerprinted, written. NOC writes outstanding. -/
def State.writeZero (s : State) (b : Bool) (d : Desc) (e : Nat) : State × Nat :=
  let z := List.replicate (outBytes d) (0 : Byte)
  let t := s.tokenRow d e
  let s := (s.count Obj.RZ_ZERO_ROWS 1).addOutFp b t z
  s.writeHome d e z

end Sys2Proof.Machine
end

