-- ==== Sys2Proof/Machine/ObjRules.lean ====
section
/-!
DEFINITION. The write rules of scalar objects: the type's check of Table 12-2 and what R5, R65, R85, R111, R138, R162, R186,
R214, R242, R269, R291, R316, R329, R339, R362 and R374 refuse. A restored value is held to the same rules (R297).
-/

namespace Sys2Proof.Machine

def isPow2 (v : Nat) : Bool := v != 0 && 2 ^ Nat.log2 v == v

def inRange (lo hi v : Nat) : Bool := decide (lo ≤ v) && decide (v ≤ hi)

def multOf (m v : Nat) : Bool := v % m == 0

/-- An F32 object's bits, finite and not negative by value (R293: -0.0 is zero, neither negative nor positive). -/
def f32NonNeg (v : Nat) : Bool :=
  let x : F32 := BitVec.ofNat 32 v
  F32.isFinite x && (!F32.sign x || F32.isZero x)

/-- The signed value of an I32 object. -/
def i32 (v : Nat) : Int := if v < 2 ^ 31 then v else (v : Int) - 2 ^ 32

/-- The type's own check (Table 12-2). -/
def odTypeOk (ty : OdType) (key v : Nat) : Bool :=
  match ty with
  | .bool => decide (v ≤ 1)
  | .bits32 => if key = Obj.RZ_ALERT_ACK || key = Obj.RZ_ALERT_MASK then decide (v < 2 ^ 9) else true
  | _ => true

/-- Base addresses that R186, R214, R242, R269, R291, R316 and R362 hold to multiples of 4,096. -/
def odBases : List Nat :=
  [Obj.RZ_PACK_BASE, Obj.RZ_AGG_BASE, Obj.RZ_RCACHE_BASE, Obj.RZ_BULK_SEEN_BASE, Obj.RZ_LAND_BASE, Obj.RZ_STAGE_BASE,
   Obj.RZ_LEDGER_EXT, Obj.RZ_TAG_BASE, Obj.RZ_STATS_BASE, Obj.RZ_ROUTE_STORE_BASE, Obj.RZ_ROUTE_STORE_STAGE, Obj.RZ_ROUTE_MEM_BASE,
   Obj.RZ_ROUTE_STORE_CAP, Obj.RZ_BDIGEST_BASE, Obj.RZ_LOG_BASE, Obj.RZ_DOMAIN_STAGE, Obj.RZ_REWIND_BASE]

/-- Ranges that a value must lie in: key, lowest, highest. -/
def odRanges : List (Nat × Nat × Nat) :=
  [(Obj.RZ_PHASE_ROLE, 0, 2), (Obj.RZ_STATUS_RING_LEN, 1, 65535), (Obj.RZ_WEIGHT_FMT, 0, 1), (Obj.RZ_EARLY_HOLD, 0, 2048),
   (Obj.RZ_MX8_ELEM, 0, 1), (Obj.RZ_MX6_ELEM, 0, 1), (Obj.RZ_BURST, 1, 64), (Obj.RZ_SHARED_DIE0, 0, 7),
   (Obj.RZ_SHARED_DIE1, 0, 7), (Obj.RZ_SHARED_DIE2, 0, 7), (Obj.RZ_SHARED_DIE3, 0, 7), (Obj.RZ_AGG_SLOTS, 1, 512),
   (Obj.RZ_POOL_RESERVE, 2052, 65536), (Obj.RZ_RCACHE_ENTRIES, 65536, 16777216), (Obj.RZ_GATE_INFLIGHT, 1, 64),
   (Obj.RZ_LAND_SLOTS, 1, 512), (Obj.RZ_STAGE_POS, 1, 20), (Obj.RZ_STRIPE_ROWS, 2, 4096), (Obj.RZ_STRIPE_HALO, 0, 8),
   (Obj.RZ_COLL_TIMEOUT, 240000, 2 ^ 32 - 1), (Obj.RZ_LOG_RESERVE, 66048, 2 ^ 32 - 1),
   (Obj.RZ_RELEASE_LEAD, 60000, 2 ^ 32 - 1), (Obj.RZ_DOMAIN_TIMEOUT, 2000000, 2 ^ 32 - 1), (Obj.RZ_STOKE_LIMIT, 1, 250),
   (Obj.RZ_KINDLE_WAIT, 10000, 10000000), (Obj.RZ_SOOT_ALERT_SEV, 0, 4), (Obj.RZ_RERUN_LIMIT, 1, 15),
   (Obj.RZ_SCRUB_PERIOD, 100, 60000), (Obj.RZ_DBG_LIST_LEN, 1, 16)]

/-- The object's own rules on a value of its width; the state decides only for RZ_STOKE_EN (R329) and RZ_SOOT_TAIL
(R362). RZ_LJOB_RING takes any address, though its descriptors are of 64 B (log entry 36). -/
def odValueOk (s : State) (key v : Nat) : Bool :=
  match odRanges.lookup key with
  | some (lo, hi) => inRange lo hi v
  | none =>
    if odBases.contains key then multOf 4096 v
    else if key = Obj.RZ_GATE_SCALE then f32NonNeg v && !F32.isZero (BitVec.ofNat 32 v)
    else if key = Obj.RZ_NOISE_SCALE || key = Obj.RZ_HYST_MARGIN then f32NonNeg v
    else if key = Obj.RZ_SCORE_FN then v == 3 || inRange 11 15 v
    else if key = Obj.RZ_ASH_RING_LEN || key = Obj.RZ_LJOB_RING_LEN then isPow2 v
    else if key = Obj.RZ_STAGE_ROW then inRange 512 65536 v && multOf 64 v
    else if key = Obj.RZ_LOG_SEG then isPow2 v && inRange 65536 16777216 v
    else if key = Obj.RZ_FTIME_NEXT then multOf 1200000 v
    else if key = Obj.RZ_STOKE_EN then !(v == 1 && s.flag Obj.RZ_TIMING_REPEAT)
    else if key = Obj.RZ_THROTTLE_EXIT then decide (i32 v ≤ 1050)
    else if key = Obj.RZ_SOOT_TAIL then decide ((s.obj Obj.RZ_SOOT_HEAD + 2 ^ 32 - v) % 2 ^ 32 ≤ 1024)
    else if inRange Obj.RZ_DBG_SEL0 Obj.RZ_DBG_SEL15 key then decide (v < 4096)
    else true

/-- The value stored: -0.0 is stored as +0.0 where R111 and R269 say so. -/
def odStored (key v : Nat) : Nat :=
  if (key = Obj.RZ_NOISE_SCALE || key = Obj.RZ_HYST_MARGIN) && v == 2 ^ 31 then 0 else v

/-- Both checks, for a row of the table. -/
def odWriteOk (s : State) (r : OdRow) (v : Nat) : Bool := odTypeOk r.ty r.key v && odValueOk s r.key v

end Sys2Proof.Machine
end

