-- ==== Sys2Proof/Machine/Domains.lean ====
section
/-!
DEFINITION. What a read of an object returns: scalars whose value the state derives, and the bytes of domain objects
(R295, R300, R307, R377 and the object tables).
-/

namespace Sys2Proof.Machine

/-! ### Derived scalars -/

/-- Free cells of the hearth pool (R172). -/
def State.poolFree (s : State) : Nat := (s.pool.free.map (·.2)).sum

/-- Stash cells that the flue's contexts hold (R223). -/
def FlueUse.cells : FlueUse → Nat
  | .row _ _ direct data => if direct then 0 else ceilDiv data.length 64
  | .send p _ => ceilDiv p.payload.length 64
  | _ => 0

def State.stashFree (s : State) : Nat := 524288 - (s.flue.ctxs.map (fun c => c.use.cells)).sum

/-- Ledger entries that are not FREE (Table 9-8). -/
def State.ledgerLive (s : State) : Nat := s.flue.ledger.countP (fun p => LEntry.state p.2 != 0)

/-- Open operations whose tag belongs to a port (Table 8-5). -/
def State.fabOpen (s : State) (port : Bool) : Nat := s.fabric.ops.countP (fun o => o.port == port)

/-- A fabric port is up (R200): present, its clock not lost. -/
def State.portUp (s : State) (port : Bool) : Bool :=
  let p := s.fabric.ports.get port
  p.up && !p.lost

/-- RZ_CLK_STATE (Table 13-8). -/
def State.clkState (s : State) : Nat :=
  let stoke := match s.therm.stoke with | .on _ true _ => 1 | _ => 0
  stoke + 2 * b2n s.therm.throttled + 4 * b2n s.therm.cooldown + 8 * b2n s.therm.bankWait

/-- SYNC_OUT is driven (R365, Table 15-2): by the tray master, once it drives in KINDLING, and in READY and RUNNING. -/
def State.syncDriven (s : State) : Bool :=
  s.flag Obj.RZ_TRAY_MASTER &&
  match s.mode with
  | .kindling => s.kindle.driving
  | .ready => true
  | .running => true
  | _ => false

/-- The debug balls are driven (R365): under RZ_DBG_PIN_EN, in KINDLING from phase 5. -/
def State.dbgDriven (s : State) : Bool :=
  s.flag Obj.RZ_DBG_PIN_EN &&
  match s.mode with
  | .off => false
  | .kindling => decide (5 ≤ s.kindle.phase)
  | _ => true

/-- The level of TIMEPULSE_IN: low before the first edge, high for at least 1 µs after an edge (R371); then a free value, for no
command tells when it falls. -/
def State.timeLevel (s : State) : Bool :=
  match s.pins.timeEdge with
  | none => false
  | some c => decide (s.core < c + 1200) || Config.timeLevel s.core

/-- RZ_PIN_STATE (Table 15-7). -/
def State.pinState (s : State) : Nat :=
  b2n (decide (s.core < s.pins.syncUntil)) + 2 * b2n s.timeLevel + 4 * b2n s.pins.holdup + 8 * b2n s.alertLow +
  16 * b2n s.syncDriven + 32 * b2n s.dbgDriven

/-- RZ_GRADE_DIES (R17). -/
def State.gradeDies (s : State) : Nat := if s.ident.grade14 then 0x7F7F else 0xFFFF

/-- The IDCODE register (Table 15-6); the manufacturer code is the part's. -/
def idcodeValue : Nat :=
  pack [(4, Config.partConst Obj.RZ_SILICON_REV / 256 % 16), (16, 0x5233), (11, Config.partConst Obj.RZ_JTAG_IDCODE), (1, 1)]

/-- RZ_STOKE_MS: the time in stoke, the present period's with it, in milliseconds. -/
def State.stokeMs (s : State) : Nat :=
  let now := match s.therm.stoke with
    | .on since _ _ => s.core - since
    | .off => 0
  (s.therm.stokeTime + now) / 1200000 % 2 ^ 64

/-- The value a scalar reads as. -/
def State.readObj (s : State) (key : Nat) : Nat :=
  if key = Obj.RZ_STATE then s.shown.code
  else if key = Obj.RZ_LEAD_POSITION then b2n s.ident.eng
  else if key = Obj.RZ_GRADE_DIES then s.gradeDies
  else if key = Obj.RZ_GRADE_CODE then b2n s.ident.grade14
  else if key = Obj.RZ_VENDOR_IANA || key = Obj.RZ_ROM_VERSION then Config.partConst key % 2 ^ 32
  else if key = Obj.RZ_SILICON_REV then Config.partConst key % 2 ^ 16
  else if key = Obj.RZ_PKG_SERIAL then Config.partConst key % 2 ^ 64
  else if key = Obj.RZ_JTAG_IDCODE then idcodeValue
  else if key = Obj.RZ_OD_COUNT then odRows.length
  else if key = Obj.RZ_EXPERT_STATE then b2n s.dict.unlockMctp + 2 * b2n s.dict.unlockBand
  else if key = Obj.RZ_POOL_FREE then s.poolFree
  else if key = Obj.RZ_STASH_FREE then s.stashFree
  else if key = Obj.RZ_LEDGER_LIVE then s.ledgerLive
  else if key = Obj.RZ_FAB_PORT_STATE then b2n (s.portUp false) + 2 * b2n (s.portUp true) + 4 * b2n (s.fabric.gateUp && !s.fabric.gateLost)
  else if key = Obj.RZ_FAB0_OPEN then s.fabOpen false
  else if key = Obj.RZ_FAB1_OPEN then s.fabOpen true
  else if key = Obj.RZ_FTIME then FTime.shown s.ftime
  else if key = Obj.RZ_CLK_STATE then s.clkState
  else if key = Obj.RZ_STOKE_MS then s.stokeMs
  else if key = Obj.RZ_KINDLE_PHASE then (if s.mode = .kindling then s.kindle.phase else 0xFF)
  else if key = Obj.RZ_PIN_STATE then s.pinState
  else if key = Obj.RZ_DIGEST_STATE then s.digests.phase1 + 4 * s.digests.phase2
  else if key = Obj.RZ_XLOG_COUNT then s.xspi.logHeld
  else s.obj key

/-! ### Domains -/

/-- Bytes [off, off + len) of an array of w-byte items. -/
def itemBytes (w : Nat) (item : Nat → List Byte) (off len : Nat) : List Byte :=
  let first := off / w
  let n := (off + len + w - 1) / w - first
  slice ((List.range n).flatMap (fun i => item (first + i))) (off - first * w) len

/-- The bytes of a table of n-bit entries, an unlisted entry 0. -/
def tabItem {n : Nat} (t : Tab (BitVec n)) (i : Nat) : List Byte := toBytes (Tabs.get (fun _ => (0 : BitVec n)) t i)

/-- Queue-map entry q of a bank (R377): the shared queues' entries come from RZ_SHARED_DIE0 to 3. -/
def State.queueEntry (s : State) (bank : Bool) (q : Nat) : QEntry :=
  if 2044 ≤ q then QEntry.mk true 0 (s.obj (Obj.RZ_SHARED_DIE0 + (q - 2044)))
  else Tabs.get (fun _ => 0) (s.tables.qmap.get bank) q

/-- A ROM record as Table 4-10 lays it out: C2, C1, C0, SEG (log entry 9). -/
def romRecord (coef : Nat → F32) (seg : Nat) : List Byte :=
  toBytes (packed 128 [(32, (coef 2).toNat), (32, (coef 1).toNat), (32, (coef 0).toNat), (8, seg), (24, 0)])

/-- A directory entry (Table 12-5). -/
def directoryEntry (r : OdRow) (size dflt : Nat) : BitVec 128 :=
  packed 128 [(16, r.key / 256), (8, r.key % 256), (4, r.ty.code), (4, r.acc.code), (1, b2n r.persist),
    (1, b2n (odExpert r.key)), (2, r.kind), (28, size), (64, dflt)]

def asciiBytes (cs : List Char) : List Byte := cs.map (fun c => BitVec.ofNat 8 c.toNat)

/-- The text of a STRING object (Table 12-15). -/
def stringBytes (key : Nat) : List Byte :=
  if key = Obj.RZ_VENDOR_NAME then asciiBytes "Onasider".toList
  else asciiBytes "Ranzel dispatch engine, third generation".toList

/-- The bytes of a loaded slot that RZ_FTABn reads back: header and NSEG records (Table 4-14). -/
def State.slotBytes (s : State) (slot : Nat) : List Byte := (s.tables.fslots.getD (slot - 11) FSlot.cleared).bytes

/-- The size of a DOMAIN or STRING (Table 12-5, SIZE). -/
def State.domainSize (s : State) (r : OdRow) : Nat :=
  if r.key = Obj.RZ_ROUTER_BANK0 then (s.tables.rbanks.get false).bytes.length
  else if r.key = Obj.RZ_ROUTER_BANK1 then (s.tables.rbanks.get true).bytes.length
  else if inRange Obj.RZ_FTAB11 Obj.RZ_FTAB15 r.key then (s.slotBytes (r.key % 256)).length
  else if r.key = Obj.RZ_OD_DIRECTORY then 16 * odRows.length
  else if r.ty = .string then (stringBytes r.key).length
  else r.size

/-- The default a directory entry shows: 0 unless DEF_KIND is 0; for a part's constant, its value. -/
def directoryDefault (s : State) (r : OdRow) : Nat :=
  if r.kind != 0 then 0 else if r.acc = .const then s.readObj r.key else r.dflt

def directoryItem (s : State) (i : Nat) : List Byte :=
  match odRows[i]? with
  | some r => toBytes (directoryEntry r (if r.ty.isScalar then r.ty.size else s.domainSize r) (directoryDefault s r))
  | none => []

/-- A catalogue record (R372): the group ID, then signal codes of the engine's own. -/
def catalogItem (i : Nat) : List Byte := leBytes 2 i ++ (List.range 62).map (fun j => Config.catalogByte (64 * i + j + 2))

/-- Bytes [off, off + len) of a domain object as they stand (R307). -/
def State.domainRead (s : State) (key off len : Nat) : List Byte :=
  let t := s.tables
  let d := s.digests
  if key = Obj.RZ_ROUTER_BANK0 then slice (t.rbanks.get false).bytes off len
  else if key = Obj.RZ_ROUTER_BANK1 then slice (t.rbanks.get true).bytes off len
  else if inRange Obj.RZ_FTAB11 Obj.RZ_FTAB15 key then slice (s.slotBytes (key % 256)) off len
  else if key = Obj.RZ_HOB_CONFIG then (List.range len).map (fun i => Config.hobByte (off + i))
  else if inRange 0x703000 0x70300A key then itemBytes 16 (fun i => romRecord (romCoefOf (key % 256) i) i) off len
  else if inRange 0x703100 0x70310A key then itemBytes 16 (fun i => romRecord (Config.vg3Coef (key % 256) i) i) off len
  else if key = Obj.RZ_FN_VG3_CONST then
    itemBytes 4 (fun i => leBytes 4 (if i < 4 then (Config.vg3Const i).toNat else 0)) off len
  else if key = Obj.RZ_HIST_BANK0 then itemBytes 4 (fun i => leBytes 4 (countOf t.hist.b0 i)) off len
  else if key = Obj.RZ_HIST_BANK1 then itemBytes 4 (fun i => leBytes 4 (countOf t.hist.b1 i)) off len
  else if key = Obj.RZ_OWNER_TABLE then itemBytes 16 (tabItem t.owner) off len
  else if key = Obj.RZ_TENSOR_TABLE then itemBytes 16 (tabItem t.tensor) off len
  else if key = Obj.RZ_QUEUE_MAP0 then itemBytes 8 (fun i => toBytes (s.queueEntry false i)) off len
  else if key = Obj.RZ_QUEUE_MAP1 then itemBytes 8 (fun i => toBytes (s.queueEntry true i)) off len
  else if key = Obj.RZ_LANDING_TABLE then itemBytes 4 (tabItem t.landing) off len
  else if key = Obj.RZ_MCAST_TABLE then itemBytes 32 (tabItem t.mcast) off len
  else if key = Obj.RZ_LEDGER then itemBytes 64 (tabItem s.flue.ledger) off len
  else if key = Obj.RZ_GROUP_TABLE then itemBytes 4 (tabItem t.groups) off len
  else if key = Obj.RZ_PLACE_BANK0 then itemBytes 8 (tabItem t.place.b0) off len
  else if key = Obj.RZ_PLACE_BANK1 then itemBytes 8 (tabItem t.place.b1) off len
  else if key = Obj.RZ_ROUTE_MAP then itemBytes 16 (tabItem t.routeMap) off len
  else if key = Obj.RZ_EXPERT_WDIGEST then slice d.wdigest off len
  else if key = Obj.RZ_INPUT_SET then slice d.inputSet off len
  else if key = Obj.RZ_PROG_DIGEST then slice d.prog off len
  else if key = Obj.RZ_INPUT_DIGEST then slice d.input off len
  else if key = Obj.RZ_WT_DIGEST then slice (d.wt.b0 ++ d.wt.b1) off len
  else if key = Obj.RZ_SOOT_FIRST_FATAL then slice (toBytes (s.soot.firstFatal.getD 0)) off len
  else if key = Obj.RZ_SOOT_LOG then itemBytes 32 (tabItem s.soot.ring) off len
  else if key = Obj.RZ_DBG_CATALOG then itemBytes 64 catalogItem off len
  else if key = Obj.RZ_OD_DIRECTORY then itemBytes 16 (directoryItem s) off len
  else if key = Obj.RZ_VENDOR_NAME || key = Obj.RZ_DEVICE_NAME then slice (stringBytes key) off len
  else []

end Sys2Proof.Machine
end

