-- ==== Sys2Proof/Machine/Access.lean ====
section
/-!
DEFINITION. Dictionary access: the checks of Table 12-6 in their order (R301), the answer on the path that asked (R302 to
R306), and the one operation through which every checked write has its effect.
-/

namespace Sys2Proof.Machine

/-! ### Status codes (Table 12-6) -/

namespace St
abbrev ok : Nat := 0
abbrev badRequest : Nat := 1
abbrev noObject : Nat := 2
abbrev access : Nat := 3
abbrev length : Nat := 4
abbrev replay : Nat := 5
abbrev locked : Nat := 6
abbrev state : Nat := 7
abbrev busy : Nat := 8
abbrev noStage : Nat := 9
abbrev value : Nat := 10
abbrev timeout : Nat := 11
end St

/-- The first condition that fails, in ascending code order (R301). -/
def firstFail (l : List (Bool × Nat)) : Nat :=
  match l with
  | [] => St.ok
  | (true, st) :: _ => st
  | (false, _) :: l => firstFail l

def odKey (r : OdReq) : Nat := r.index.toNat * 256 + r.sub.toNat

/-- The value written: over MCTP the request's data; in band the low bytes of the type's size (Table 12-9, OA_DATA). -/
def odVal (r : OdReq) : Nat :=
  if r.path = .mctp then leNat r.data else leNat (r.data.take (odWidth (odKey r) / 8))

/-- The request that writes a scalar of its type's size over a path: what a command row with (path, tag) carries. -/
def scalarReq (path : Path) (tag : ReqTag) (key v : Nat) : OdReq :=
  let n := odWidth key / 8
  { path := path, ic := false, iana := BitVec.ofNat 32 (Config.partConst Obj.RZ_VENDOR_IANA), tag := tag,
    badOp := none, rsv := 0,
    index := BitVec.ofNat 16 (key / 256), sub := BitVec.ofNat 8 (key % 256), len := BitVec.ofNat 16 n, offset := 0,
    data := leBytes n v }

/-- BAD_REQUEST (R302, Table 12-7): the IC bit, another enterprise number, a reserved field, an OFFSET where none applies.
In band only the reserved bits of OA_ADDR and MB_ADDR count. -/
def badRequest (r : OdReq) (segment : Bool) : Bool :=
  r.rsv != 0 ||
  (r.path == .mctp &&
    (r.ic || decide (r.iana.toNat ≠ Config.partConst Obj.RZ_VENDOR_IANA % 2 ^ 32) || (!segment && r.offset != 0)))

/-- The length of a scalar access is wrong (Table 12-6); in band a scalar access carries no length (R305). -/
def badLength (r : OdReq) (size : Nat) (write : Bool) : Bool :=
  r.path == .mctp && (decide (r.len.toNat ≠ size) || (write && decide (r.data.length ≠ size)))

/-- The host inputs that only a package's primary takes (R60). -/
def hostInputs : List Nat :=
  [Obj.RZ_VERDICT, Obj.RZ_CANCEL, Obj.RZ_NOISE_SEED, Obj.RZ_SKIP_SRC, Obj.RZ_SKIP_LEN, Obj.RZ_SKIP_CTRL]

/-- Objects that supply an input which replay takes from the log (R285). -/
def replayInputs : List Nat :=
  [Obj.RZ_VERDICT, Obj.RZ_CANCEL, Obj.RZ_SEQ_CMD, Obj.RZ_NOISE_SEED, Obj.RZ_SKIP_CTRL, Obj.RZ_RBANK_CTRL,
   Obj.RZ_FTAB_CTRL, Obj.RZ_PLACE_CTRL, Obj.RZ_EXPERT_WDIGEST]

/-- Objects that KINDLING and FAULTED accept writes of (Table 12-11). -/
def kindlingWrites : List Nat :=
  [Obj.RZ_STATE_CMD, Obj.RZ_EXPERT_UNLOCK, Obj.RZ_ALERT_ACK, Obj.RZ_ALERT_MASK, Obj.RZ_DOMAIN_STAGE,
   Obj.RZ_DOMAIN_TIMEOUT, Obj.RZ_PERSIST_CMD, Obj.RZ_PERSIST_EDIT]

/-- The state accepts a write of an object by its access code (Tables 12-3 and 12-11). -/
def State.accepts (s : State) (acc : OdAccess) (key : Nat) : Bool :=
  match s.shown with
  | .off => false
  | .powerFail => false
  | .kindling => kindlingWrites.contains key
  | .faulted => kindlingWrites.contains key
  | .running => acc != .rws
  | .ready => true
  | .banked => true

def State.unlocked (s : State) (p : Path) : Bool := if p = .mctp then s.dict.unlockMctp else s.dict.unlockBand

/-- What an object's own rules add to the checks: the state accepts it, a command is open, the value is good. -/
structure OwnRules where
  state : Bool
  busy : Bool
  value : Bool
deriving DecidableEq, Repr

/-- The status of a scalar write (R301). -/
def writeStatus (s : State) (r : OdReq) (own : OwnRules) : Nat :=
  match odRow (odKey r) with
  | none => if badRequest r false then St.badRequest else St.noObject
  | some row =>
    firstFail [
      (badRequest r false, St.badRequest),
      (row.acc == .ro || row.acc == .const || !row.ty.isScalar || (hostInputs.contains (odKey r) && !s.primary), St.access),
      (badLength r row.ty.size true, St.length),
      (s.log.replay && replayInputs.contains (odKey r), St.replay),
      (odExpert (odKey r) && !s.unlocked r.path, St.locked),
      (!s.accepts row.acc (odKey r) || !own.state, St.state),
      ((row.acc == .rws && s.seq.checking) || own.busy, St.busy),
      (!odWriteOk s row (odVal r) || !own.value, St.value)]

/-! ### Packets -/

/-- Packets of the 64-B unit that a message takes (R302). -/
def packetCount (bytes : Nat) : Nat := max 1 (ceilDiv bytes 64)

/-- SOM on a message's first packet, EOM on its last. -/
def packetFlags (n : Nat) : List (Bool × Bool) := (List.range n).map (fun i => (i == 0, i + 1 == n))

/-- A message in its packets. -/
def mctpPackets (mtag : BitVec 3) (msg : List Byte) : List MctpPacket :=
  let n := packetCount msg.length
  (List.range n).map (fun i => { som := i == 0, eom := i + 1 == n, mtag := mtag, bytes := slice msg (64 * i) 64 })

/-- Bytes of a dictionary request: message type, enterprise number, the header of Table 12-7, DATA. -/
def reqBytes (r : OdReq) : Nat := 17 + r.data.length

/-- 50 µs, in which a request is answered (R303). -/
def answerCycles : Nat := 60000

/-- MCTP requests that may still wait for their answers. -/
def State.reqsNow (s : State) : List Nat := s.dict.reqs.filter (fun t => decide (s.core < t + answerCycles))

/-- Requests queued when one comes: as many as the command says are unanswered, of those that may be (R303, log entry 38). -/
def State.queuedNow (s : State) (r : OdReq) : Nat := min r.tag.queued s.reqsNow.length

/-- The request reaches the dictionary: its packets assemble under SOM and EOM, and fewer than four requests are queued; in
band it is a sequence of the port, the mailbox or a doorbell (R302, R303). -/
def State.reqComes (s : State) (r : OdReq) : Bool :=
  match r.path with
  | .mctp => decide (s.queuedNow r < 4) && r.tag.flags == packetFlags (packetCount (reqBytes r))
  | .window => false
  | _ => r.badOp.isNone

/-- OA_CMD meets BUSY: the access before has not ended, which it does within 64 MGMT cycles (R305). -/
def State.portBusy (s : State) (r : OdReq) : Bool := r.path == .port && r.tag.busy && decide (s.core < s.dict.oaUntil)

/-! ### Answers -/

/-- A dictionary response over MCTP, in its packets: the message type, the enterprise number, the header of Table 12-8, the
data. -/
def mctpResponse (tag : ReqTag) (op st : Nat) (data : List Byte) : List MctpPacket :=
  mctpPackets tag.mtag ((0x7F : Byte) :: beBytes 4 (Config.partConst Obj.RZ_VENDOR_IANA) ++
    toBytes (packed 64 [(16, data.length), (24, 0), (8, st), (8, tag.tag.toNat), (8, op % 128 + 128)]) ++ data)

/-- A request over MCTP is answered; it counts as queued for as long as its answer may take. -/
def State.respond (s : State) (tag : ReqTag) (op st : Nat) (data : List Byte) : State :=
  State.emit { s with dict := { s.dict with reqs := s.reqsNow ++ [s.core] } } (.mctp (mctpResponse tag op st data))

/-- Which doorbell an object has (Table 12-9, by offset order). -/
def doorbellOf (key : Nat) : Nat := if key = Obj.RZ_VERDICT then 0 else if key = Obj.RZ_CANCEL then 1 else 2

/-- The window's registers as the host set them for an object-port access (R305). -/
def State.setPort (s : State) (r : OdReq) (data : BitVec 64) : State :=
  if r.path = .port then
    { s with dict := { s.dict with
        oaAddr := BitVec.ofNat 64 (r.rsv.toNat * 2 ^ 24 + odKey r), oaData := data } }
  else s

/-- The end of a scalar access (R301, R302, R305): its status counted and reported on its path. -/
def State.answer (s : State) (r : OdReq) (op st : Nat) (data : List Byte) : State :=
  let s := if st = St.ok then s else s.count Obj.RZ_OD_REFUSED 1
  match r.path with
  | .mctp => s.respond r.tag op st data
  | .port =>
    let d := { s.dict with oaCount := s.dict.oaCount + 1, oaStatus := BitVec.ofNat 8 st, oaUntil := s.core + 384 }
    let d := if data.isEmpty then d else { d with oaData := BitVec.ofNat 64 (leNat data) }
    { s with dict := d }
  | .window => s
  | .doorbell =>
    { s with dict := { s.dict with dbLast := BitVec.ofNat 8 (doorbellOf (odKey r)), dbStatus := BitVec.ofNat 8 st } }

/-- A request is run: in OFF nothing answers (Table 12-11); one that does not come, or that the port ignores while BUSY, is
not; one with a reserved OP is answered with BAD_REQUEST. `scalar`: it goes through OA_CMD and not through the mailbox. -/
def State.onRequest (s : State) (r : OdReq) (scalar : Bool) (run : State → State) : State :=
  if s.mode = .off || !s.reqComes r then s
  else if scalar && s.portBusy r then s.count Obj.RZ_OD_REFUSED 1
  else match r.badOp with
    | some op => (s.count Obj.RZ_OD_REFUSED 1).respond r.tag op.toNat St.badRequest []
    | none => run s

/-- The engine answers a request: it is on, the request comes whole, the port is free for it, its OP is one of Table 12-7. -/
def State.hears (s : State) (r : OdReq) (scalar : Bool) : Bool :=
  s.mode != .off && s.reqComes r && !(scalar && s.portBusy r) && r.badOp.isNone

/-- A scalar write: checked, applied by its effect when every check passes, answered. -/
def odWrite (s : State) (r : OdReq) (own : OwnRules) (eff : State → State) : State :=
  s.onRequest r true (fun s =>
    let s := s.setPort r (BitVec.ofNat 64 (odVal r))
    let st := writeStatus s r own
    (if st = St.ok then eff s else s).answer r 0x02 st [])

/-- A write with no rules of the object's own beyond its table. -/
def OwnRules.plain : OwnRules := { state := true, busy := false, value := true }

/-- The plain effect: the object takes the value. -/
def plainEffect (r : OdReq) (s : State) : State := s.setObj (odKey r) (odStored (odKey r) (odVal r))

end Sys2Proof.Machine
end

