-- ==== Sys2Proof/Machine/Persist.lean ====
section
/-!
DEFINITION. Persistence on the xSPI part: stored object sets (R299), placement images and soot snapshots as committed
(Tables 10-6 and 14-5), the hold-up check and the commits (R333 to R338).
-/

namespace Sys2Proof.Machine

/-! ### Stored object sets (R299) -/

/-- The records of an object: its header (Table 12-4) and, for a domain, its bytes zero-filled to 16. -/
def setRecord (s : State) (r : OdRow) : List Byte :=
  let head (len v : Nat) : List Byte :=
    toBytes (packed 128 [(16, r.key / 256), (8, r.key % 256), (4, r.ty.code), (4, 0), (32, len), (64, v)])
  if r.ty.isScalar then head r.ty.size (s.obj r.key)
  else head r.size 0 ++ zeroFill 16 (s.domainRead r.key 0 r.size)

def persistRows : List OdRow := odRows.filter (·.persist)

/-- A set's 32-byte header over its record bytes. -/
def setHeader (records : Nat) (body : List Byte) : List Byte :=
  toBytes (packed 256 [(32, 0x50534554), (32, records), (32, 32 + body.length), (32, (crc32 body).toNat), (128, 0)])

/-- SAVE's set: the current value of every persistent object. -/
def State.objectSet (s : State) : List Byte :=
  let body := persistRows.flatMap (setRecord s)
  setHeader persistRows.length body ++ body

def emptySet : List Byte := setHeader 0 []

/-- One record read from a set: its key, its scalar value, its domain bytes. -/
structure SetRec where
  key : Nat
  value : Nat
  bytes : List Byte
deriving DecidableEq, Repr

/-- What reading a set gives: its records, or the key of the record that breaks a rule. -/
inductive SetRead where
  | good (rs : List SetRec)
  | bad (key : Nat)
deriving DecidableEq, Repr

/-- Records in strictly ascending order, each persistent, of its object's type and length, its value within the write
rules when `strict`; `prev` is one more than the last key. -/
def readRecords (s : State) (strict : Bool) : Nat → Nat → List Byte → SetRead
  | 0, _, bs => if bs.isEmpty then .good [] else .bad 0
  | n + 1, prev, bs =>
    let h : BitVec 128 := ofBytes 128 (bs.take 16)
    let key := fld h 127 112 * 256 + fld h 111 104
    let len := fld h 95 64
    let v := fld h 63 0
    match odRow key with
    | none => .bad key
    | some r =>
      let size := if r.ty.isScalar then r.ty.size else r.size
      let room := if r.ty.isScalar then 0 else roundUp r.size 16
      if bs.length < 16 + room || key < prev || !r.persist || fld h 103 100 != r.ty.code || fld h 99 96 != 0 ||
          len != size || (r.ty.isScalar && decide (2 ^ (8 * r.ty.size) ≤ v)) || (!r.ty.isScalar && v != 0) ||
          ((bs.drop (16 + size)).take (room - size)).any (· != 0) ||
          (strict && r.ty.isScalar && !odWriteOk s r v) then .bad key
      else
        match readRecords s strict n (key + 1) (bs.drop (16 + room)) with
        | .bad k => .bad k
        | .good rs => .good ({ key := key, value := v, bytes := (bs.drop 16).take r.size } :: rs)

/-- A set as R299 has it: MAGIC, BYTES, CRC, reserved bits, records. -/
def readSet (s : State) (strict : Bool) (bs : List Byte) : SetRead :=
  let h : BitVec 256 := ofBytes 256 (bs.take 32)
  let body := bs.drop 32
  if bs.length < 32 || fld h 255 224 != 0x50534554 || fld h 191 160 != bs.length || fld h 127 0 != 0 ||
      fld h 159 128 != (crc32 body).toNat then .bad 0
  else readRecords s strict (fld h 223 192) 0 body

/-! ### Images committed -/

/-- Groups with at least one valid member (R246). -/
def State.groupNonEmpty (s : State) (g : Nat) : Bool :=
  s.tables.groups.any (fun p => decide (p.1 / 4096 = g) && MEntry.valid p.2)

/-- The committed placement image (R254, Table 13-7): the committed epoch's bank and every non-empty group. -/
def State.placementImage (s : State) : List Byte :=
  let epoch := s.obj Obj.RZ_PLACE_EPOCH
  let bank := epoch % 2 == 1
  let gs := (List.range 256).filter s.groupNonEmpty
  let entries := itemBytes 8 (tabItem (s.tables.place.get bank)) 0 524288
  let recs := gs.flatMap (fun g =>
    toBytes (packed 512 [(8, g), (504, 0)]) ++ itemBytes 4 (fun i => tabItem s.tables.groups (g * 4096 + i)) 0 16384)
  let body := entries ++ recs
  toBytes (packed 512 [(32, 0x504C4345), (8, 3), (16, epoch), (9, gs.length), (31, 0), (32, (crc32 body).toNat),
    (384, 0)]) ++ body

/-- A soot snapshot (R354, Table 14-5). -/
def State.sootSnapshot (s : State) (reason : Nat) : List Byte :=
  let ring := itemBytes 32 (tabItem s.soot.ring) 0 32768
  toBytes (packed 512 [(32, 0x534F4F54), (17, s.node), (3, s.shown.code), (4, reason), (32, s.obj Obj.RZ_SOOT_HEAD),
    (32, s.obj Obj.RZ_SOOT_TAIL), (64, FTime.shown s.ftime), (32, (crc32 ring).toNat), (296, 0)]) ++ ring

/-! ### The part (Table 13-6) -/

/-- Where a region's copy, slot or segment starts. -/
def regionAddr (seg : Nat) : Region → Nat → Nat
  | .objects, c => if c = 0 then 0x0020000 else 0x0120000
  | .placement, c => if c = 0 then 0x0220000 else 0x0720000
  | .soot, c => 0x0C20000 + c * 65536
  | .log, c => 0x1000000 + c * seg

/-- The code RZ_PERSIST_WRITE's LOC gives a region: Table 13-6's order. -/
def Region.code : Region → Nat
  | .objects => 1 | .placement => 2 | .soot => 3 | .log => 5

/-- The 60 bytes of a commit record that its own CRC-32 covers (R333), in the layout of log entry 29. -/
def CommitRecord.bytes (c : CommitRecord) : List Byte :=
  toBytes (packed 480 [(32, c.seq.toNat), (8, c.region.code), (16, c.copy), (24, 0), (32, c.len), (32, c.crc.toNat), (336, 0)])

/-- A record over content, under its own CRC. -/
def mkRecord (seq : BitVec 32) (r : Region) (copy : Nat) (content : List Byte) : CommitRecord :=
  let c : CommitRecord := { seq := seq, region := r, copy := copy, len := content.length, crc := crc32 content, own := 0 }
  { c with own := crc32 c.bytes }

/-- Both sectors' records. -/
def Xspi.records (x : Xspi) : List CommitRecord := x.sectors.b0 ++ x.sectors.b1

/-- Records of a sector of 64 KiB. -/
def sectorRecords : Nat := 1024

/-- Another record names the same region and copy. -/
def CommitRecord.covers (c d : CommitRecord) : Bool := d.region == c.region && d.copy == c.copy

/-- A record is programmed into the sector being filled. When it is full the other is erased and filled in turn, first with
those of its records that are still the last of their region and copy (log entry 29). -/
def Xspi.addRecord (x : Xspi) (c : CommitRecord) : Xspi :=
  let full := x.sectors.get x.sector
  if full.length < sectorRecords then { x with sectors := x.sectors.set x.sector (full ++ [c]) }
  else
    let keep := (x.sectors.get (!x.sector)).foldl (fun l d =>
      l.filter (fun e => !d.covers e) ++ (if full.any d.covers then [] else [d])) []
    { x with sectors := x.sectors.set (!x.sector) (keep ++ [c]), sector := !x.sector }

def Xspi.content (x : Xspi) (seg : Nat) (c : CommitRecord) : List Byte := x.nor.read (regionAddr seg c.region c.copy) c.len

/-- The record's CRC and its content's both match (R337). -/
def Xspi.valid (x : Xspi) (seg : Nat) (c : CommitRecord) : Bool := c.own == crc32 c.bytes && c.crc == crc32 (x.content seg c)

/-- The record with the highest sequence number. -/
def newestOf (l : List CommitRecord) : Option CommitRecord :=
  l.foldl (fun a c => match a with
    | some d => if d.seq ≤ c.seq then some c else some d
    | none => some c) none

/-- The newest valid record of a region (R336, R337). -/
def Xspi.newestValid (x : Xspi) (seg : Nat) (r : Region) : Option CommitRecord :=
  newestOf (x.records.filter (fun c => c.region == r && x.valid seg c))

def State.logSlots (s : State) : Nat := 48 * 1048576 / s.obj Obj.RZ_LOG_SEG

def CommitKind.region : CommitKind → Region
  | .objects => .objects | .empty => .objects | .placement => .placement | .soot => .soot | .log => .log | .free => .log

/-- The copy, slot or segment that a commit writes: one that the newest valid record does not name (R336). -/
def State.commitCopy (s : State) (k : CommitKind) : Nat :=
  match k with
  | .log => (s.xspi.logFirst + s.xspi.logHeld) % s.logSlots
  | .free => 0
  | _ =>
    let n := if k.region = .soot then 8 else 2
    match s.xspi.newestValid (s.obj Obj.RZ_LOG_SEG) k.region with
    | some c => (c.copy + 1) % n
    | none => 0

/-- Commands of R298 report in RZ_PERSIST_STATE, the others in RZ_XSPI_STATE. -/
def CommitKind.persist : CommitKind → Bool
  | .objects => true | .empty => true | _ => false

/-- What a commit's content leaves in the commit buffer of 64 KiB, through which it passes: its last piece. -/
def lastPiece (bs : List Byte) : List Byte := bs.drop ((bs.length - 1) / 65536 * 65536)

/-- Begins a commit, or refuses it by the hold-up check (R335). -/
def State.startCommit (s : State) (c : Commit) : State :=
  let kib := ceilDiv c.bytes.length 1024
  let need := 3500 + 42 * kib
  let s := s.setObj Obj.RZ_COMMIT_NEED need
  if s.pins.holdup && decide (need ≤ 10 * s.obj Obj.RZ_HOLDUP_MJ) then
    let s := s.setObj Obj.RZ_LAST_COMMIT_KIB kib
    let s := if c.kind.persist then s.setObj Obj.RZ_PERSIST_STATE 1 else s.setObj Obj.RZ_XSPI_STATE 1
    { s with
      xspi := { s.xspi with commit := some { c with copy := s.commitCopy c.kind } }
      stores := { s.stores with commitBuf := c.bytes.take 65536 } }
  else
    let s := s.count Obj.RZ_HOLDUP_REFUSED 1
    let s := if c.kind.persist then s.setObj Obj.RZ_PERSIST_STATE 3 else s.setObj Obj.RZ_XSPI_STATE 4
    let s := s.alert Alert.persistFail
    if c.auto then { s with xspi := { s.xspi with retry := s.xspi.retry ++ [c] } } else s

/-- The commit of a command: what it writes. -/
def mkCommit (k : CommitKind) (auto : Bool) (bytes : List Byte) (arg : Nat) : Commit :=
  { kind := k, auto := auto, copy := 0, bytes := bytes, arg := arg }

/-- A read command begins (R338): the bytes go to memory when it ends. -/
def State.startRead (s : State) (r : XRead) : State :=
  let s := s.setObj Obj.RZ_XSPI_STATE 2
  { s with xspi := { s.xspi with read := some r } }

def State.nothingStored (s : State) : State := s.setObj Obj.RZ_XSPI_STATE 5

/-- The stored image with EPOCH set to the committed epoch plus 1 (R338). -/
def withEpoch (img : List Byte) (epoch : Nat) : List Byte :=
  let h : BitVec 512 := ofBytes 512 (img.take 64)
  toBytes (setFld h 471 456 epoch) ++ img.drop 64

/-- Runs a command of R298 or of RZ_XSPI_CMD. -/
def State.runXCmd (s : State) (c : XCmd) : State :=
  let seg := s.obj Obj.RZ_LOG_SEG
  let arg := s.obj Obj.RZ_XSPI_ARG
  match c with
  | .save => s.startCommit (mkCommit .objects false s.objectSet 0)
  | .clear => s.startCommit (mkCommit .empty false emptySet 0)
  | .edit =>
    match readSet s true s.dict.edit with
    | .good _ => s.startCommit (mkCommit .objects false s.dict.edit 0)
    | .bad k => ((s.setObj Obj.RZ_PERSIST_STATE 4).setObj Obj.RZ_PERSIST_LAST (k * 256)).alert Alert.persistFail
  | .placeSave => s.startCommit (mkCommit .placement false s.placementImage 0)
  | .sootSnap => s.startCommit (mkCommit .soot false (s.sootSnapshot 0) 0)
  | .logFree =>
    if s.xspi.logHeld = 0 then s.nothingStored
    else s.startCommit (mkCommit .free false [] (min (arg + 1) s.xspi.logHeld))
  | .placeLoad =>
    match s.xspi.newestValid seg .placement with
    | some r => s.startRead
        { load := true, dst := s.obj Obj.RZ_PLACE_SRC,
          bytes := withEpoch (s.xspi.content seg r) ((s.obj Obj.RZ_PLACE_EPOCH + 1) % 65536) }
    | none => s.nothingStored
  | .logRead =>
    if arg < s.xspi.logHeld then
      let slot := (s.xspi.logFirst + arg) % s.logSlots
      s.startRead { load := false, dst := s.obj Obj.RZ_XSPI_DST, bytes := s.xspi.nor.read (regionAddr seg .log slot) seg }
    else s.nothingStored
  | .sootRead =>
    match newestOf (s.xspi.records.filter (fun r => r.region == .soot && r.copy == arg)) with
    | some r => s.startRead { load := false, dst := s.obj Obj.RZ_XSPI_DST, bytes := s.xspi.content seg r }
    | none => s.nothingStored

/-- A command is open: a commit of a command, a held command or a read (R334). -/
def State.xOpen (s : State) : Bool :=
  s.xspi.heldCmd.isSome || s.xspi.read.isSome ||
  match s.xspi.commit with
  | some c => !c.auto
  | none => false

/-- A command is taken: it runs, or waits for an automatic commit (R334). -/
def State.takeXCmd (c : XCmd) (s : State) : State :=
  if s.xspi.commit.isSome then { s with xspi := { s.xspi with heldCmd := some c } } else s.runXCmd c

/-- XSPI's bit in RZ_CLK_LOST, in Table 13-1's order (DDL as eight bits). -/
def clkXspi : Nat := 22

/-- A commit ends (R336): its content and a new record, or a write error. A command that waited runs then. -/
def State.endCommit (s : State) (c : Commit) (ok : Bool) (addr : BitVec 32) : State :=
  let seg := s.obj Obj.RZ_LOG_SEG
  let region := c.kind.region
  let s := { s with xspi := { s.xspi with commit := none } }
  if ok && !(s.obj Obj.RZ_CLK_LOST).testBit clkXspi then
    let seq := s.xspi.seq + 1
    let nor := if c.kind = .free then s.xspi.nor else s.xspi.nor.write (regionAddr seg region c.copy) c.bytes
    let x := Xspi.addRecord { s.xspi with nor := nor, seq := seq } (mkRecord seq region c.copy c.bytes)
    let x := match c.kind with
      | .log => { x with logHeld := x.logHeld + 1 }
      | .free => { x with logFirst := (x.logFirst + c.arg) % s.logSlots, logHeld := x.logHeld - c.arg }
      | _ => x
    let s := { s with xspi := x, stores := { s.stores with commitBuf := lastPiece c.bytes } }
    let s := if c.kind = .log then s.setObj Obj.RZ_LOG_TAIL (max (s.obj Obj.RZ_LOG_TAIL) (c.arg + seg)) else s
    if c.kind.persist then s.setObj Obj.RZ_PERSIST_STATE 2 else s.setObj Obj.RZ_XSPI_STATE 3
  else
    let s := s.soot_ { code := 0x92, sev := 3, action := 0, loc := region.code, detail := addr.toNat }
    if c.kind.persist then (s.setObj Obj.RZ_PERSIST_STATE 5).alert Alert.persistFail else s.setObj Obj.RZ_XSPI_STATE 6

/-- A command held behind an automatic commit runs once it has ended. -/
def State.runHeldCmd (s : State) : State :=
  match s.xspi.heldCmd with
  | some c => State.runXCmd { s with xspi := { s.xspi with heldCmd := none } } c
  | none => s

end Sys2Proof.Machine
end

