-- ==== Sys2Proof/Machine/Replay.lean ====
section
/-!
DEFINITION. Reading a replay log back (R281, R285) and a divergence from it; the configuration record (Table 11-4).
-/

namespace Sys2Proof.Machine

/-- A record of a log: its place among the records, the header's fields (Table 11-3), the payload. -/
structure LogRec where
  idx : Nat
  ty : Nat
  node : Nat
  seq : Nat
  stepId : Nat
  ord : Nat
  tOff : Nat
  /-- Where the payload lies in the log. -/
  at_ : Nat
  /-- TYPE is defined, PLEN in range, every reserved bit zero (R12, R281). -/
  good : Bool
  payload : List Byte
deriving DecidableEq, Repr

/-- Record types of Table 11-5. -/
def recordTypes : List Nat := [0x01, 0x02, 0x03, 0x04, 0x05, 0x06, 0x07, 0x08, 0x09, 0x0A, 0x0B, 0x0C, 0x10, 0x11, 0x12, 0x13, 0x14, 0x1F]

/-- The records of a log's bytes, in order; the fuel is the number of 32-byte units. -/
def parseLog : Nat → Nat → Nat → List Byte → List LogRec
  | 0, _, _, _ => []
  | n + 1, i, off, bs =>
    if bs.length < 32 then []
    else
      let h : BitVec 256 := ofBytes 256 (bs.take 32)
      let plen := fld h 239 223
      { idx := i, ty := fld h 255 248, node := fld h 222 206, seq := fld h 191 128, stepId := fld h 127 96,
        ord := fld h 95 64, tOff := fld h 63 32, at_ := off + 32, payload := (bs.drop 32).take plen
        good := recordTypes.contains (fld h 255 248) && fld h 247 240 == 0 && fld h 205 192 == 0 && decide (plen ≤ 65536) } ::
        parseLog n (i + 1) (off + 32 + roundUp plen 32) (bs.drop (32 + roundUp plen 32))

/-- This engine's records of the log being replayed. -/
def State.replayRecs (s : State) : List LogRec :=
  let len := s.obj Obj.RZ_REPLAY_LEN
  (parseLog (len / 32) 0 0 (s.readMem (s.obj Obj.RZ_REPLAY_SRC) len)).filter (fun r => r.node == s.node)

/-- The log's next record of a class that meets a test. -/
def State.nextRec (s : State) (ty : Nat) (p : LogRec → Bool) : Option LogRec :=
  s.replayRecs.find? (fun r => r.ty == ty && !s.log.taken.contains r.idx && p r)

def State.takeRec (s : State) (r : LogRec) : State :=
  { s with log := { s.log with taken := s.log.taken ++ [r.idx] } }

/-- The sequencer halts for the host: RZ_SEQ_STATE shows why, an alert cause is set (R48, R251, R256, R285, R360). -/
def State.haltSeq (s : State) (code cause : Nat) : State :=
  let s := (s.setObj Obj.RZ_SEQ_STATE code).alert cause
  { s with seq := { s.seq with wait := .halted code } }

/-- A divergence (R285): the sequencer halts, and the record concerned is named. The replay has ended. -/
def State.diverge (s : State) (seq : Nat) : State :=
  let s := (s.setObj Obj.RZ_REPLAY_STATE 2).setObj Obj.RZ_REPLAY_POS seq
  let s := s.haltSeq 9 Alert.replayDiverged
  { s with log := { s.log with replay := false } }

/-- Active compute dies of the package (Table 11-4, DIES). -/
def State.dieCount (s : State) : Nat := if s.ident.grade14 then 14 else 16

/-- The tensor table as TENSOR_CRC reads it: reserved bits as zero. -/
def State.tensorBytes (s : State) : List Byte :=
  (List.range 256).flatMap (fun h => toBytes (setFld (s.tensor h) 10 0 0))

/-- CONFIG_REC (Table 11-4): its 64 bytes. -/
def State.configRec (s : State) (members : Nat) : List Byte :=
  let o := s.obj
  toBytes (packed 512 [(32, 0x43464752), (13, members), (5, s.dieCount), (8, o Obj.RZ_PHASE_ROLE), (6, 0),
    (1, o Obj.RZ_FN_IEEE), (1, o Obj.RZ_WEIGHT_FMT), (1, o Obj.RZ_MX8_ELEM), (1, o Obj.RZ_MX6_ELEM),
    (1, o Obj.RZ_HYST_EN), (1, o Obj.RZ_ROUTE_MEM_EN), (1, o Obj.RZ_STRIPE_EN), (1, 0), (8, o Obj.RZ_SCORE_FN),
    (8, o Obj.RZ_STRIPE_TENSOR), (4, o Obj.RZ_STRIPE_HALO), (13, o Obj.RZ_STRIPE_ROWS), (23, 0),
    (32, o Obj.RZ_GATE_SCALE), (32, o Obj.RZ_NOISE_SCALE), (32, o Obj.RZ_HYST_MARGIN),
    (32, (crc32 s.tensorBytes).toNat), (256, 0)])

end Sys2Proof.Machine
end

