-- ==== Sys2Proof/Machine/Records.lean ====
section
/-!
DEFINITION. The records of a step's end (R48, R276, R283, R285): the status record, STEP_RESULT, STEP_TIMING, FAULT_END; and
the mark of broken timing (R275).
-/

namespace Sys2Proof.Machine

/-- The status record of a step's end (Table 2-7), FIRST_FAIL 7. -/
def Step.endRecord (t : Step) (status : Nat) : BitVec 128 :=
  statusRecord (Desc.stepId t.desc).toNat status 0 7 (t.variant.getD 15) (Desc.batch t.desc).toNat
    (min t.model.tCe 0xFFFFFFFF) 0

/-- Observed end of a phase, CORE cycles after t0; 0 for a phase not reached. -/
def endAfter (t0 : Nat) : Option Nat → Nat
  | some c => c - t0
  | none => 0

/-- STEP_RESULT (Table 11-6). -/
def stepResult (t : Step) (status : Nat) : List Byte :=
  toBytes (packed 256 [(32, (Desc.stepId t.desc).toNat), (8, status), (4, t.variant.getD 15), (20, 0),
    (64, t.routeFp.toNat), (64, t.outFp.toNat), (32, t.admitted), (32, t.ashed)])

/-- STEP_TIMING (Table 11-7), while RZ_TIMING_REPEAT is 1 (R276). A step that ends before its last entry retires has not reached
the end of combine. REFRESH_STALL and LINK_RETRIES are what the memories and links did, of which no command tells: free
values (log entry 3). -/
def State.logTiming (s : State) (t : Step) : State :=
  let s := if t.broken then s.count Obj.RZ_TIMING_BROKEN 1 else s
  if s.flag Obj.RZ_TIMING_REPEAT then
    let (f, s) := s.takeFree
    let walk := if t.walked then t.walkAt else 0
    s.logStep 0x13 t (toBytes (packed 256 [(32, (Desc.stepId t.desc).toNat), (32, endAfter t.t0 t.grateEnd), (32, walk),
      (32, endAfter t.t0 t.dispatched), (32, if t.retired && !t.cancelled then endAfter t.t0 t.endedAt else 0),
      (32, bits f.toNat 31 0), (16, bits f.toNat 47 32), (1, b2n t.broken), (1, b2n t.throttle), (1, b2n t.fabRetry), (1, b2n t.resend), (44, 0)]))
  else s

/-- The STEP_RESULT of a step is written, and compared when replay runs and STATUS is 0x10 (R285). -/
def State.writeResult (s : State) (t : Step) (status : Nat) : State :=
  let s := s.logStep 0x12 t (stepResult t status)
  if s.log.replay && status == 0x10 then
    match s.nextRec 0x12 (fun r => r.ord == t.ord.toNat && ((r.payload.getD 27 0).toNat == 0x10)) with
    | some r => if r.payload = stepResult t status then s.takeRec r else s.diverge r.seq
    | none => s
  else s

/-- The records of a step's end: status ring, STEP_RESULT, STEP_TIMING. -/
def State.endRecords (s : State) (t : Step) (status : Nat) : State :=
  ((s.postStatus (t.endRecord status)).writeResult t status).logTiming t

/-- FAULT_END (Table 11-5). -/
def State.logFaultEnd (s : State) (t : Step) (code : Nat) : State :=
  s.logStep 0x14 t (toBytes (packed 64 [(8, code), (24, 0), (32, (Desc.stepId t.desc).toNat)]))

/-- An event of R275 in the step of a key: its timing is broken, by a fabric attempt after attempt 0, by a busy reply or a
replay, or by another event. -/
def State.breakTiming (s : State) (k : Key) (fab resend : Bool) : State :=
  match s.bankOf k with
  | some b => s.onStep b (fun t => { t with broken := true, fabRetry := t.fabRetry || fab, resend := t.resend || resend })
  | none => s

/-- An event of R275 that is no one step's own, a collective's: the timing of every live step is broken. -/
def State.breakLive (s : State) (fab resend : Bool) : State :=
  s.liveBanks.foldl (fun s b =>
    s.onStep b (fun t => { t with broken := true, fabRetry := t.fabRetry || fab, resend := t.resend || resend })) s

end Sys2Proof.Machine
end

