-- ==== Sys2Proof/Machine/Mode.lean ====
section
/-!
DEFINITION. Changes of state (Table 12-12): entry to FAULTED (R361), to KINDLING (R290, R312, R320, R354), to READY, and what
every way of leaving a running schedule shares.
-/

namespace Sys2Proof.Machine

/-- A write of an RWS domain is open (R308). -/
def State.rwsOpen (s : State) : Bool :=
  match s.dict.xfer with
  | some x =>
    match odRow x.key with
    | some r => r.acc == .rws
    | none => false
  | none => false

/-- Abandoned transfers with the open one among them: one for each path and object. -/
def Dict.dropped (d : Dict) : List Transfer :=
  match d.xfer with
  | some x => d.abandoned.filter (fun y => !(y.path == x.path && y.key == x.key)) ++ [x]
  | none => d.abandoned

/-- The open domain transfer is abandoned (R308). -/
def State.abandonXfer (s : State) : State := { s with dict := { s.dict with xfer := none, abandoned := s.dict.dropped } }

/-- A state entered by a transition of Table 12-12, with its reason; a transition that no command, START, HALT or ABORT makes
sets cause SELF_TRANSITION (Table 12-13): the end of kindling, thermal banking and faults (log entry 8). An RWS domain's
transfer is abandoned outside READY and BANKED (R308). -/
def State.enter (s : State) (m : Mode) (reason : Nat) : State :=
  let s := if m ≠ .ready ∧ m ≠ .banked ∧ s.rwsOpen = true then s.abandonXfer else s
  let s := { s with mode := m }
  let s := s.setObj Obj.RZ_STATE_REASON reason
  if reason = 1 || reason = 8 || reason = 9 || reason = 10 then s.alert Alert.selfTransition else s

/-- Requests, reductions and writes not yet made are dropped: nothing more leaves the engine (R361, R336). -/
def State.quiesce (s : State) : State :=
  { s with
    bellows := { s.bellows with gathers := [], farReplays := [], pend := [], ctxs := [], ownPath := [], aggs := [], waiting := [],
                                bulks := [], farWait := [] }
    flue := { s.flue with ctxs := [], combineQ := [], ownPath := [], staging := [], unissued := [], zeroing := [], zeros := [],
                          nocReds := [], drains := [], farKept := [] }
    fabric := { s.fabric with ops := [], waitQ := [], fences := [], lands := [], resend := [], fetches := [] }
    digests := { s.digests with phase2 := if s.digests.phase2 = 1 && !s.fetched .digest then 3 else s.digests.phase2 }
    colls := .cleared
    job := none }

/-- The fabric, gateway and die ports present "no credits, not present" (R323, R324, R361). -/
def State.portsDown (s : State) : State :=
  let down (p : FabPort) : FabPort := { p with up := false }
  { s with fabric := { s.fabric with
      ports := { b0 := down s.fabric.ports.b0, b1 := down s.fabric.ports.b1 }, gateUp := false, hold := true } }

/-- One in-flight step is abandoned without a fence. On entry to FAULTED, for a cause of soot code `cause`, its STATUS 0x11
record is written, with the STEP_RESULT, STEP_TIMING and FAULT_END records that go with it (R361, R276, Table 11-5). -/
def State.abandonStep (cause : Option Nat) (s : State) (b : Bool) : State :=
  match s.steps.get b with
  | some t =>
    if Step.live t then
      let s := match cause with
        | some code => (s.endRecords t 0x11).logFaultEnd t code
        | none => s
      s.setStep b { t with retired := true, cancelled := true, fence := none, rewind := none }
    else s
  | none => s

/-- Both in-flight steps, the earlier first. -/
def State.abandonSteps (s : State) (cause : Option Nat) : State := s.liveBanks.foldl (State.abandonStep cause) s

/-- The sequencer stops for good: nothing is fetched, halted or waited for. -/
def State.stopSeq (s : State) : State :=
  { (s.setObj Obj.RZ_SEQ_STATE 0) with
    seq := { s.seq with wait := .none, checking := false, fetched := none, barrier := .cleared } }

/-- Stoke ends with the clock switched back, and the cool-down starts (R329). -/
def State.endStoke (s : State) : State :=
  match s.therm.stoke with
  | .on since _ _ =>
    { s with therm := { s.therm with
        stoke := .off, stokeTime := s.therm.stokeTime + (s.core - since), cooldown := true } }
  | .off => s

/-- An event that ends stoke at the next step boundary (R329). -/
def State.stokeEnds (s : State) : State :=
  match s.therm.stoke with
  | .on since sw none => { s with therm := { s.therm with stoke := .on since sw (some s.core) } }
  | _ => s

/-- A frequency change that waits takes effect (R327). -/
def State.applyChange (s : State) : State :=
  match s.therm.change with
  | some (thr, _) => { s with therm := { s.therm with throttled := thr, change := none } }
  | none => s

/-- What leaving RUNNING does to clocks: stoke and a waiting change take effect at once (R327, R329). -/
def State.leaveRunning (s : State) : State := s.endStoke.applyChange

/-- An automatic soot snapshot begins, or waits behind a commit in progress (R334, R361). -/
def State.autoSnapshot (s : State) : State :=
  if s.flag Obj.RZ_SOOT_AUTO then
    let c := mkCommit .soot true (s.sootSnapshot 1) 0
    if s.xspi.commit.isSome then { s with xspi := { s.xspi with retry := s.xspi.retry ++ [c] } } else s.startCommit c
  else s

/-- Entry to FAULTED (R361), after the cause's soot entry, whose code is `cause`: reason 9, or 10 for a failed kindling
check. -/
def State.faultEntry (s : State) (reason cause : Nat) : State :=
  match s.mode with
  | .off => s
  | .faulted => s
  | .powerFail => s
  | _ =>
    let s := (s.abandonSteps (some cause)).stopSeq.quiesce.portsDown.leaveRunning
    let s := { s with therm := { s.therm with bankWait := false } }
    let s := (s.enter .faulted reason).alert Alert.faulted
    s.autoSnapshot

/-- A kindling check fails (R323): soot entry, RZ_KINDLE_FAIL, FAULTED. -/
def State.kindleFail (s : State) (check : Nat) (e : SootEv) : State :=
  let s := s.soot_ e
  let s := s.setObj Obj.RZ_KINDLE_FAIL (s.kindle.phase * 2 ^ 24 + check % 2 ^ 24)
  s.faultEntry 10 e.code

/-- The code for a check of a phase that has no code of its own. -/
def selfTest (phase check : Nat) : SootEv :=
  { code := 0x01, sev := 4, action := 8, loc := phase * 2 ^ 24 + check % 2 ^ 24 }

/-- Objects that a kindling from phase 1 keeps: the log's and the soot log's (R290, R297, R354). -/
def keptObjs : List Nat :=
  [Obj.RZ_LOG_BASE, Obj.RZ_LOG_LEN, Obj.RZ_LOG_SEG, Obj.RZ_LOG_EN, Obj.RZ_LOG_HEAD, Obj.RZ_LOG_TAIL, Obj.RZ_SOOT_HEAD,
   Obj.RZ_SOOT_TAIL, Obj.RZ_SOOT_LOST]

/-- The engine alone sets an object (Table 12-3). -/
def odIsRo (key : Nat) : Bool :=
  match odRow key with
  | some r => r.acc == .ro
  | none => false

/-- Entry to KINDLING at phase 1 (R312, R320): both paths locked, open transfers abandoned, status and counters at their
defaults (R295), the sequencer, its steps and everything in flight gone, every port down. Arrays clear in the phases
that follow. -/
def State.kindleEntry (s : State) (reason : Nat) : State :=
  let s := s.stopSeq.quiesce.portsDown.leaveRunning
  let objs := s.objs.filter (fun p => !odIsRo p.1 || keptObjs.contains p.1)
  let s := { s with
    objs := objs
    kindle := .start false 1 s.core
    dict := { Dict.cleared with abandoned := s.dict.dropped, edit := s.dict.edit }
    seq := .cleared
    steps := { b0 := none, b1 := none }
    tables := { s.tables with rload := none, fload := none }
    log := { s.log with ord := none, replay := false, taken := [], held := [] }
    bellows := { s.bellows with incarn := none }
    therm := { s.therm with bankWait := false, stokeTime := 0 }
    dies := List.replicate 8 .cleared
    xspi := { s.xspi with commit := none, read := none, heldCmd := none, heldReset := false } }
  s.enter .kindling reason

/-- Kindling ends: READY (Table 12-12). -/
def State.kindlePassed (s : State) : State :=
  let s := s.setObj Obj.RZ_KINDLE_TIME ((s.core - s.kindle.started) / 1200 % 2 ^ 32)
  s.enter .ready 1

/-! ### Ports and pins -/

/-- TIMEPULSE_IN and HOLDUP_OK are read: from phase 1 of kindling on (Table 15-2). -/
def State.readsPins (s : State) : Bool :=
  match s.mode with
  | .off => false
  | .kindling => decide (1 ≤ s.kindle.phase)
  | _ => true

/-- A die port presents credits (R17, R323, Table 15-3). -/
def State.diePresent (s : State) (port : Nat) : Bool :=
  let on : Bool := match s.mode with
    | .kindling => s.kindle.diesDone
    | .ready => true
    | .running => true
    | _ => false
  let lost := match s.dies[port]? with
    | some d => d.lost
    | none => true
  on && !lost && !(s.ident.grade14 && port == 7)

/-- What the LPDDR5X ports LPC0 and LPC1 present to their parts (Table 15-3). -/
inductive LpcState where
  | resetHighZ | training | active | selfRefresh
deriving DecidableEq, Repr

def State.lpc (s : State) : LpcState :=
  match s.mode with
  | .off => .resetHighZ
  | .kindling => if s.kindle.lpDone then .active else .training
  | .banked => .selfRefresh
  | _ => .active

/-- The engine's ports to other engines carry traffic: READY and RUNNING. -/
def State.active (s : State) : Bool := s.mode == .ready || s.mode == .running

end Sys2Proof.Machine
end

