-- ==== Sys2Proof/Machine/End.lean ====
section
/-!
DEFINITION. How a step ends: its tags (R238), its completion (R20), the release of its
rewind record with its pending statistics and its route line (R258, R259, R263, R358).
-/

namespace Sys2Proof.Machine

/-! ### Provenance tags (R238) -/

/-- Tokens of a step's share in a block of OUT_TENSOR: under R239 a share is whole blocks. -/
def blockTokens : Nat := 4096

/-- A block's word in the side array. -/
def State.writeTag (s : State) (t : Step) (blk : Nat) (bad : Bool) : State :=
  s.writeMem (s.obj Obj.RZ_TAG_BASE + blk * 8) (leBytes 8 (if bad then 0 else t.tag.toNat))

/-- A token of a block has retired; the block's last one writes the tag, or 0 after a poisoned or cancelled one. -/
def State.tagToken (s : State) (b : Bool) (blk : Nat) (bad : Bool) : State :=
  match s.steps.get b with
  | none => s
  | some t =>
    if !Desc.tagEn t.desc then s
    else
      let old := (assoc (t.blocks.map (fun x => (x.1, x.2))) blk).getD (0, false)
      let now := (old.1 + 1, old.2 || bad)
      let rest := t.blocks.filter (fun x => x.1 != blk)
      if now.1 = blockTokens then (s.setStep b { t with blocks := rest }).writeTag t blk now.2
      else s.setStep b { t with blocks := rest ++ [(blk, now.1, now.2)] }

/-- A cancelled step's blocks: 0 for each block with a token of it still in the ledger, or not yet complete. -/
def State.tagCancelled (s : State) (b : Bool) : State :=
  match s.steps.get b with
  | none => s
  | some t =>
    if !Desc.tagEn t.desc then s
    else
      let live := (s.flue.ledger.filter (fun p => entryBank p.1 == b && LEntry.state p.2 != 0)).map
        (fun p => LEntry.homeBlock p.2)
      let blks := (t.blocks.map (·.1) ++ live).eraseDups
      blks.foldl (fun s k => s.writeTag t k true) (s.setStep b { t with blocks := [] })

/-! ### Completion -/

/-- Scored units of this engine's share. -/
def State.unitsOf (s : State) (d : Desc) : Nat := (s.shareOf d).2 / Desc.w d

/-- Writes of the step to homes are outstanding on the fabric. -/
def State.homeOps (s : State) (b : Bool) : Bool :=
  let at_ (x : Serve) : Bool := match x with | .home e => entryBank e == b | _ => false
  s.fabric.ops.any (fun o => at_ o.serve) || s.fabric.waitQ.any (fun w => at_ w.serve)

/-- The step completes when its last entry retires (R20): every unit scored, the walk done, no entry held, no row of it
waiting to be acknowledged. -/
def State.stepDone (s : State) (b : Bool) (t : Step) : Bool :=
  Step.live t && !t.cancelled && t.ended == .no && decide (s.unitsOf t.desc ≤ t.units) &&
  (t.walked || s.role == 2) && !s.bankInUse b && !s.homeOps b && !s.flue.zeros.any (fun z => entryBank z.1 == b)

/-! ### Statistics (R258, R259) -/

/-- A word of the statistics blocks and areas. -/
def State.statAddr (s : State) (off i : Nat) : Nat := s.obj Obj.RZ_STATS_BASE + off + 4 * i

/-- Offset of a bank's weight-mass area (Table 10-7). -/
def massOff (b : Bool) : Nat := 2097152 + b2n b * 262144

def sat32 (n : Nat) : Nat := min n 0xFFFFFFFF

/-- The LOCAL block's header fields: STEPS, SLOTS_CMP, SLOTS_CHG, MEMBERS. -/
def statHeader (steps cmp chg members : Nat) : List Byte :=
  toBytes (packed 512 [(32, steps), (64, cmp), (64, chg), (32, members), (320, 0)])

/-- A step's pending figures enter LOCAL (R259). -/
def State.commitStats (s : State) (b : Bool) : State :=
  match s.steps.get b with
  | none => s
  | some t =>
    if !t.pendStats then s
    else
      let base := s.obj Obj.RZ_STATS_BASE
      let h : BitVec 512 := ofBytes 512 (s.readMem base 64)
      let counts := s.tables.hist.get b
      let s := s.writeMem base (statHeader ((fld h 511 480 + 1) % 2 ^ 32) ((fld h 479 416 + t.slotsCmp) % 2 ^ 64)
        ((fld h 415 352 + t.slotsChg) % 2 ^ 64) 1)
      let s := counts.foldl (fun s p =>
        let i := p.1
        let a := countOf t.admits i
        let chosen := s.readMemNat (s.statAddr 64 i) 4
        let ashed := s.readMemNat (s.statAddr 262208 i) 4
        let mass : F32 := BitVec.ofNat 32 (s.readMemNat (s.statAddr 524352 i) 4)
        let step : F32 := BitVec.ofNat 32 (s.readMemNat (s.statAddr (massOff b) i) 4)
        let s := s.writeMemNat (s.statAddr 64 i) 4 ((chosen + p.2) % 2 ^ 32)
        let s := s.writeMemNat (s.statAddr 262208 i) 4 ((ashed + (p.2 - a)) % 2 ^ 32)
        s.writeMemNat (s.statAddr 524352 i) 4 (F32.add mass step).toNat) s
      s.setStep b { t with pendStats := false }

/-- Route-line completion (R263). -/
def State.commitLine (s : State) (b : Bool) : State :=
  match s.steps.get b with
  | none => s
  | some t =>
    match t.line, t.ended with
    | some i, .complete =>
      let r : RMap := Tabs.get (fun _ => (0 : BitVec 128)) s.tables.routeMap i
      let s := { s with tables := { s.tables with
        routeMap := Tabs.set (fun _ => (0 : BitVec 128)) s.tables.routeMap i (RMap.setHalf r (!RMap.cur r) true) } }
      s.setStep b { t with line := none }
    | _, _ => s

/-- Figures and route lines of completed steps whose rewind records are released are committed, in the order in which the steps
were accepted: a step's wait until no step accepted before it is live (R259). -/
def State.commitFreed (s : State) : State :=
  let freed (b : Bool) : Bool := match s.steps.get b with | some t => t.rewind.isNone && t.retired | none => true
  let commit (s : State) (b : Bool) : State := if freed b then (s.commitStats b).commitLine b else s
  match s.stepOrder with
  | [a, b] => if freed a then commit (commit s a) b else s
  | bs => bs.foldl commit s

/-- STATUS 0x10: the records, and the bank is free (R23, R48). Its figures stay pending while its rewind record is kept
(R259, R358). -/
def State.completeStep (s : State) (b : Bool) (t : Step) : State :=
  let t := { t with ended := .complete, endedAt := some s.core, retired := true, pendStats := s.role == 0 }
  ((s.setStep b t).endRecords t 0x10).commitFreed

def State.tryComplete (s : State) (b : Bool) : State :=
  match s.steps.get b with
  | some t => if s.stepDone b t then s.completeStep b t else s
  | none => s

/-- A token's entry retires with its write, or decided non-write, done (R20, R226, R238). -/
def State.retire (s : State) (e : Nat) (bad : Bool) : State :=
  let b := entryBank e
  ((s.tagToken b (LEntry.homeBlock (s.entry e)) bad).freeEntry e).tryComplete b

/-- A rewind record is released (R358). -/
def State.releaseRecord (s : State) (b : Bool) : State :=
  match s.steps.get b with
  | none => s
  | some t =>
    if t.rewind.isNone then s
    else
      let s := (s.commitStats b).commitLine b
      s.onStep b (fun t => { t with rewind := none })

end Sys2Proof.Machine
end

