-- ==== Sys2Proof/Machine/Gateway.lean ====
section
/-!
DEFINITION. Far traffic out of the engine: aggregation buffers, bulks and their offers (R169, R170, R206, R208).
-/

namespace Sys2Proof.Machine

/-- A packet's bytes, header first. -/
def pktBytes (p : Packet) : List Byte := toBytes p.hdr ++ p.payload

/-- Aggregation buffers in use: open, flushed, and offered ones until they are acknowledged. -/
def State.aggUsed (s : State) : List Nat :=
  s.bellows.aggs.map (·.slot) ++ s.bellows.waiting.map (·.slot) ++ s.bellows.bulks.map (·.slot)

def State.freeAgg (s : State) : Option Nat :=
  let used := s.aggUsed
  (List.range (s.obj Obj.RZ_AGG_SLOTS)).find? (fun i => !used.contains i)

/-- A bulk header (Table 7-3) over a body. -/
def bulkHdr (src rack pkts : Nat) (seq incarn : BitVec 32) (body : List Byte) : BitVec 512 :=
  packed 512 [(4, 6), (4, 0), (17, src), (9, rack), (13, pkts), (21, 64 + body.length), (12, 0), (32, seq.toNat),
    (32, (crc32 body).toNat), (32, incarn.toNat), (336, 0)]

def zero32 : Nat → BitVec 32 := fun _ => 0

/-- Where an aggregation buffer lies: a bulk header's place, then its packets (R169). -/
def State.aggAddr (s : State) (slot : Nat) : Nat := s.obj Obj.RZ_AGG_BASE + 1048576 * slot

/-- A bulk leaves as its buffer holds it, where GATE is up (R368). -/
def State.emitBulk (s : State) (b : Bulk) : State :=
  let bs := s.readMem (s.aggAddr b.slot) b.bytes
  if s.gateOpen then s.emit (.bulk (ofBytes 512 (bs.take 64)) (bs.drop 64)) else s

/-- A flushed buffer is offered when the rack's bulks in flight are below RZ_GATE_INFLIGHT, GATE is up and an incarnation
has been taken (R206, R208). -/
def State.offerBulk (s : State) (a : Agg) : Option State :=
  let inFlight := (s.bellows.bulks.filter (fun b => b.rack == a.rack)).length
  match s.bellows.incarn with
  | none => none
  | some inc =>
    if decide (s.obj Obj.RZ_GATE_INFLIGHT ≤ inFlight) || !s.gateOpen then none
    else
      let seq := Tabs.get zero32 s.bellows.bulkSeq a.rack
      let body := s.readMem (s.aggAddr a.slot + 64) (a.bytes - 64)
      let s := s.writeMem (s.aggAddr a.slot) (toBytes (bulkHdr s.node a.rack a.hdrs.length seq inc body))
      let b : Bulk :=
        { slot := a.slot, rack := a.rack, seq := seq, hdrs := a.hdrs, bytes := a.bytes, ctxs := a.ctxs, offers := 0, sentAt := s.core }
      let s := { s with bellows := { s.bellows with
        bulks := s.bellows.bulks ++ [b], bulkSeq := Tabs.set zero32 s.bellows.bulkSeq a.rack (seq + 1) } }
      some ((s.count Obj.RZ_BULK_SENT 1).emitBulk b)

/-- Flushed buffers are offered in their order, as far as they can be. -/
def State.pumpBulks (s : State) : State :=
  let q := s.bellows.waiting
  q.foldl (fun s a =>
    match State.offerBulk s a with
    | some s => s
    | none => { s with bellows := { s.bellows with waiting := s.bellows.waiting ++ [a] } })
    { s with bellows := { s.bellows with waiting := [] } }

/-- An open buffer is flushed as one bulk transfer (R169). -/
def State.flushAgg (s : State) (rack : Nat) : State :=
  match s.bellows.aggs.find? (fun a => a.rack == rack) with
  | none => s
  | some a => State.pumpBulks { s with bellows := { s.bellows with
      aggs := s.bellows.aggs.filter (fun a => a.rack != rack), waiting := s.bellows.waiting ++ [a] } }

/-- The buffer opened earliest is flushed. -/
def State.flushOldest (s : State) : State :=
  match s.bellows.aggs with
  | [] => s
  | a :: _ => s.flushAgg a.rack

/-- A free buffer as it opens. -/
def State.newAgg (s : State) (rack : Nat) : Option Agg :=
  s.freeAgg.map (fun slot => { slot := slot, rack := rack, hdrs := [], bytes := 64, opened := s.core, ctxs := [] })

/-- A packet is copied into a buffer, header first; the flue context that holds it is noted. -/
def State.fillAgg (s : State) (a : Agg) (p : Packet) (ctx : Option Nat) : Agg × State :=
  let bs := pktBytes p
  ({ a with hdrs := a.hdrs ++ [p.hdr], bytes := a.bytes + bs.length, ctxs := a.ctxs ++ ctx.toList },
    s.writeMem (s.aggAddr a.slot + a.bytes) bs)

/-- A packet that a bulk carries alone, in answer to a replay request: its buffer is flushed at once (R169). -/
def State.copyAlone (s : State) (rack : Nat) (p : Packet) (ctx : Option Nat) : State × Bool :=
  match s.newAgg rack with
  | none => (s, false)
  | some a =>
    let (a, s) := s.fillAgg a p ctx
    (State.pumpBulks { s with bellows := { s.bellows with waiting := s.bellows.waiting ++ [a] } }, true)

/-- A packet is copied into its rack's open buffer, which is flushed first where the packet would overfill it, and after it
where it holds 8,191 packets (R169). False while no buffer is free. -/
def State.aggregate (s : State) (rack : Nat) (p : Packet) (ctx : Option Nat) : State × Bool :=
  let mine (a : Agg) : Bool := a.rack == rack
  let s := match s.bellows.aggs.find? mine with
    | some a => if 1048576 < a.bytes + (pktBytes p).length then s.flushAgg rack else s
    | none => s
  match s.bellows.aggs.find? mine with
  | some a =>
    let (a, s) := s.fillAgg a p ctx
    let s := { s with bellows := { s.bellows with aggs := s.bellows.aggs.map (fun x => if x.rack = rack then a else x) } }
    (if 8191 ≤ a.hdrs.length then s.flushAgg rack else s, true)
  | none =>
    match s.newAgg rack with
    | none => (s, false)
    | some a =>
      let (a, s) := s.fillAgg a p ctx
      ({ s with bellows := { s.bellows with aggs := s.bellows.aggs ++ [a] } }, true)

/-- A far packet is copied, or waits for a buffer while the one opened earliest is flushed. A return keeps its flue context
until its bulk is acknowledged (R221). -/
def State.copyFar (s : State) (w : FarWait) : State :=
  let (s, copied) := if w.alone then s.copyAlone w.rack w.packet w.ctx else s.aggregate w.rack w.packet w.ctx
  if copied then s
  else
    let s := s.flushOldest
    { s with bellows := { s.bellows with farWait := s.bellows.farWait ++ [w] } }

/-- Packets that waited for a buffer are copied as buffers come free. -/
def State.pumpFar (s : State) : State :=
  s.bellows.farWait.foldl State.copyFar { s with bellows := { s.bellows with farWait := [] } }

/-- Flue contexts hold nothing any more that a buffer or a bulk carries. -/
def State.unholdFar (s : State) (ns : List Nat) : State :=
  let keep (l : List Nat) : List Nat := l.filter (fun n => !ns.contains n)
  let agg (a : Agg) : Agg := { a with ctxs := keep a.ctxs }
  { s with bellows := { s.bellows with
      aggs := s.bellows.aggs.map agg
      waiting := s.bellows.waiting.map agg
      bulks := s.bellows.bulks.map (fun b => { b with ctxs := keep b.ctxs }) } }

/-- A bulk is over: its buffer and the flue contexts of its returns are free, and what waited may be offered or copied. -/
def State.dropBulk (s : State) (b : Bulk) : State :=
  (State.pumpBulks { s with
    bellows := { s.bellows with bulks := s.bellows.bulks.erase b }
    flue := { s.flue with ctxs := s.flue.ctxs.filter (fun c => !b.ctxs.contains c.num) } }).pumpFar

/-- A packet of a key waits to be sent in a bulk. -/
def State.farHeld (s : State) (k : Key) : Bool :=
  let has (hs : List (BitVec 256)) : Bool := hs.any (fun h => decide (DHdr.type h < 5 ∧ DHdr.key h = k))
  s.bellows.aggs.any (fun a => has a.hdrs) || s.bellows.waiting.any (fun a => has a.hdrs) ||
  has (s.bellows.farWait.map (fun w => w.packet.hdr))

/-- Racks to which bulks with packets of a key have been sent and not acknowledged. -/
def State.farRacks (s : State) (k : Key) : List Nat :=
  ((s.bellows.bulks.filter (fun b => b.hdrs.any (fun h => decide (DHdr.type h < 5 ∧ DHdr.key h = k)))).map (·.rack)).eraseDups

end Sys2Proof.Machine
end

