-- ==== Sys2Proof/Machine/Pool.lean ====
section
/-!
DEFINITION. The hearth pool's shared operations (R171 to R181): cells, lists, step slots, close records, the cancelled list.
-/

namespace Sys2Proof.Machine

/-! ### Cells -/

/-- The first n cells of a free list held as runs: those, and what is left. -/
def takeRuns : List (Nat × Nat) → Nat → List (Nat × Nat) × List (Nat × Nat)
  | [], _ => ([], [])
  | (a, c) :: rs, n =>
    if n = 0 then ([], (a, c) :: rs)
    else if c ≤ n then
      let r := takeRuns rs (n - c)
      ((a, c) :: r.1, r.2)
    else ([(a, n)], (a + n, c - n) :: rs)

/-- A list or free-list pointer is updated: where its two copies differ, the mismatch is detected (R175). -/
def State.compare (s : State) (w : Sweep) : State :=
  if s.pool.differ.contains w then
    { s with pool := { s.pool with
        differ := s.pool.differ.filter (fun x => decide (x ≠ w)), sweeps := s.pool.sweeps ++ [w] } }
  else s

/-- Cells leave the free list; the lowest free count is kept (Table 7-7). -/
def State.takeCells (s : State) (n : Nat) : List (Nat × Nat) × State :=
  let r := takeRuns s.pool.free n
  let s := State.compare { s with pool := { s.pool with free := r.2 } } .free
  (r.1, s.setObj Obj.RZ_POOL_MIN_FREE (min (s.obj Obj.RZ_POOL_MIN_FREE) s.poolFree))

/-! ### Lists and slots -/

def noPkts : Nat → List PoolPkt := fun _ => []
def noSlots : Nat → List PSlot := fun _ => []
def noCloses : Nat → List PClose := fun _ => []

def State.poolList (s : State) (q cls : Nat) : List PoolPkt := Tabs.get noPkts s.pool.lists (4 * q + cls)

def State.setPoolList (s : State) (q cls : Nat) (l : List PoolPkt) : State :=
  State.compare { s with pool := { s.pool with lists := Tabs.set noPkts s.pool.lists (4 * q + cls) l } } (.list q cls)

def State.slotsOf (s : State) (q : Nat) : List PSlot := Tabs.get noSlots s.pool.slots q

def State.setSlots (s : State) (q : Nat) (l : List PSlot) : State :=
  { s with pool := { s.pool with slots := Tabs.set noSlots s.pool.slots q l } }

def State.slotOf (s : State) (q : Nat) (k : Key) : Option PSlot := (s.slotsOf q).find? (fun x => decide (x.key = k))

/-- A slot changed in place. -/
def State.onSlot (s : State) (q : Nat) (k : Key) (f : PSlot → PSlot) : State :=
  s.setSlots q ((s.slotsOf q).map (fun x => if x.key = k then f x else x))

def State.dropSlot (s : State) (q : Nat) (k : Key) : State :=
  s.setSlots q ((s.slotsOf q).filter (fun x => decide (x.key ≠ k)))

def State.closesOf (s : State) (q : Nat) : List PClose := Tabs.get noCloses s.pool.closes q

def State.setCloses (s : State) (q : Nat) (l : List PClose) : State :=
  { s with pool := { s.pool with closes := Tabs.set noCloses s.pool.closes q l } }

/-- A slot opened by a packet, a marker, or a cancel. -/
def newSlot (k : Key) (placeEpoch fmt dSlices : Nat) (sender : BitVec 17) : PSlot :=
  { key := k, placeEpoch := placeEpoch, commits := 0, final := none, halfEnd := none, halfClosed := false, delivered := 0,
    lastPrio := none, fmt := fmt, dSlices := dSlices, sender := sender, closed := false }

/-! ### Close records -/

/-- The close record of Table 7-6. -/
def closeHdr (x : PSlot) (q inst half first count : Nat) (cancelled : Bool) : BitVec 256 :=
  let prio := if 2044 ≤ q then 1 else x.lastPrio.getD 2
  packed 256 [(4, 3), (2, prio), (2, half), (12, x.key.batch.toNat), (16, x.placeEpoch), (32, x.key.stepId.toNat),
    (16, inst), (1, b2n cancelled), (11, q), (20, count), (21, roundUp (first + count) 32), (2, x.fmt), (8, x.dSlices),
    (20, first), (89, 0)]

/-- The instance a queue serves at a slot's placement epoch. -/
def State.queueInst (s : State) (placeEpoch q : Nat) : Nat := QEntry.inst (s.queueEntry (placeEpoch % 2 == 1) q)

/-- A close record that found no free cell, and none was admitted (R172, R175). -/
def PClose.starved (x : PClose) : Bool := x.cells.isEmpty

/-- A cell for a close record; none while the free list is empty or being rebuilt (R172, R175). -/
def State.closeCell (s : State) : List (Nat × Nat) × State :=
  if s.pool.sweeps.contains .free then ([], s) else s.takeCells 1

/-- One record that found no cell takes one. -/
def State.feedClose (s : State) : State :=
  match s.pool.closes.find? (fun p => p.2.any PClose.starved) with
  | none => s
  | some (q, l) =>
    let i := (l.findIdx? PClose.starved).getD 0
    let (cells, s) := s.closeCell
    s.setCloses q (l.mapIdx (fun j x => if j = i then { x with cells := cells } else x))

/-- Records that found no cell take one, as far as there are any. -/
def State.feedCloses (s : State) : State :=
  (List.range ((s.pool.closes.map (fun p => p.2.countP PClose.starved)).sum)).foldl (fun s _ => s.feedClose) s

/-- Cells return to the tail of the free list; records that wait for one take it. -/
def State.giveCells (s : State) (rs : List (Nat × Nat)) : State :=
  State.feedCloses (State.compare { s with pool := { s.pool with free := s.pool.free ++ rs } } .free)

/-- A close record joins its queue: deliverable once `need` packets of the slot have been delivered (R179). It takes a free
cell (R172). -/
def State.pushClose (s : State) (q : Nat) (x : PSlot) (half first count need : Nat) (cancelled last : Bool) : State :=
  let (cells, s) := s.closeCell
  let c : PClose :=
    { hdr := closeHdr x q (s.queueInst x.placeEpoch q) half first count cancelled, key := x.key, need := need, last := last,
      cells := cells, ahead := [0, 1, 2, 3].map (fun c => (s.poolList q c).length) }
  s.setCloses q (s.closesOf q ++ [c])

/-- HALF of a slot in two-half mode (Table 7-5). -/
def slotHalf (x : PSlot) : Nat := if x.halfClosed then 2 else if x.halfEnd.isSome then 1 else 0

/-- What is due for a slot of a queue (R179, R183): the first half's record, the record of the whole step or second half. The
manual does not say what follows a FINAL that commits before the HALF_END: the slot closes as a whole step does (log entry
37). -/
def State.closeDue (s : State) (q : Nat) (k : Key) : State :=
  match s.slotOf q k with
  | none => s
  | some x =>
    if x.closed then s
    else
      let (s, x) := match x.halfEnd with
        | some a =>
          if !x.halfClosed && decide (a ≤ x.commits) then
            (s.pushClose q x 1 0 a a false false, { x with halfClosed := true })
          else (s, x)
        | none => (s, x)
      let (s, x) := match x.final with
        | some n =>
          if n ≤ x.commits && (x.halfEnd.isNone || x.halfClosed) then
            let first := if x.halfClosed then x.halfEnd.getD 0 else 0
            (s.pushClose q x (if x.halfClosed then 2 else 0) first (n - first) n false true, { x with closed := true })
          else (s, x)
        | none => (s, x)
      s.onSlot q k (fun _ => x)

/-- Packets of a key leave a queue's lists, their cells freed. -/
def State.dropPackets (s : State) (q : Nat) (k : Key) : State :=
  [0, 1, 2, 3].foldl (fun s c =>
    let l := s.poolList q c
    let gone := l.filter (fun p => decide (DHdr.key p.hdr = k))
    if gone.isEmpty then s
    else
      let keep (p : PoolPkt) : Bool := decide (DHdr.key p.hdr ≠ k)
      let s := (gone.foldl (fun s p => State.giveCells s p.cells) s).setPoolList q c (l.filter keep)
      s.setCloses q ((s.closesOf q).map (fun x =>
        { x with ahead := x.ahead.mapIdx (fun i n => if i = c then (l.take n).countP keep else n) }))) s

/-- Packets of a slot already delivered, one that a die port is sending among them. -/
def State.deliveredOf (s : State) (q : Nat) (x : PSlot) : Nat :=
  x.delivered + s.dies.countP (fun d => match d.sending with
    | some m => decide (m.slot = some (q, x.key))
    | none => false)

/-- A queue's slot of a key closes with CANCELLED (R175, R181): COUNT is what was delivered (Table 7-5); a slot is created
where none is open. Format fields no packet gave are free values. Records of the slot not yet delivered give back their cells.
-/
def State.cancelSlot (s : State) (q : Nat) (k : Key) (placeEpoch : Nat) : State :=
  let (s, x) := match s.slotOf q k with
    | some x => (s, x)
    | none =>
      let (f, s) := s.takeFree
      let x := newSlot k placeEpoch (bits f.toNat 1 0) (bits f.toNat 9 2) (BitVec.ofNat 17 s.node)
      (s.setSlots q (s.slotsOf q ++ [x]), x)
  let gone := (s.closesOf q).filter (fun c => decide (c.key = k))
  let s := s.setCloses q ((s.closesOf q).filter (fun c => decide (c.key ≠ k)))
  let s := gone.foldl (fun s c => s.giveCells c.cells) s
  let s := s.pushClose q x (slotHalf x) 0 (s.deliveredOf q x) 0 true true
  s.onSlot q k (fun x => { x with closed := true })

/-- The key enters the cancelled list of 16, replacing the oldest (R181). -/
def State.listCancelled (s : State) (k : Key) : State :=
  let l := s.pool.cancelled ++ [k]
  { s with pool := { s.pool with cancelled := l.drop (l.length - 16) } }

/-- A mismatch of the two copies of a pointer (R175): what a command that updates a list, or the free list, is told to find,
beside what `State.compare` finds. -/
def State.pointerCheck (s : State) (chk : Arrival) (list : Option (Nat × Nat)) : State :=
  match chk, list with
  | .listPointer, some (q, c) => { s with pool := { s.pool with sweeps := s.pool.sweeps ++ [.list q c] } }
  | .freePointer, _ => { s with pool := { s.pool with sweeps := s.pool.sweeps ++ [.free] } }
  | _, _ => s

/-- Queue numbers that hold anything of a key. -/
def State.queuesHolding (s : State) (k : Key) : List Nat :=
  ((s.pool.lists.filter (fun p => p.2.any (fun x => decide (DHdr.key x.hdr = k)))).map (fun p => p.1 / 4)).eraseDups

/-- A pool takes a cancel: the list, the packets, its routed queues of instances below E (R181). A key already listed changes
nothing. -/
def State.cancelPool (s : State) (k : Key) (placeEpoch e : Nat) : State :=
  if s.pool.cancelled.contains k then s
  else
    let s := s.listCancelled k
    let s := (s.queuesHolding k).foldl (fun s q => s.dropPackets q k) s
    let m := s.tables.qmap.get (placeEpoch % 2 == 1)
    let qs := (m.filter (fun p => QEntry.valid (BitVec.ofNat 64 p.2.toNat) && decide (p.1 < 2044) &&
      decide (QEntry.inst p.2 / 16 < e))).map (·.1)
    qs.foldl (fun s q => s.cancelSlot q k placeEpoch) s

/-- A member closes its shared queues for a cancelled key (R181). -/
def State.cancelShared (s : State) (k : Key) (placeEpoch shared : Nat) : State :=
  (List.range shared).foldl (fun s i => (s.dropPackets (2044 + i) k).cancelSlot (2044 + i) k placeEpoch) s

end Sys2Proof.Machine
end

