-- ==== Sys2Proof/Machine/Cancel.lean ====
section
/-!
DEFINITION. Cancelling a key (R131, R181, R231 to R234) and marking a step for re-run (R356, R357): the shared operations of
every command that ends a step before its time.
-/

namespace Sys2Proof.Machine

/-! ### Returns and receipts that leave -/

/-- A TYPE 0x8 drain receipt (R220). -/
def drainPkt (d : Drain) (src dst : Nat) : Packet :=
  { hdr := packed 256 [(4, 8), (1, 0), (1, b2n d.bank), (1, b2n d.failed), (1, 0), (12, d.key.batch.toNat), (16, d.place),
      (17, dst), (39, 0), (17, src), (21, 0), (32, d.key.stepId.toNat), (94, 0)]
    payload := [] }

/-- A drain receipt is taken by the open cancel fence of its key, until that completes (R234); any other is discarded and
counted. -/
def State.takeDrain (s : State) (p : Packet) : State :=
  let ok := RHdr.type p.hdr == 8 && fld p.hdr 251 251 == 0 && fld p.hdr 248 248 == 0 && fld p.hdr 202 164 == 0 &&
    fld p.hdr 146 126 == 0 && fld p.hdr 93 0 == 0
  let open? (b : Bool) : Bool :=
    match s.steps.get b with
    | some t => Step.isKey t (RHdr.key p.hdr) && t.fence.any (fun f => !f.swept)
    | none => false
  if ok && (open? false || open? true) then
    s.onStep (!open? false) (fun t => { t with fence := t.fence.map (fun f =>
      { f with receipts := (f.receipts ++ [RHdr.expNode p.hdr]).eraseDups, poison := f.poison || RHdr.poison p.hdr }) })
  else s.count Obj.RZ_STALE_RETURN 1

/-- A packet without payload goes to another engine: the peer path, a FLUE_STORE, a bulk (Table 7-1). -/
def State.sendReceipt (s : State) (dst : Nat) (p : Packet) (key : Key) : State :=
  match s.route dst with
  | .own => s.takeDrain p
  | .peer => s.toPeer (.packet p)
  | .rack => s.requestTo dst 0x05 1 32 0 0 (.bytes (pktBytes p)) (.receipt key)
  | .far => s.copyFar { rack := nodeRack dst, packet := p, ctx := none, alone := false }

/-! ### Drains of a fronting engine (R233) -/

/-- Reductions of a key are open: on the fabric, or over the NOC. -/
def State.reducing (s : State) (k : Key) : Bool :=
  s.fabric.fences.any (fun f => !f.half && decide (f.key = k)) || s.flue.nocReds.any (fun r => decide (r.key = k))

/-- A completed drain sends one receipt to every member of the group. -/
def State.finishDrain (s : State) (d : Drain) : State :=
  let s := { s with flue := { s.flue with drains := s.flue.drains.filter (fun x => decide (x.key ≠ d.key)) } }
  (s.members d.group.toNat).foldl (fun s m => s.sendReceipt m (drainPkt d s.node m) d.key) s

/-- Every packet of half 0 of a step has been acknowledged: the secondary is told (R183). -/
def State.reportHalf (s : State) (k : Key) : State :=
  match s.keyStep k with
  | some (b, t) => (s.toPeer (.halfZero (Desc.stepId t.desc))).onStep b (fun t => { t with halfSent := true })
  | none => s

/-- Fences of whose sets nothing is open any more complete (R203, R204), and with them the drains and the reports that they hold
up. -/
def State.checkFences (s : State) : State :=
  let done := s.fabric.fences.filter s.fenceDone
  let fail (d : Drain) : Drain := { d with failed := d.failed || done.any (fun f => !f.half && decide (f.key = d.key) && f.failed) }
  let s := { s with
    fabric := { s.fabric with fences := s.fabric.fences.filter (fun f => !s.fenceDone f) }
    flue := { s.flue with drains := s.flue.drains.map fail } }
  let s := (done.filter (·.half)).foldl (fun s f => s.reportHalf f.key) s
  (s.flue.drains.filter (fun d => !s.reducing d.key)).foldl State.finishDrain s

/-- What a held operation of a key serves, when it is a reduction of it. -/
def Serve.reduces (k : Key) : Serve → Bool
  | .reduce _ key _ => decide (key = k)
  | _ => false

/-- A flue context holds a return of a key for sending, or its reductions. -/
def FlueUse.sends (k : Key) : FlueUse → Bool
  | .send p _ => decide (RHdr.key p.hdr = k)
  | .reduce p _ _ => decide (RHdr.key p.hdr = k)
  | _ => false

/-- Returns of a key that wait to be sent, and reductions of it that wait to be issued, are dropped; the contexts that held
them are free. -/
def State.dropSends (s : State) (k : Key) : State :=
  let gone := (s.flue.ctxs.filter (fun c => c.use.sends k)).map (·.num)
  let keepFar (w : FarWait) : Bool :=
    match w.ctx with
    | some n => !gone.contains n
    | none => true
  let keepWait (w : FabWait) : Bool :=
    !w.serve.reduces k && (match w.serve with | .flue n _ => !gone.contains n | _ => true)
  State.unholdFar { s with
    flue := { s.flue with
      ctxs := s.flue.ctxs.filter (fun c => !c.use.sends k)
      ownPath := s.flue.ownPath.filter (fun p => decide (RHdr.key p.hdr ≠ k))
      farKept := s.flue.farKept.filter (fun x => decide (RHdr.key x.1.hdr ≠ k)) }
    bellows := { s.bellows with farWait := s.bellows.farWait.filter keepFar }
    fabric := { s.fabric with
      waitQ := s.fabric.waitQ.filter keepWait
      resend := s.fabric.resend.filter (fun w => keepWait w.2) } } gone

/-- A fronting engine takes the cancel of a key (R233): it fences its open reductions over every destination, that is every
one to which an operation is open. BANK of its receipts comes from its own step of the key; an engine with none of it gives a
free value. -/
def State.frontCancel (s : State) (k : Key) (place : Nat) (group : BitVec 8) : State :=
  let s := s.dropSends k
  let s :=
    if s.fabric.ops.any (fun o => o.serve.reduces k) then
      let dests := (s.fabric.ops.flatMap (fun o => o.dst :: o.members)).eraseDups
      { s with fabric := { s.fabric with fences := s.fabric.fences ++ [s.fenceOver k dests [] false] } }
    else s
  let (bank, s) := match s.bankOf k with
    | some b => (b, s)
    | none => let (v, s) := s.takeFree; (v.getLsbD 0, s)
  let d : Drain := { key := k, group := group, place := place, bank := bank, failed := false }
  State.checkFences { s with flue := { s.flue with drains := s.flue.drains ++ [d] } }

/-! ### The cancel notice (R181) -/

/-- Engines that the placement at an epoch names as hosts. -/
def State.hosts (s : State) (placeEpoch : Nat) : List Nat :=
  (((s.tables.place.get (placeEpoch % 2 == 1)).filter (fun p => PEntry.valid p.2)).map
    (fun p => PEntry.node p.2)).eraseDups

/-- The multicast group for a notice to engines of this rack: the first that lists these alone, the requester apart, or else the
first that lists them among others, which then have the notice too (log entry 23); none that lists this engine's peer, whose
traffic keeps off the fabric (R18). -/
def State.groupFor (s : State) (nodes : List Nat) : Option Nat :=
  let lists (g : Nat) : Bool :=
    decide (g ≠ 0) && nodes.all (s.mcastNodes g).contains && !(s.mcastNodes g).contains (peerOf s.node)
  let alone (g : Nat) : Bool := ((s.mcastNodes g).filter (· != s.node)).all nodes.contains
  let gs := (List.range 256).filter lists
  (gs.find? alone).or gs.head?

/-- A notice to engines of this rack: by multicast store; where no group lists them, by a POOL_STORE to each (Table 8-1). Its
ADDR, and as an MSTORE its LEN, are free values. -/
def State.noticeNear (s : State) (near : List Nat) (n : Notice) (k : Key) : State :=
  if near.isEmpty then s
  else
    match s.groupFor near with
    | some g =>
      let (a, s) := s.freeAddr
      let (l, s) := s.freeLen
      s.mstore g 6 l a (.msg (.cancel n)) (.notice (some k))
    | none => near.foldl (fun s m => s.requestTo m 0x04 6 32 0 0 (.msg (.cancel n)) (.notice (some k))) s

/-- The group's first member tells every engine that hosts an instance: members of this package take the cancel themselves, a
peer that is no member hears of it over the peer path, the rack's others by noticeNear, each other rack's by one gateway
message. -/
def State.sendNotice (s : State) (t : Step) : State :=
  let d := t.desc
  let n : Notice :=
    { stepId := Desc.stepId d, batch := Desc.batch d, place := BitVec.ofNat 16 (Desc.placeEpoch d),
      e := BitVec.ofNat 13 (Desc.e d), group := BitVec.ofNat 8 (Desc.admGroup d) }
  let hosts := s.hosts (Desc.placeEpoch d)
  let s := if hosts.any (fun h => decide (s.route h = .peer) && !t.members.contains h) then s.toPeer (.cancel n) else s
  let s := s.noticeNear (hosts.filter (fun h => decide (s.route h = .rack))) n (Step.key t)
  (((hosts.filter (fun h => decide (s.route h = .far))).map nodeRack).eraseDups).foldl (fun s r => s.toGate r (.cancel n)) s

/-! ### The cancel of this engine's step (R131, R231, R232) -/

/-- The bellows drops what of the key has not left (R131). -/
def State.cancelBellows (s : State) (k : Key) : State :=
  { s with bellows := { s.bellows with
      pend := s.bellows.pend.filter (fun p => decide (DHdr.key p.hdr ≠ k))
      farReplays := s.bellows.farReplays.filter (fun f => decide (f.key ≠ k))
      ctxs := s.bellows.ctxs.filter (fun c =>
        match c.st with
        | .sent => true
        | _ => decide (DHdr.key c.hdr ≠ k)) } }

/-- Rows of a bank's tokens of which no part has been issued are not written (R232); what held them is free. -/
def State.dropUnissued (s : State) (b : Bool) : State :=
  let gone := s.flue.unissued.filter (fun e => entryBank e == b)
  let keep (e : Nat) : Bool := !gone.contains e
  { s with
    flue := { s.flue with
      unissued := s.flue.unissued.filter keep
      zeroing := s.flue.zeroing.filter keep
      zeros := s.flue.zeros.filter (fun z => keep z.1)
      ctxs := s.flue.ctxs.filter (fun c => match c.use with | .write e _ => keep e | _ => true) }
    fabric := { s.fabric with
      waitQ := s.fabric.waitQ.filter (fun w => match w.serve with | .home e => keep e | _ => true) } }

/-- The flue drops the bank's tokens that wait (R232): the combine queue, their rows, rows not issued; issued writes complete.
What was being fetched for the bank's step is of no use. -/
def State.cancelFlue (s : State) (b : Bool) : State :=
  let s := s.dropUnissued b
  let s := { s with
    flue := { s.flue with combineQ := s.flue.combineQ.filter (fun e => entryBank e != b) }
    bellows := { s.bellows with gathers := s.bellows.gathers.filter (fun e => entryBank e != b) } }
  let mine (u : FetchUse) : Bool :=
    match u with
    | .unit b' _ => b' == b
    | .gather e => entryBank e == b
    | _ => false
  ((s.dropFetches mine).dropRows (fun e => entryBank e != b)).cancelEntries b

/-- The key of a bank's step is cancelled: R131, R232, R181, R233, and the fence of R234 opens. -/
def State.cancelKey (s : State) (b : Bool) : State :=
  match s.steps.get b with
  | none => s
  | some t =>
    if t.cancelled || t.retired then s
    else
      let d := t.desc
      let k := Step.key t
      let f : CFence := { since := s.core, receipts := [], missing := 0, poison := false, swept := false }
      let s := s.setStep b { t with cancelled := true, fence := some f }
      let s := { s with fabric := { s.fabric with fences := s.fabric.fences.filter (fun x => !(x.half && decide (x.key = k))) } }
      let s := (s.cancelBellows k).cancelFlue b
      let s := if t.pos = 0 then s.sendNotice t else s
      let s := s.cancelPool k (Desc.placeEpoch d) (Desc.e d)
      let s := s.cancelShared k (Desc.placeEpoch d) (Desc.shared d)
      s.frontCancel k (Desc.placeEpoch d) (BitVec.ofNat 8 (Desc.admGroup d))

/-- A cancel event: the batch epoch advances by 1, however many keys it cancels (R231). -/
def State.advanceEpoch (s : State) : State := s.setObj Obj.RZ_BATCH_EPOCH ((s.obj Obj.RZ_BATCH_EPOCH + 1) % 4096)

/-- A step ends cancelled without a mark: status and result records with STATUS 0x12 (R48, R283). -/
def State.cancelStep (s : State) (b : Bool) : State :=
  match s.steps.get b with
  | none => s
  | some t =>
    if t.cancelled || t.retired then s
    else
      let s := s.advanceEpoch.cancelKey b
      let t' := { t with endedAt := some s.core }
      (s.onStep b (fun t => { t with ended := .cancelled, endedAt := some s.core })).endRecords t' 0x12

/-! ### Marking (R356, R357) -/

/-- A step is marked. -/
def Step.marked (t : Step) : Bool := match t.ended with | .marked _ => true | _ => false

/-- The re-run notice to every other member (R357). -/
def State.sendRerun (s : State) (t : Step) (code : Byte) (origin : BitVec 17) : State :=
  s.sendAll (t.members.filter (· != s.node)) 6 (.rerun (Step.key t) code origin) (.rerun (Step.key t))

/-- The sequencer issues nothing further once a step is marked (R359): a STEP not yet checked is dropped. -/
def State.stopIssue (s : State) : State :=
  if s.mode = .running then
    { s with seq := { s.seq with wait := .rewind, fetched := none, barrier := .cleared } }
  else s

/-- The step of a bank is marked for re-run: `advance` says that this mark is its own cancel event. -/
def State.markWith (s : State) (b : Bool) (ev : SootEv) (code : Byte) (origin : BitVec 17) (advance : Bool) : State :=
  match s.steps.get b with
  | none => s.soot_ ev
  | some t =>
    let ev := { ev with step := some (Step.key t) }
    if t.marked || t.ended == .rewound then s.soot_ ev
    else
      let s := if t.cancelled || t.retired then s
        else (if advance then s.advanceEpoch else s).cancelKey b
      let ended := if t.retired then t.endedAt else some s.core
      let s := s.onStep b (fun t => { t with ended := .marked ev.code, endedAt := ended, pendStats := false })
      let s := s.endRecords { t with endedAt := ended } 0x11
      let s := s.logFaultEnd t ev.code
      let s := (s.soot_ ev).count Obj.RZ_RERUN_COUNT 1
      (s.sendRerun t code origin).stopIssue

/-- A step is marked for a cause of this engine's own (R356). -/
def State.mark (s : State) (b : Bool) (ev : SootEv) : State :=
  s.markWith b ev (BitVec.ofNat 8 ev.code) (BitVec.ofNat 17 s.node) true

/-- The steps that one event concerns are marked in one cancel event (R231), each with its own soot entry (R356); an event that
concerns none writes its entry alone. -/
def State.markSteps (s : State) (bs : List Bool) (ev : SootEv) : State :=
  let open_ (b : Bool) : Bool := match s.steps.get b with | some t => !t.cancelled && !t.retired | none => false
  let s := if bs.any open_ then s.advanceEpoch else s
  if bs.isEmpty then s.soot_ ev
  else bs.foldl (fun s b => s.markWith b ev (BitVec.ofNat 8 ev.code) (BitVec.ofNat 17 s.node) false) s

/-- Both in-flight steps are marked. -/
def State.markBoth (s : State) (ev : SootEv) : State := s.markSteps s.liveBanks ev

/-- A notice for another engine's step goes to its scoring engine alone (R357). -/
def State.noticeTo (s : State) (scorer : Nat) (k : Key) (code : Byte) : State :=
  if scorer = s.node then
    match s.bankOf k with
    | some b => s.markWith b { code := 0x71, sev := 2, action := 1, detail := code.toNat } code (BitVec.ofNat 17 s.node) true
    | none => s
  else s.sendMsg scorer 6 (.rerun k code (BitVec.ofNat 17 s.node)) (.rerun k)

/-- A value of a key's step is lost: the step is marked where this engine holds it, as its scoring engine or another member;
else the scoring engine is told (R195). -/
def State.failStep (s : State) (scorer : Nat) (k : Key) (ev : SootEv) : State :=
  match s.bankOf k with
  | some b => s.mark b ev
  | none => (s.soot_ { ev with step := some k }).noticeTo scorer k (BitVec.ofNat 8 ev.code)

end Sys2Proof.Machine
end

