-- ==== Sys2Proof/Machine/Digests.lean ====
section
/-!
DEFINITION. The digests of R286 to R289: weights, inputs, the provenance tag.
-/

namespace Sys2Proof.Machine

/-- A digest has been formed: an engine's state is its chaining value; the engines take digests in turn (log entry 39). -/
def Digests.formed (d : Digests) (x : List Byte) : Digests := { d with sha := d.sha.drop 1 ++ [x] }

/-! ### Weights (R287) -/

/-- BANK_DIGEST as D_wt takes it: 32 zero bytes while the bank is not valid. -/
def State.bankDigest (s : State) (b : Bool) : List Byte :=
  if s.bankValid b then (s.tables.rbanks.get b).digest else zeroDigest

/-- State object of a loaded function-table slot, 11 to 15. -/
def ftabStateKey (slot : Nat) : Nat := Obj.RZ_FTAB11_STATE + (slot - 11)

/-- FTD of a slot: 32 zero bytes while it is not valid. -/
def State.slotDigest (s : State) (slot : Nat) : List Byte :=
  if s.obj (ftabStateKey slot) = 1 then (s.tables.fslots.getD (slot - 11) FSlot.cleared).digest else zeroDigest

/-- D_wt of a step that names a bank. -/
def State.weightDigest (s : State) (b : Bool) : List Byte :=
  sha256 (s.bankDigest b ++ s.digests.wdigest ++ [11, 12, 13, 14, 15].flatMap s.slotDigest)

/-- D_wt of a bank is formed; a change is recorded (WEIGHTS, Table 11-5). -/
def State.formWt (s : State) (b : Bool) : State :=
  let d := s.weightDigest b
  if d = s.digests.wt.get b then s
  else
    let s := s.logFree 0x11 d
    { s with digests := { s.digests.formed d with wt := s.digests.wt.set b d } }

/-- An expert-weight digest takes effect, after its record (Table 11-5). -/
def State.takeWdigest (s : State) (bs : List Byte) : State :=
  let s := s.logFree 0x0B bs
  let s := { s with digests := { s.digests with wdigest := bs } }
  (s.formWt false).formWt true

/-- The host's digest, in a state where it takes effect at once (R287). -/
def State.supplyWdigest (s : State) (bs : List Byte) : State := s.orHold (.weights bs) [32, 32, 32] (fun s => s.takeWdigest bs)

/-! ### Parity on the SHA-256 engines (R290) -/

/-- A digest is being formed that an INPUT, a START or a job needs. -/
def State.digesting (s : State) : Bool :=
  s.seq.checking || s.tables.rload.isSome || s.tables.fload.isSome || s.digests.phase1 == 1 || s.digests.phase2 == 1

/-- A parity error on an engine's state: the digest is repeated from its start; the second in the same digest is recorded. -/
def State.digestParity (s : State) (engine : Nat) : State :=
  if !s.digesting || 2 ≤ s.digests.parity then s
  else
    let s := { s with digests := { s.digests with parity := s.digests.parity + 1 } }
    if s.digests.parity = 2 then s.soot_ { code := 0x91, sev := 3, action := 0, loc := engine } else s

/-- The digest was lost to a second parity error. -/
def State.digestLost (s : State) : Bool := s.digests.parity == 2

/-- The digest has ended. -/
def State.digestEnd (s : State) : State := { s with digests := { s.digests with parity := 0 } }

/-! ### Inputs (R288) -/

/-- The handles listed: up to the first 0xFF. -/
def State.inputHandles (s : State) : List Nat := (s.digests.inputSet.map (·.toNat)).takeWhile (· != 255)

def strictlyRising : List Nat → Bool
  | a :: b :: l => decide (a < b) && strictlyRising (b :: l)
  | _ => true

/-- The inputs of both phases are usable, but for what only one of them needs. -/
def State.digestInputsOk (s : State) : Bool :=
  let hs := s.inputHandles
  strictlyRising hs && hs.all (fun h => TRec.valid (s.tensor h)) && s.obj Obj.RZ_LAYOUT_STATE == 1

def State.phase1Ok (s : State) : Bool :=
  let base := s.obj Obj.RZ_BDIGEST_BASE
  s.digestInputsOk && base != 0 && base % 4096 == 0

def State.phase2Ok (s : State) : Bool := s.digestInputsOk && s.digests.phase1 == 2

/-- H* of the canonical rows of block `blk` of a tensor, which this package owns. -/
def State.blockDigest (s : State) (h blk : Nat) : List Byte :=
  let rows := min 4096 (TRec.tokens (s.tensor h) - 4096 * blk)
  hStar ((List.range rows).flatMap (fun i => (s.readRow [] h (4096 * blk + i)).flatten))

/-- Phase 1 forms the block digests of this engine. -/
def State.formBlocks (s : State) : State :=
  let base := s.obj Obj.RZ_BDIGEST_BASE
  let of (s : State) (h blk : Nat) : State :=
    let i := TRec.firstBlock (s.tensor h) + blk
    if samePackage (OEnt.owner (s.ownerEnt i)) s.node && (i % 2 == 1) == s.ident.eng then
      let d := s.blockDigest h blk
      { s.writeMem (base + i * 32) d with digests := s.digests.formed d }
    else s
  s.inputHandles.foldl (fun s h => (List.range (TRec.nblk (s.tensor h))).foldl (fun s b => of s h b) s) s

/-- The descriptor of a tensor in D_in, most significant byte first. -/
def State.tensorDesc (s : State) (h : Nat) : List Byte :=
  let t := s.tensor h
  beBytes 8 (pack [(8, h), (4, TRec.fmt t), (8, TRec.rowUnits t), (27, TRec.tokens t), (17, 0)])

/-- Where the block digests of a tensor lie, in block order: in the array of the package that owns each block. -/
def State.digestPieces (s : State) (h : Nat) : List Piece :=
  (List.range (TRec.nblk (s.tensor h))).map (fun b =>
    let i := TRec.firstBlock (s.tensor h) + b
    { node := OEnt.owner (s.ownerEnt i), addr := s.obj Obj.RZ_BDIGEST_BASE + i * 32, len := 32 })

/-- What phase 2 fetches of other packages. -/
def State.digestRanges (s : State) : List (Nat × Nat × Nat) :=
  ((s.inputHandles.flatMap s.digestPieces).filter (fun p => !samePackage p.node s.node)).map (fun p => (p.node, p.addr, p.len))

/-- Phase 2 forms D_in from the block digests of the owning packages. -/
def State.inputDigest (s : State) : List Byte :=
  let rem := s.fetchedBytes .digest
  sha256 (s.inputHandles.flatMap (fun h => s.tensorDesc h ++ (s.digestPieces h).flatMap (s.readAt rem)))

/-! ### The provenance tag (R289) -/

/-- The digest whose first 8 bytes are a step's tag. -/
def State.tagDigest (s : State) (d : Desc) : List Byte :=
  sha256 (s.digests.prog ++ s.digests.wt.get (Desc.routerBank d) ++ s.digests.input ++ beBytes 4 (Desc.stepId d).toNat)

/-- The tag of a step at its acceptance. -/
def State.stepTag (s : State) (d : Desc) : BitVec 64 := BitVec.ofNat 64 (beNat ((s.tagDigest d).take 8))

end Sys2Proof.Machine
end

