-- ==== Sys2Proof/Machine/DomainWrite.lean ====
section
/-!
DEFINITION. Domain objects written whole (R308): what each unit checks (R143, R246, R260, R287, R288, R299) and how it takes
the value.
-/

namespace Sys2Proof.Machine

/-- The table of n-bit entries that a domain's bytes hold. -/
def tabOfBytes (n count : Nat) (bs : List Byte) : Tab (BitVec n) :=
  Tabs.run (fun _ => 0) 0 ((List.range count).map (fun i => ofBytes n (slice bs (i * (n / 8)) (n / 8))))

/-! ### Route map (R260, R261) -/

/-- A line's extent in the region: start and end (R261). -/
def lineExtent (r : RMap) : Nat × Nat := (RMap.line r * 4096, RMap.line r * 4096 + 524288 * RMap.rb r)

/-- No two of a list of extents share a byte. -/
def disjoint : List (Nat × Nat) → Bool
  | [] => true
  | x :: xs => xs.all (fun y => decide (x.2 ≤ y.1) || decide (y.2 ≤ x.1)) && disjoint xs

/-- Pairs in strictly ascending order. -/
def ascending : List (Nat × Nat) → Bool
  | a :: b :: l => (decide (a.1 < b.1) || (a.1 == b.1 && decide (a.2 < b.2))) && ascending (b :: l)
  | _ => true

/-- The state a route-map write sets: 1, or the first failure's code. -/
def routeMapCode (len : Nat) (t : Tab (BitVec 128)) : Nat :=
  let es := t.map (·.2)
  let valid := t.filter (fun p => RMap.valid p.2)
  let vs := valid.map (·.2)
  if es.any (fun r => !RMap.reservedOk r) || vs.any (fun r => !(decide (1 ≤ RMap.k r) && decide (RMap.k r ≤ 16))) ||
      decide (valid.map (·.1) ≠ List.range valid.length) then 3
  else if !ascending (vs.map (fun r => (RMap.descOff r, RMap.firstToken r))) then 4
  else if vs.any (fun r => decide (len < (lineExtent r).2)) then 5
  else if !disjoint (vs.map lineExtent) then 6
  else 1

/-! ### What each unit does with a whole value -/

/-- The first group of a table that is neither empty nor well formed (R246). -/
def badGroup (t : Tab (BitVec 32)) : Option Nat :=
  (List.range 256).find? (fun g => let es := groupEntries t g; !es.isEmpty && !groupWf es)

/-- The group table is taken, or refused with the first group that breaks a rule (R246). -/
def State.takeGroups (s : State) (g : Tab (BitVec 32)) : State × Bool :=
  match badGroup g with
  | some n => (s.setObj Obj.RZ_COLL_LAST_FAIL (n * 2 ^ 24), false)
  | none => ({ s with tables := { s.tables with groups := g, badGroups := [] } }, true)

/-- The whole value is taken, or refused with VALUE (`false`) and what the refusal shows. -/
def State.takeDomain (s : State) (key : Nat) (bs : List Byte) : State × Bool :=
  let t := s.tables
  if key = Obj.RZ_OWNER_TABLE then
    ({ s.setObj Obj.RZ_LAYOUT_STATE 2 with tables := { t with owner := tabOfBytes 128 16384 bs } }, true)
  else if key = Obj.RZ_TENSOR_TABLE then
    ({ s.setObj Obj.RZ_LAYOUT_STATE 2 with tables := { t with tensor := tabOfBytes 128 256 bs } }, true)
  else if key = Obj.RZ_LANDING_TABLE then ({ s with tables := { t with landing := tabOfBytes 32 512 bs } }, true)
  else if key = Obj.RZ_MCAST_TABLE then ({ s with tables := { t with mcast := tabOfBytes 256 256 bs } }, true)
  else if key = Obj.RZ_GROUP_TABLE then
    s.takeGroups (tabOfBytes 32 1048576 bs)
  else if key = Obj.RZ_ROUTE_MAP then
    let m := tabOfBytes 128 4096 bs
    let code := routeMapCode (s.obj Obj.RZ_ROUTE_MEM_LEN) m
    let s := s.setObj Obj.RZ_ROUTE_MEM_STATE code
    if code = 1 then
      ({ s with tables := { t with routeMap := m.map (fun p => (p.1, RMap.setHalf p.2 false false)) } }, true)
    else (s, false)
  else if key = Obj.RZ_EXPERT_WDIGEST then
    if s.mode = .running then ({ s with seq := { s.seq with held := { s.seq.held with wdigest := some bs } } }, true)
    else (s.supplyWdigest bs, true)
  else if key = Obj.RZ_INPUT_SET then ({ s with digests := { s.digests with inputSet := bs } }, true)
  else if key = Obj.RZ_PERSIST_EDIT then ({ s with dict := { s.dict with edit := bs } }, true)
  else (s, false)

end Sys2Proof.Machine
end

