-- ==== Sys2Proof/Machine/Power.lean ====
section
/-!
DEFINITION. Power, reset, kindling and the banked state (R6, R8, R29, R297, R312, R313, R320 to R326, R337, R369).
-/

namespace Sys2Proof.Machine

/-! ### Power and reset -/

/-- POWER_GOOD (R320): an engine in OFF begins kindling at phase 0; the hub die gives its location, identity and grade. -/
def execPowerGood (location : BitVec 32) (eng grade14 : Bool) (s : State) : Res :=
  .next (match s.mode with
    | .off =>
      { State.empty .kindling { location := location, eng := eng, grade14 := grade14 } s.xspi s.egress s.free with
        pending := s.pending }
    | _ => s)

/-- What the xSPI part keeps without power: its content and the records that name it. -/
def Xspi.unpowered (x : Xspi) : Xspi :=
  { Xspi.blank with nor := x.nor, sectors := x.sectors, sector := x.sector, seq := x.seq, logFirst := x.logFirst, logHeld := x.logHeld }

/-- POWER_REMOVED (R312): OFF; a commit cut short leaves the record before it newest (R336). -/
def execPowerRemoved (s : State) : Res :=
  .next (match s.mode with
    | .off => s
    | _ => { State.empty .off .none s.xspi.unpowered s.egress s.free with pending := s.pending })

/-- PACKAGE_RESET (R312): from any state but OFF to KINDLING, phase 1. -/
def execPackageReset (s : State) : Res :=
  .next (match s.mode with
    | .off => s
    | _ => s.kindleEntry 7)

/-! ### Kindling, phases 0 to 5 -/

def State.inPhase (s : State) (n : Nat) : Bool := s.mode == .kindling && s.kindle.phase == n

def State.toPhase (s : State) (n : Nat) : State := { s with kindle := { s.kindle with phase := n } }

/-- A phase ends: the next one, or FAULTED under a self-test's code (R323). -/
def State.endPhase (s : State) (n : Nat) (fail : Option (BitVec 24)) (work : State → State) : State :=
  if s.inPhase n then
    match fail with
    | some c => s.kindleFail c.toNat (selfTest n c.toNat)
    | none => (work s).toPhase (n + 1)
  else s

/-- REFERENCE_CHECK: phase 0 ends (R320). -/
def execReferenceCheck (fail : Option (BitVec 24)) (s : State) : Res := .next (s.endPhase 0 fail (fun s => s))

/-- The node ID of a location word and an identity (Table 0-6, R321). -/
def nodeIdOf (location : BitVec 32) (eng : Bool) : Nat := bits location.toNat 16 1 * 2 + b2n eng

/-- NODE_ID_FORMED: phase 1 ends (R321, R345); a rack above 511 ends in FAULTED with code 0x06. Which check number
RZ_KINDLE_FAIL shows for the location word is a free value. -/
def execNodeIdFormed (lockstepFail : Option (BitVec 24)) (s : State) : Res :=
  .next (
    if s.inPhase 1 && lockstepFail.isNone && decide (511 < s.ident.location.toNat / 256) then
      let (c, s) := s.takeFree
      s.kindleFail (c.toNat % 2 ^ 24) { code := 0x06, sev := 4, action := 8, loc := s.ident.location.toNat }
    else s.endPhase 1 lockstepFail (fun s => s.setObj Obj.RZ_NODE_ID (nodeIdOf s.ident.location s.ident.eng)))

/-- Every SECDED array but the soot log reads 0 (Table 13-3, phase 2). The peer's last CRC goes with them (log entry 35). -/
def State.clearArrays (s : State) : State :=
  { s with
    tables := { Tables.cleared with landing := s.tables.landing, mcast := s.tables.mcast }
    pool := .cleared
    flue := { s.flue with ctxs := [], ledger := [], combineQ := [] }
    stores := { s.stores with candidates := [] } }

/-- MARCH_TEST: phase 2 ends. -/
def execMarchTest (fail : Option (BitVec 24)) (s : State) : Res := .next (s.endPhase 2 fail State.clearArrays)

/-- ROM_LOADS: phase 3 ends (R110, R268); an item that fails its CRC ends in FAULTED with code 0x02. The groups, placement
banks, queue maps and route map are empty, the committed epoch 0. -/
def execRomLoads (fail : Option (BitVec 24 × BitVec 32)) (s : State) : Res :=
  .next (
    if s.inPhase 3 then
      match fail with
      | some (item, crc) =>
        s.kindleFail item.toNat { code := 0x02, sev := 4, action := 8, loc := item.toNat, detail := crc.toNat }
      | none =>
        let t := s.tables
        let s := { s with tables := { t with
          groups := [], badGroups := [], place := { b0 := [], b1 := [] }, qmap := { b0 := [], b1 := [] }, placed := false,
          routeMap := [] }, stores := { s.stores with coreMem := [] } }
        (s.setObj Obj.RZ_PLACE_EPOCH 0).toPhase 4
    else s)

/-- Bytes of the landing map (R208). -/
def seenBytes : Nat := 2097152

/-- Both landing maps are cleared (R208, R213). -/
def State.clearSeen (s : State) : State :=
  let base := s.obj Obj.RZ_BULK_SEEN_BASE
  if base = 0 then s else { s with mem := Tabs.clearRun s.mem base seenBytes }

/-- The fabric as kindling and BANKED leave it (R213): tags, generations and numbers 0, landing maps clear, the ports held.
BANKED keeps the reply cache, so that nothing is applied twice (R198), and what a lost clock holds down until kindling. -/
def State.clearFabric (s : State) (banked : Bool) : State :=
  let f := s.fabric
  let port (p : FabPort) : FabPort := { FabPort.cleared with lost := banked && p.lost }
  let kept : Fabric :=
    if banked then { Fabric.cleared with rcache := f.rcache, rcReady := f.rcReady, mreplied := f.mreplied } else .cleared
  State.clearSeen { s with fabric := { kept with
      ports := { b0 := port f.ports.b0, b1 := port f.ports.b1 }, gateLost := banked && f.gateLost } }

/-- Phase 4's clears: R137, R161, R185, R213, R241, R290. -/
def State.unitClears (s : State) : State :=
  let s := { s.clearFabric false with
    tables := { s.tables with hist := { b0 := [], b1 := [] }, owner := [], tensor := [] }
    bellows := .cleared, pool := .cleared, flue := .cleared, digests := .cleared, ftime := .cleared }
  ((s.setObj Obj.RZ_LAYOUT_STATE 0).setObj Obj.RZ_LJOB_HEAD 0).setObj Obj.RZ_BATCH_EPOCH 0

/-- UNIT_SELF_TESTS: phase 4 ends (R84, R110, R137, R161, R185, R241, R290); a mismatching pipe pair is counted and carries
code 0x23 (R91, Table 14-6). -/
def execUnitSelfTests (fail : Option (BitVec 24)) (pipePair : Option (BitVec 16)) (s : State) : Res :=
  .next (
    match s.inPhase 4, pipePair with
    | true, some p =>
      (s.count Obj.RZ_FN_MISMATCH 1).kindleFail ((fail.getD 0).toNat) { code := 0x23, sev := 4, action := 8, loc := p.toNat }
    | _, _ => s.endPhase 4 fail State.unitClears)

/-- An object that a kindling from phase 1 keeps takes no stored value (R290, R297, R354). -/
def State.keepsObj (s : State) (key : Nat) : Bool := !s.kindle.fromOff && keptObjs.contains key

/-- One stored record is restored, or its object keeps the default with a soot entry (R297). -/
def State.restoreRec (s : State) (r : SetRec) : State :=
  let bad := s.soot_ { code := 0x07, sev := 3, action := 0, loc := r.key * 256 }
  match odRow r.key with
  | none => bad
  | some row =>
    if s.keepsObj r.key then s
    else if row.ty.isScalar then
      if odWriteOk s row r.value then s.setObj r.key (odStored r.key r.value) else bad
    else (s.takeDomain r.key r.bytes).1

/-- The objects' defaults, less what kindling keeps (R297). -/
def State.defaultObjs (s : State) : State :=
  { s with
    objs := s.objs.filter (fun p => odIsRo p.1 || keptObjs.contains p.1)
    tables := { s.tables with landing := [], mcast := [] } }

/-- PERSIST_RESTORE: phase 5 ends (R297, R337). -/
def execPersistRestore (s : State) : Res :=
  .next (
    if s.inPhase 5 then
      let x := s.xspi
      let s := s.defaultObjs
      let none_ := (s.soot_ { code := 0x08, sev := 3, action := 0 }).toPhase 6
      match x.newestValid (s.obj Obj.RZ_LOG_SEG) .objects with
      | none => none_
      | some c =>
        match readSet s false (x.content (s.obj Obj.RZ_LOG_SEG) c) with
        | .bad _ => none_
        | .good rs => (rs.foldl State.restoreRec s).toPhase 6
    else s)

/-! ### Kindling, phases 6 to 9 -/

/-- The two roles meet (R6): the tray barrier next, or kindling held. -/
def State.rolesMeet (s : State) (peer : Nat) : State :=
  if peer = s.role then s.toPhase 9
  else
    let s := s.soot_ { code := 0x03, sev := 3, action := 0, loc := peer, detail := s.role, node := some (peerOf s.node) }
    State.alert { s with kindle := { s.kindle with held := true } } Alert.kindleHeld

/-- Phases 6 and 7 run in parallel; when both have ended the engine arrives at the package barrier. -/
def State.afterTraining (s : State) : State :=
  if s.kindle.diesDone && s.kindle.lpDone then
    let s := (s.toPhase 8).toPeer (.present (BitVec.ofNat 8 s.role))
    match s.kindle.peerRole with
    | some r => s.rolesMeet r.toNat
    | none => s
  else if s.kindle.diesDone then s.toPhase 7
  else s.toPhase 6

def State.training (s : State) : Bool := s.inPhase 6 || s.inPhase 7

/-- The engine grants each die that is present its 512 return credits (R219). -/
def State.grantDies (s : State) : State :=
  ((List.range 8).filter s.diePresent).foldl (fun s p => s.emit (.dieCredit p 512)) s

/-- DIE_LINK_TRAINING: phase 6 ends; the die ports present credits (R219, R323). -/
def execDieLinkTraining (fail : Option (BitVec 24)) (s : State) : Res :=
  .next (
    if s.training && !s.kindle.diesDone then
      match fail with
      | some c => (s.toPhase 6).kindleFail c.toNat (selfTest 6 c.toNat)
      | none => (State.grantDies { s with kindle := { s.kindle with diesDone := true } }).afterTraining
    else s)

/-- LPDDR5X_TRAINING: phase 7 ends. -/
def execLpddrTraining (fail : Option (BitVec 24)) (s : State) : Res :=
  .next (
    if s.training && !s.kindle.lpDone then
      match fail with
      | some c => (s.toPhase 7).kindleFail c.toNat (selfTest 7 c.toNat)
      | none => State.afterTraining { s with kindle := { s.kindle with lpDone := true } }
    else s)

/-- The peer path's far end is present again; a peer that comes back through kindling meets an engine that answers with its
role, and that no longer refuses steps for its loss (R30, R368). -/
def State.peerBack (s : State) : State :=
  let s := { s with kindle := { s.kindle with peerGone := false } }
  if s.active then
    State.toPeer { s with seq := { s.seq with refuse := false } } (.present (BitVec.ofNat 8 s.role))
  else s

/-- PACKAGE_BARRIER: the peer's arrival (R6), kept where it comes before this engine's own. A peer path that is not present
takes none. -/
def execPackageBarrier (peerRole : Byte) (s : State) : Res :=
  .next (
    if s.inPhase 8 then (if s.kindle.held then s.peerBack else s.peerBack.rolesMeet peerRole.toNat)
    else if s.mode = .kindling ∧ s.kindle.phase < 8 then
      if s.kindle.phase = 0 then s else { s.peerBack with kindle := { s.peerBack.kindle with peerRole := some peerRole } }
    else s.peerBack)

/-- PACKAGE_BARRIER_TIMEOUT (R29): kindling is held. -/
def execPackageBarrierTimeout (s : State) : Res :=
  .next (
    if s.inPhase 8 && !s.kindle.held then
      let s := s.soot_ { code := 0x04, sev := 3, action := 0, node := some (peerOf s.node) }
      State.alert { s with kindle := { s.kindle with held := true } } Alert.kindleHeld
    else s)

/-- The tray line has no driver, or a second one (R8): FAULTED with code 0x05. -/
def State.trayFault (s : State) (loc : Nat) : State :=
  (s.soot_ { code := 0x05, sev := 4, action := 8, loc := loc }).faultEntry 10 0x05

/-- TRAY_MASTER_LISTEN_END (R322): the master begins to drive. -/
def execTrayMasterListenEnd (s : State) : Res :=
  .next (
    if s.inPhase 9 && s.flag Obj.RZ_TRAY_MASTER && !s.kindle.driving then
      State.emit { s with kindle := { s.kindle with driving := true } } (.syncOut 64)
    else s)

/-- PRESENCE_PULSE_TIMER (R322): a pulse every 100 µs, but one near a step-start pulse. -/
def execPresencePulseTimer (nearStep : Bool) (s : State) : Res :=
  .next (if s.syncDriven && !nearStep then s.emit (.syncOut 64) else s)

/-- An edge that a master in KINDLING did not drive: any edge, while it still listens (R322). -/
def State.foreignEdge (s : State) (ownDriven : Bool) : Bool :=
  s.inPhase 9 && s.flag Obj.RZ_TRAY_MASTER && !(ownDriven && s.kindle.driving)

/-- A pulse of so many SYNC cycles, of 96 / 25 CORE cycles each, is on SYNC_IN from now on. -/
def State.syncPulse (s : State) (high : Nat) : State :=
  if s.mode = .off then s else { s with pins := { s.pins with syncUntil := s.core + ceilDiv (high * 96) 25 } }

/-- SYNC_IN is read: presence pulses in phase 9, step-start pulses in RUNNING (Table 15-2). -/
def State.readsSync (s : State) : Bool := s.inPhase 9 || s.mode == .running

/-- PRESENCE_PULSE (R322, R369): high for 48 to 80 SYNC cycles; it completes the tray barrier. -/
def execPresencePulse (high : Nat) (ownDriven : Bool) (s : State) : Res :=
  .next (
    let s := s.syncPulse high
    if s.readsSync && inRange 48 80 high then
      let s := s.count Obj.RZ_SYNC_PRESENCE 1
      if s.foreignEdge ownDriven then s.trayFault 0
      else if s.inPhase 9 then s.kindlePassed
      else s
    else s)

/-- TRAY_BARRIER_TIMEOUT (R8): no presence pulse within RZ_KINDLE_WAIT. -/
def execTrayBarrierTimeout (s : State) : Res :=
  .next (if s.inPhase 9 && !s.flag Obj.RZ_TRAY_MASTER then s.trayFault 1 else s)

/-! ### The commands of RZ_STATE_CMD (R313, R324, R326) -/

/-- What RZ_STATE_CMD's own rules say of a value. -/
def stateCmdRules (s : State) (v : Nat) : OwnRules :=
  match v with
  | 1 => { state := s.mode == .ready, busy := s.job.isSome || s.xOpen || s.seq.checking, value := true }
  | 2 => { state := s.mode == .banked && decide (i32 (s.obj Obj.RZ_TJ) < 1100), busy := false, value := true }
  | 3 => .plain
  | _ => { state := true, busy := false, value := false }

/-- BANK: ports not present, fabric state gone; a lost peer's refusals end (R30). -/
def State.bankEffect (s : State) : State :=
  let s := ((s.quiesce).clearFabric true).portsDown
  let s := { s with seq := { s.seq with refuse := false }, kindle := { s.kindle with unbank := false } }
  s.enter .banked 5

/-- UNBANK begins (R326). -/
def State.unbankEffect (s : State) : State := { s with kindle := { s.kindle with unbank := true } }

/-- RESET: KINDLING from phase 1, after a commit in progress (R334). -/
def State.resetEffect (s : State) : State :=
  if s.xspi.commit.isSome then { s with xspi := { s.xspi with heldReset := true } } else s.kindleEntry 7

def State.stateCmd (v : Nat) (s : State) : State :=
  match v with
  | 1 => s.bankEffect
  | 2 => s.unbankEffect
  | 3 => s.resetEffect
  | _ => s

/-- BANK. -/
def execBank (path : Path) (tag : ReqTag) (s : State) : Res :=
  .next (odWrite s (scalarReq path tag Obj.RZ_STATE_CMD 1) (stateCmdRules s 1) (State.stateCmd 1))

/-- UNBANK. -/
def execUnbank (path : Path) (tag : ReqTag) (s : State) : Res :=
  .next (odWrite s (scalarReq path tag Obj.RZ_STATE_CMD 2) (stateCmdRules s 2) (State.stateCmd 2))

/-- UNBANK_READY: the links and parts have left their low-power states; the peer is unbanked with this engine (R324). -/
def execUnbankReady (s : State) : Res :=
  .next (
    if s.mode = .banked ∧ s.kindle.unbank = true then
      State.enter { s with kindle := { s.kindle with unbank := false, peerGone := false } } .ready 6
    else s)

/-- RESET. -/
def execReset (path : Path) (tag : ReqTag) (s : State) : Res :=
  .next (odWrite s (scalarReq path tag Obj.RZ_STATE_CMD 3) (stateCmdRules s 3) (State.stateCmd 3))

end Sys2Proof.Machine
end

