-- ==== Sys2Proof/Machine/Boundary.lean ====
section
/-!
DEFINITION. Fabric time (R277, R208), temperature and frequency (R327 to R330), the tray line's other pulses (R369), the test
multiplexer and JTAG (R372, R373), the loss of the peer (R30).
-/

namespace Sys2Proof.Machine

/-! ### Fabric time -/

/-- A write of RZ_FTIME_NEXT, armed for the first edge after this CORE cycle (R277, R371). -/
def State.armFtime (v : Nat) (s : State) : State :=
  let before := match s.ftime.armed with
    | some c => if c < s.core then some (BitVec.ofNat 64 (s.obj Obj.RZ_FTIME_NEXT)) else s.ftime.before
    | none => none
  { s.setObj Obj.RZ_FTIME_NEXT v with ftime := { s.ftime with armed := some s.core, before := before } }

/-- FTIME_NEXT_WRITE. -/
def execFtimeNextWrite (path : Path) (tag : ReqTag) (v : BitVec 64) (s : State) : Res :=
  .next (odWrite s (scalarReq path tag Obj.RZ_FTIME_NEXT v.toNat) .plain (State.armFtime v.toNat))

/-- CORE cycles of a millisecond. -/
def msCycles : Nat := 1200000

/-- The incarnation is taken when FTIME first becomes valid after kindling; BULK_SEQ starts again (R208). -/
def State.takeIncarn (s : State) : State :=
  match s.bellows.incarn with
  | some _ => s
  | none => State.pumpBulks { s with bellows := { s.bellows with
      incarn := some (BitVec.ofNat 32 (s.ftime.value.toNat / msCycles)), bulkSeq := [] } }

/-- An edge's step to the nearest multiple of a millisecond (R277); which of two equally near ones is a free value. -/
def State.stepFtime (s : State) : State :=
  let v := s.ftime.value.toNat
  let r := v % msCycles
  let (f, s) := s.takeFree
  let up := if 2 * r = msCycles then f.getLsbD 0 else decide (msCycles < 2 * r)
  let size := if up then msCycles - r else r
  let s := { s with ftime := { s.ftime with value := BitVec.ofNat 64 (if up then v + size else v - size) } }
  let s := if 4 < size then s.count Obj.RZ_FTIME_STEP 1 else s
  if 12 < size then
    let s := s.soot_ { code := 0x32, sev := 3, action := 4, loc := 0, detail := size }
    { s with ftime := { s.ftime with valid := false } }
  else s

/-- An edge takes a value that was armed. -/
def State.setFtime (s : State) (v : BitVec 64) (armed : Option Nat) : State :=
  (State.takeIncarn { s with ftime := { value := v, valid := true, armed := armed, before := none } }).pumpFab

/-- An edge that finds no setting. -/
def State.plainEdge (s : State) : State := if s.ftime.valid then s.stepFtime.pumpFab else s

/-- TIMEPULSE (R277): an edge in the CORE cycle of a write finds the setting before it (R371). -/
def execTimepulse (s : State) : Res :=
  .next (
    if s.mode = .off then s
    else
      let s := { s with pins := { s.pins with timeEdge := some s.core } }
      if !s.readsPins || !s.clocked then s
      else
        match s.ftime.armed with
        | none => s.plainEdge
        | some c =>
          if c < s.core then s.setFtime (BitVec.ofNat 64 (s.obj Obj.RZ_FTIME_NEXT)) none
          else
            match s.ftime.before with
            | some v => s.setFtime v (some c)
            | none => s.plainEdge)

/-- TIMEPULSE_MISSED (R277). -/
def execTimepulseMissed (s : State) : Res :=
  .next (
    if s.readsPins && s.ftime.valid then
      let s := s.soot_ { code := 0x32, sev := 3, action := 4, loc := 1 }
      { s with ftime := { s.ftime with valid := false } }
    else s)

/-! ### Temperature (R327, R328) -/

/-- A thermal step is taken: counted, and cause THERMAL set. -/
def State.thermalStep (s : State) : State := (s.count Obj.RZ_THROTTLE_COUNT 1).alert Alert.thermal

/-- A frequency change's condition arises: at once outside RUNNING (R327). -/
def State.askChange (s : State) (throttle : Bool) : State :=
  let s := { s with therm := { s.therm with change := some (throttle, s.core) } }
  if s.mode = .running then s else s.applyChange

/-- At 105.0 °C stoke ends, at the next step boundary, whether its ramp has ended or not. -/
def State.hotStoke (s : State) (tj : Int) : State :=
  if tj < 1050 then s
  else
    match s.therm.stoke with
    | .on _ _ none => s.stokeEnds.thermalStep
    | _ => s

/-- At 110.0 °C the clock is throttled. -/
def State.hotThrottle (s : State) (tj : Int) : State :=
  if tj < 1100 then s
  else
    match s.therm.throttled, s.therm.change with
    | false, some (true, _) => s
    | false, _ => s.thermalStep.askChange true
    | true, some (false, _) => { s with therm := { s.therm with change := none } }
    | true, _ => s

/-- The throttle's end: RZ_TJ below RZ_THROTTLE_EXIT for 10 ms. -/
def State.coolThrottle (s : State) (tj : Int) : State :=
  if i32 (s.obj Obj.RZ_THROTTLE_EXIT) ≤ tj then { s with therm := { s.therm with coolSince := none } }
  else
    let since := s.therm.coolSince.getD s.core
    let s := { s with therm := { s.therm with coolSince := some since } }
    if s.therm.throttled && s.therm.change.isNone && decide (since + 10 * msCycles ≤ s.core) then s.askChange false
    else s

/-- At 120.0 °C in RUNNING: the sequencer halts, both steps are cancelled and marked, and the schedule, replayed or not, ends
(R330). The manual gives the marks no soot code: it is a free value. -/
def State.thermalBank (s : State) : State :=
  let s := (s.thermalStep).count Obj.RZ_THERMAL_BANK 1
  let (c, s) := s.takeFree
  let s := if s.inFlight then
      let ev : SootEv := { code := c.toNat % 256, sev := 2, action := 1 }
      s.markBoth ev
    else s
  let s := s.stopSeq
  { s with therm := { s.therm with bankWait := true }, log := { s.log with replay := false } }

/-- At 120.0 °C: the bank in RUNNING, held layout jobs in READY, which end below 110.0 °C. -/
def State.hotBank (s : State) (tj : Int) : State :=
  if 1200 ≤ tj then
    if s.mode = .running then (if s.therm.bankWait then s else s.thermalBank)
    else if s.mode = .ready ∧ s.therm.jobsHeld = false then
      State.thermalStep { s with therm := { s.therm with jobsHeld := true } }
    else s
  else if tj < 1100 then { s with therm := { s.therm with jobsHeld := false } }
  else s

/-- An I32 object's bits. -/
def i32Bits (v : Int) : Nat := (v % 2 ^ 32).toNat

/-- THERMAL_SAMPLE: the highest of four sensors (R327), and the steps of Table 13-4. -/
def execThermalSample (t0 t1 t2 t3 : BitVec 32) (s : State) : Res :=
  .next (
    if s.mode = .off then s
    else
      let tj := max (max t0.toInt t1.toInt) (max t2.toInt t3.toInt)
      let s := s.setObj Obj.RZ_TJ (i32Bits tj)
      let s := s.setObj Obj.RZ_TJ_MAX (i32Bits (max tj (i32 (s.obj Obj.RZ_TJ_MAX))))
      (((s.hotStoke tj).hotThrottle tj).coolThrottle tj).hotBank tj)

/-- THERMAL_BANK_ENTRY: both fences are complete and the engine enters BANKED (R330). -/
def execThermalBankEntry (s : State) : Res :=
  .next (
    if s.mode = .running ∧ s.therm.bankWait = true ∧ s.inFlight = false then
      let s := (((s.leaveRunning).quiesce).clearFabric true).portsDown
      let s := { s with therm := { s.therm with bankWait := false }, seq := { s.seq with refuse := false } }
      (s.enter .banked 8).alert Alert.thermal
    else s)

/-! ### Stoke and frequency changes (R327, R329) -/

/-- STOKE_RAMP_END: SCORE and COMB switch to 1.5 GHz, but not while throttled. -/
def execStokeRampEnd (s : State) : Res :=
  .next (
    match s.therm.stoke with
    | .on since false ending =>
      if s.therm.throttled then s else { s with therm := { s.therm with stoke := .on since true ending } }
    | _ => s)

/-- STOKE_LIMIT_EXPIRY: stoke ends at once, RZ_STOKE_LIMIT after it began. -/
def execStokeLimitExpiry (s : State) : Res :=
  .next (match s.therm.stoke with
    | .on since _ _ => if since + s.obj Obj.RZ_STOKE_LIMIT * msCycles ≤ s.core then s.endStoke else s
    | .off => s)

/-- STOKE_COOLDOWN_END. -/
def execStokeCooldownEnd (s : State) : Res := .next { s with therm := { s.therm with cooldown := false } }

/-- A throttle is an event of R275 for the steps whose check assumed more. -/
def State.throttleBreaks (s : State) : State :=
  s.liveBanks.foldl (fun s b =>
    s.onStep b (fun t => if t.model.slow then t else { t with broken := true, throttle := true })) s

/-- The end of stoke has waited 1 ms for a step boundary (R327, R329). -/
def State.stokeDue (s : State) : State :=
  match s.therm.stoke with
  | .on _ _ (some c) => if c + msCycles ≤ s.core then s.endStoke else s
  | _ => s

/-- A throttle, or its end, has waited 1 ms for a step boundary (R327). -/
def State.changeDue (s : State) : State :=
  match s.therm.change with
  | some (thr, c) =>
    if c + msCycles ≤ s.core then
      let s := s.applyChange
      if thr then s.throttleBreaks else s
    else s
  | none => s

/-- FREQUENCY_CHANGE_DEADLINE: 1 ms without a step boundary after a change's condition arose (R327). -/
def execFrequencyChangeDeadline (s : State) : Res :=
  .next (if s.mode = .running then s.stokeDue.changeDue else s)

/-- A write of RZ_STOKE_EN: 0 ends stoke at the next step boundary, whatever is written after (R329). -/
def State.stokeWrite (v : Nat) (s : State) : State :=
  let s := s.setObj Obj.RZ_STOKE_EN v
  if v = 0 then s.stokeEnds else s

/-- What a step boundary, the first CORE cycle of an admission check, does to the clocks (R327, R329). A throttle that begins
here is an event of R275 for the steps checked before. -/
def State.stepBoundary (s : State) : State :=
  let throttles := s.therm.change.any (·.1)
  let s := s.applyChange
  let s := if throttles then s.throttleBreaks else s
  match s.therm.stoke with
  | .on _ _ ending => if ending.isSome then s.endStoke else s
  | .off =>
    if s.flag Obj.RZ_STOKE_EN && !s.flag Obj.RZ_TIMING_REPEAT && s.mode == .running &&
        decide (i32 (s.obj Obj.RZ_TJ) < 1000) && !s.therm.throttled && !s.therm.cooldown then
      State.count { s with therm := { s.therm with stoke := .on s.core false none } } Obj.RZ_STOKE_COUNT 1
    else s

/-! ### The tray line -/

/-- SYNC_GLITCH: a pulse of any other width (Table 15-4). -/
def execSyncGlitch (high : Nat) (ownDriven : Bool) (s : State) : Res :=
  .next (
    let s := s.syncPulse high
    if s.readsSync && !inRange 4 16 high && !inRange 48 80 high then
      let s := s.count Obj.RZ_SYNC_GLITCH 1
      if s.foreignEdge ownDriven then s.trayFault 0 else s
    else s)

/-! ### The peer -/

/-- PEER_LOST (R30): the peer path's far end is not present (R368); in RUNNING both steps are cancelled and marked, and later
steps are refused. -/
def execPeerLost (_fate : PeerFate) (s : State) : Res :=
  .next (
    if !s.clocked then s
    else
      let s := { s with kindle := { s.kindle with peerGone := true } }
      if s.mode = .running ∧ s.seq.refuse = false then
        let ev : SootEv := { code := 0x72, sev := 3, action := 5, node := some (peerOf s.node) }
        let s := s.markBoth ev
        { s with seq := { s.seq with refuse := true } }
      else s)

/-! ### Test multiplexer and JTAG -/

/-- The list's group IDs (R372). -/
def State.dbgSel (s : State) : List (BitVec 16) :=
  (List.range (s.obj Obj.RZ_DBG_LIST_LEN)).map (fun i => BitVec.ofNat 16 (s.obj (Obj.RZ_DBG_SEL0 + i)))

/-- The pin-check pattern at the n-th showing. -/
def pinCheck (n : Nat) : BitVec 16 := if n % 2 = 0 then 0xA5C3 else 0x5A3C

/-- A group's signals (Table 15-5): group 0 alternates, 0xFFF is 0, the others are free values. -/
def State.showGroup (s : State) (g : BitVec 16) : BitVec 16 × State :=
  if g = 0 then (pinCheck s.pins.dbgZero, { s with pins := { s.pins with dbgZero := s.pins.dbgZero + 1 } })
  else if g = 0xFFF then (0, s)
  else
    let (v, s) := s.takeFree
    (BitVec.ofNat 16 v.toNat, s)

/-- The words of the groups of a list. -/
def State.showList (s : State) : List (BitVec 16) → List (BitVec 16) × State
  | [] => ([], s)
  | g :: gs =>
    let (w, s) := s.showGroup g
    let (ws, s) := s.showList gs
    (w :: ws, s)

/-- DBG_FRAME: a frame begins, with the list as it stands; a lost DBG clock holds the balls (Table 14-2). -/
def execDbgFrame (s : State) : Res :=
  .next (
    if !s.clocked ∨ (s.obj Obj.RZ_CLK_LOST).testBit 21 = true then s
    else
      let sel := s.dbgSel
      let (words, s) := s.showList sel
      let s := { s with pins := { s.pins with dbgList := sel, dbgObs := words, dbgFrames := s.pins.dbgFrames + 1 } }
      if s.dbgDriven then s.emit (.dbg words) else s)

/-- The selected data register after capture (Table 15-6). -/
def State.jtagSelect (s : State) (ir : Byte) (width : Nat) (dr : BitVec 256) : State :=
  if s.mode = .off then s
  else State.emit { s with pins := { s.pins with jtagIr := ir, jtagDr := dr } } (.jtag width dr)

/-- IDCODE. -/
def execIdcode (s : State) : Res := .next (s.jtagSelect 0x01 32 (BitVec.ofNat 256 idcodeValue))

/-- MUX_CAPTURE: the 16 entries of the list in force as they show, entry 0 lowest, unused ones 0. A change of the list takes
effect at the next frame (R372); a lost DBG clock holds the last values shown (Table 14-2). -/
def execMuxCapture (s : State) : Res :=
  .next (
    if s.mode = .off then s
    else
      let z := s.pins.dbgZero
      let (words, s) := if (s.obj Obj.RZ_CLK_LOST).testBit 21 then (s.pins.dbgObs, s) else s.showList s.pins.dbgList
      let s := { s with pins := { s.pins with dbgZero := z } }
      s.jtagSelect 0x20 256 (BitVec.ofNat 256 (words.foldr (fun w acc => w.toNat + 65536 * acc) 0)))

/-- BYPASS, and every code that names no instruction. -/
def execBypass (code : Byte) (s : State) : Res :=
  .next (if code = 0x01 ∨ code = 0x20 then s else s.jtagSelect code 1 0)

end Sys2Proof.Machine
end

