-- ==== Sys2Proof/Machine/Ftab.lean ====
section
/-!
DEFINITION. Function-table images (R97 to R99): the header and records, the checks of a load, the table a slot holds.
-/

namespace Sys2Proof.Machine

abbrev FtHdr := BitVec 512

namespace FtHdr
/-- Table 4-9. -/
def magic (h : FtHdr) : Nat := fld h 511 480
def ver (h : FtHdr) : Nat := fld h 479 472
def slot (h : FtHdr) : Nat := fld h 471 468
def kind (h : FtHdr) : Nat := fld h 467 466
def mono (h : FtHdr) : Bool := bit h 465
def dir (h : FtHdr) : Bool := bit h 464
def nseg (h : FtHdr) : Nat := fld h 463 455
def xLo (h : FtHdr) : F32 := BitVec.ofNat 32 (fld h 447 416)
def xHi (h : FtHdr) : F32 := BitVec.ofNat 32 (fld h 415 384)
def invW (h : FtHdr) : F32 := BitVec.ofNat 32 (fld h 383 352)
def limitLo (h : FtHdr) : F32 := BitVec.ofNat 32 (fld h 351 320)
def limitHi (h : FtHdr) : F32 := BitVec.ofNat 32 (fld h 319 288)
def bodyCrc (h : FtHdr) : Nat := fld h 287 256
def vector (h : FtHdr) : Bool := kind h == 1
end FtHdr

def ftHdr (img : List Byte) : FtHdr := ofBytes 512 (img.take 64)

/-- The four words of a record, C2 first: elements 4s + 3 to 4s of a vector. -/
def ftRecord (img : List Byte) (s : Nat) : BitVec 128 := ofBytes 128 (slice img (64 + 16 * s) 16)

def ftWord (r : BitVec 128) (i : Nat) : F32 := BitVec.ofNat 32 (fld r (32 * i + 31) (32 * i))

/-- Check 1. -/
def ftHeaderOk (h : FtHdr) : Bool :=
  FtHdr.magic h == 0x464E5442 && FtHdr.ver h == 3 && decide (11 ≤ FtHdr.slot h) && decide (FtHdr.slot h ≤ 15) &&
  decide (FtHdr.kind h ≤ 1) && !(FtHdr.mono h && FtHdr.vector h) && !(FtHdr.dir h && !FtHdr.mono h) &&
  decide (1 ≤ FtHdr.nseg h) && decide (FtHdr.nseg h ≤ 256) && fld h 454 448 == 0 && fld h 255 0 == 0 &&
  (!FtHdr.vector h || (FtHdr.nseg h == 256 && fld h 447 288 == 0))

/-- Check 4 on the header's values. -/
def ftValuesOk (h : FtHdr) : Bool :=
  F32.isFinite (FtHdr.xLo h) && F32.isFinite (FtHdr.xHi h) && F32.isFinite (FtHdr.invW h) &&
  F32.isFinite (FtHdr.limitLo h) && F32.isFinite (FtHdr.limitHi h) &&
  (FtHdr.vector h ||
    (F32.lt (FtHdr.xLo h) (FtHdr.xHi h) &&
      FtHdr.invW h == F32.div (F32.ofNat (FtHdr.nseg h)) (F32.sub (FtHdr.xHi h) (FtHdr.xLo h))))

/-- Check 4 on a record. -/
def ftRecordOk (h : FtHdr) (s : Nat) (r : BitVec 128) : Bool :=
  F32.isFinite (ftWord r 1) && F32.isFinite (ftWord r 2) && F32.isFinite (ftWord r 3) &&
  (if FtHdr.vector h then F32.isFinite (ftWord r 0) else fld r 31 24 == s && fld r 23 0 == 0)

/-- The table of a function-kind image. -/
def ftTable (img : List Byte) : FTable :=
  let h := ftHdr img
  { nseg := FtHdr.nseg h, xLo := FtHdr.xLo h, xHi := FtHdr.xHi h, invW := FtHdr.invW h, limitLo := FtHdr.limitLo h,
    limitHi := FtHdr.limitHi h
    recs := (List.range (FtHdr.nseg h)).map (fun s =>
      let r := ftRecord img s
      (ftWord r 3, ftWord r 2, ftWord r 1)) }

/-- Bytes of an image that a table load reads: the header whatever RZ_FTAB_LEN says (R99, check 1), and no more than tells
the largest table from a longer image. -/
def tableRead (len : Nat) : Nat := max 64 (min len 4176)

/-- The state code that a load ends with, and the index of what failed (R99). -/
def ftCheck (len : Nat) (img : List Byte) : Nat × Nat :=
  let h := ftHdr img
  if decide (img.length < 64) || !ftHeaderOk h then (3, 0xFFFF)
  else if len != 64 + 16 * FtHdr.nseg h then (4, 0xFFFF)
  else if (crc32 (img.drop 64)).toNat != FtHdr.bodyCrc h then (5, 0xFFFF)
  else if !ftValuesOk h then (6, 0xFFFF)
  else
    match (List.range (FtHdr.nseg h)).find? (fun s => !ftRecordOk h s (ftRecord img s)) with
    | some s => (6, s)
    | none =>
      match if FtHdr.mono h then (ftTable img).monoFail (FtHdr.dir h) else none with
      | some s => (7, s)
      | none => (1, 0)

/-! ### Slots -/

def State.slotValid (s : State) (slot : Nat) : Bool := s.obj (ftabStateKey slot) == 1

/-- The image that a loaded slot holds. -/
def State.slotImage (s : State) (slot : Nat) : List Byte := (s.tables.fslots.getD (slot - 11) FSlot.cleared).bytes

def State.slotHdr (s : State) (slot : Nat) : FtHdr := ftHdr (s.slotImage slot)

/-- Element i of a vector-kind slot. -/
def State.vecElem (s : State) (slot i : Nat) : F32 := ftWord (ftRecord (s.slotImage slot) (i / 4)) (i % 4)

/-- The loaded slots that a step's gate pipeline reads (R103). -/
def State.slotsRead (s : State) (d : Desc) : List Nat :=
  let fn := s.obj Obj.RZ_SCORE_FN
  (if 2 ≤ Desc.gateMode d && decide (11 ≤ fn) then [fn] else []) ++
  (if Desc.gateMode d = 3 then (List.range (ceilDiv (Desc.e d) 1024)).map (· + 12) else [])

end Sys2Proof.Machine
end

