-- ==== Sys2Proof/Machine/Sequence.lean ====
section
/-!
DEFINITION. The sequencer's shared operations (R34 to R39, R48, R358 to R360): the image, its checks, one instruction and the
next, halts and the host's answers to them, rewinds.
-/

namespace Sys2Proof.Machine

/-! ### The image (R35) -/

def State.imgRead (s : State) (off n : Nat) : List Byte := s.readMem (s.obj Obj.RZ_SCHED_BASE + off) n

abbrev ImgHdr := BitVec 512

namespace ImgHdr
/-- Table 2-1. -/
def magic (h : ImgHdr) : Nat := fld h 511 480
def ver (h : ImgHdr) : Nat := fld h 479 464
def len (h : ImgHdr) : Nat := fld h 447 416
def entry (h : ImgHdr) : Nat := fld h 415 384
def stepIdBase (h : ImgHdr) : Nat := fld h 383 352
def digest (h : ImgHdr) : List Byte := slice (toBytes h) 8 32
def reservedOk (h : ImgHdr) : Bool := fld h 463 448 == 0 && fld h 351 320 == 0 && fld h 63 0 == 0
end ImgHdr

def State.imgHdr (s : State) : ImgHdr := ofBytes 512 (s.imgRead 0 64)

/-! ### Instructions (Table 2-2) -/

abbrev SInstr := BitVec 64

namespace SInstr
def op (i : SInstr) : Nat := fld i 63 56
/-- DESC_OFF and PATCH of a STEP. -/
def descOff (i : SInstr) : Nat := fld i 55 24
def patch (i : SInstr) (n : Nat) : Bool := bit i n
/-- LREG, COUNT and BODY of a LOOP. -/
def lreg (i : SInstr) : Nat := fld i 55 54
def count (i : SInstr) : Nat := fld i 53 34
def body (i : SInstr) : Nat := fld i 15 0
/-- GROUP and PROGRAM of a COLL. -/
def group (i : SInstr) : Nat := fld i 55 48
def program (i : SInstr) : Nat := fld i 47 40
/-- CLASS of an INPUT. -/
def class_ (i : SInstr) : Nat := fld i 55 48
/-- VALUE of a MARK. -/
def value (i : SInstr) : Nat := fld i 31 0
end SInstr

def State.instrAt (s : State) (off : Nat) : SInstr := ofBytes 64 (s.imgRead off 8)

/-- The instruction at the sequencer's place. -/
def State.instr (s : State) : SInstr := s.instrAt s.seq.pc

/-- The sequencer stands before an instruction with an opcode. -/
def State.atOp (s : State) (op : Nat) : Bool :=
  s.mode == .running && s.seq.wait == .fetch && SInstr.op s.instr == op

def State.atColl (s : State) (program : Nat) : Bool := s.atOp 0x03 && SInstr.program s.instr == program

def State.atInput (s : State) (cls : Nat) : Bool := s.atOp 0x04 && SInstr.class_ s.instr == cls

/-! ### The START checks (R36) -/

/-- Code 3. -/
def State.headerOk (s : State) : Bool :=
  let h := s.imgHdr
  ImgHdr.magic h == 0x48454152 && ImgHdr.ver h == 3 && ImgHdr.len h == s.obj Obj.RZ_SCHED_LEN && decide (72 ≤ ImgHdr.len h) &&
  ImgHdr.entry h % 8 == 0 && decide (64 ≤ ImgHdr.entry h) && decide (ImgHdr.entry h + 8 ≤ ImgHdr.len h) &&
  ImgHdr.reservedOk h

/-- Code 4: the image's SHA-256 with IMG_DIGEST read as zero. -/
def State.digestOk (s : State) : Bool :=
  let img := s.imgRead 0 (ImgHdr.len s.imgHdr)
  decide (sha256 (img.take 8 ++ zeroDigest ++ img.drop 40) = ImgHdr.digest s.imgHdr)

/-- The operands of one instruction are as decode asks, for a stack of enclosing loop ends, innermost first, and the group
of a STEP just before it. -/
def operandsOk (len off : Nat) (ends : List Nat) (prev : Option Nat) (i : SInstr) : Bool :=
  match SInstr.op i with
  | 1 => fld i 23 4 == 0 && decide (64 * SInstr.descOff i + 64 ≤ len)
  | 2 =>
    let e := off + 8 + 8 * SInstr.body i
    fld i 33 16 == 0 && SInstr.count i != 0xFFFFF && decide (e ≤ len) && decide (ends.length < 4) &&
    (match ends with | a :: _ => decide (e ≤ a) | [] => true)
  | 3 =>
    fld i 39 0 == 0 &&
    (inRange 1 4 (SInstr.program i) || (SInstr.program i == 0x81 && prev == some (SInstr.group i)))
  | 4 => fld i 47 0 == 0 && inRange 1 5 (SInstr.class_ i)
  | 5 => fld i 55 32 == 0
  | 6 => fld i 55 0 == 0
  | _ => false

/-- Decoding from an offset in address order, to the first HALT in no loop body. -/
def State.decodeFrom (s : State) (len : Nat) : Nat → Nat → List Nat → Option Nat → Bool
  | 0, _, _, _ => false
  | n + 1, off, ends, prev =>
    let ends := ends.dropWhile (· == off)
    let i := s.instrAt off
    decide (off + 8 ≤ len) && operandsOk len off ends prev i &&
    (if SInstr.op i = 6 && ends.isEmpty then true
     else
      let ends := if SInstr.op i = 2 then (off + 8 + 8 * SInstr.body i) :: ends else ends
      let prev := if SInstr.op i = 1
        then some (Desc.admGroup (ofBytes 512 (s.imgRead (64 * SInstr.descOff i) 64))) else none
      s.decodeFrom len n (off + 8) ends prev)

/-- Code 5. -/
def State.programOk (s : State) : Bool :=
  let len := ImgHdr.len s.imgHdr
  s.decodeFrom len (len / 8) (ImgHdr.entry s.imgHdr) [] none

/-- The first check that fails, as RZ_SEQ_STATE's code; 0 where none does. -/
def State.startCode (s : State) : Nat :=
  if !s.headerOk then 3 else if !s.digestOk then 4 else if !s.programOk then 5 else 0

/-! ### From one instruction to the next (R37) -/

/-- Where a sequencer at `pc` with these loops and registers goes on: a finished body repeats or is left. -/
def unwind (pc : Nat) : List Frame → List (BitVec 20) → Place
  | [], regs => (pc, [], regs)
  | f :: fs, regs =>
    if pc = f.last then
      if f.left = 0 then unwind pc fs regs
      else (f.first, { f with left := f.left - 1 } :: fs, regs.set f.reg (regs.getD f.reg 0 + 1))
    else (pc, f :: fs, regs)

/-- The sequencer's place: offset, loops, registers. -/
def Seq.place (q : Seq) : Place := (q.pc, q.frames, q.regs)

/-- The place after the instruction at pc. -/
def Seq.after (q : Seq) : Place := unwind (q.pc + 8) q.frames q.regs

/-- The instruction at pc counts as executed: the furthest place moves with it. -/
def Seq.executed (q : Seq) (next : Place) : Seq :=
  if q.furthest = q.place then { q with furthest := next } else q

/-- The sequencer goes on at a place. -/
def State.goTo (s : State) (p : Place) : State :=
  let q := s.seq.executed p
  { s with seq := { q with
      pc := p.1, frames := p.2.1, regs := p.2.2, wait := .fetch, front := if q.furthest = p then none else q.front } }

/-- The instruction at pc stays in the step-program cache, which holds 32,768 (Table 1-1); the oldest gives way. -/
def State.cacheInstr (s : State) : State :=
  let at_ := s.seq.pc
  let old := (s.stores.progCache.filter (fun p => p.1 != at_)).drop (s.stores.progCache.length - 32767)
  { s with stores := { s.stores with progCache := old ++ [(at_, s.imgRead at_ 8)] } }

/-- The instruction at pc completes. -/
def State.advance (s : State) : State := (s.cacheInstr).goTo s.seq.after

/-- A COLL begins or an INPUT applies: it has been executed, whatever becomes of it. -/
def State.beginOp (s : State) (w : Wait) : State :=
  let q := s.seq.executed s.seq.after
  { s with seq := { q with wait := w } }

/-- The instruction at pc, which forbids an automatic rewind, is executed (R358): it lies after the STEP of every record, and no
longer ahead. -/
def State.blockRewind (s : State) : State :=
  let here := s.seq.place
  let note (l : List Place) : List Place := if l.contains here then l else l ++ [here]
  let f (t : Step) : Step := { t with rewind := t.rewind.map (fun r => { r with blocks := note r.blocks }) }
  let s := (s.onStep false f).onStep true f
  { s with seq := { s.seq with ahead := s.seq.ahead.filter (· != here) } }

/-! ### A STEP (R33, R34, R39) -/

/-- The previous step has had its first grate cycle, was refused, or has been cancelled. -/
def State.stepReachable (s : State) : Bool :=
  [false, true].all (fun b =>
    match s.bankStep b with
    | some t => t.grateAt.isSome || t.cancelled
    | none => true)

/-- The descriptor of the STEP at pc, fetched and patched; `n` STEPs were executed before it since START. -/
def State.fetchStep (s : State) (n : Nat) : Fetched :=
  let i := s.instr
  let raw : BitVec 512 := ofBytes 512 (s.imgRead (64 * SInstr.descOff i) 64)
  let sum := crc16 (toBytes (setFld raw 503 488 0))
  let id := ImgHdr.stepIdBase s.imgHdr + n
  let d := if SInstr.patch i 0 then setFld raw 479 448 id else raw
  let d := if SInstr.patch i 1 then setFld d 447 436 (s.obj Obj.RZ_BATCH_EPOCH) else d
  let d := if SInstr.patch i 2 then setFld d 435 420 (s.obj Obj.RZ_PLACE_EPOCH) else d
  let first := Desc.firstToken d + (if SInstr.patch i 3 then (s.seq.regs.getD 0 0).toNat * Desc.n d else 0)
  { desc := setFld d 343 318 first, firstToken := first, offset := s.seq.pc,
    descOff := BitVec.ofNat 32 (SInstr.descOff i), crcOk := sum.toNat == Desc.crc raw, t0 := none, pulse := false }

/-- The STEP at pc is fetched and its arrival at the package barrier reported to the peer (R33). -/
def State.reachStep (s : State) (n : Nat) : State :=
  let f := s.fetchStep n
  let s := { s with seq := { s.seq with
    wait := .step, fetched := some f, barrier := { s.seq.barrier with own := true, told := false, fired := false } } }
  s.toPeer .arrival

/-! ### Rewinds (R358 to R360) -/

/-- A marked step that can be rewound, or not, the earliest first. -/
def State.markedBanks (s : State) : List Bool :=
  let marked (b : Bool) : List (Nat × Bool) :=
    match s.steps.get b with
    | some t => if t.marked then [(t.nth, b)] else []
    | none => []
  match marked false, marked true with
  | [(i, _)], [(j, _)] => if i < j then [false, true] else [true, false]
  | a, b => (a ++ b).map (·.2)

/-- The place of a record's STEP: offset, remaining loop counts, loop registers. -/
def Rewind.place (r : Rewind) : Place := (r.offset, r.frames, r.regs)

/-- How often the step at a record has been re-run. -/
def State.rerunsOf (s : State) (r : Rewind) : Nat := (s.seq.reruns.lookup r.place).getD 0

/-- Steps of either bank accepted at or after another. -/
def State.fromNth (s : State) (n : Nat) : List (Bool × Step) :=
  [false, true].filterMap (fun b =>
    match s.steps.get b with
    | some t => if n ≤ t.nth then some (b, t) else none
    | none => none)

/-- A mask that a step consumed has its kept copy in the rewind area (R358). -/
def State.maskCopy (s : State) (b : Bool) : Nat := s.obj Obj.RZ_REWIND_BASE + b2n b * 65536

/-- Bytes of a mask. -/
def Mask.size (m : Mask) : Nat := (m.pieces.map (·.2)).sum

/-- A mask as a rewind supplies it: the kept copy where a step consumed it. -/
def State.keptMask (s : State) (m : Mask) : Mask :=
  match [false, true].find? (fun b => match s.steps.get b with | some t => t.mask == some m | none => false) with
  | some b => { m with pieces := [(s.maskCopy b, m.size)] }
  | none => m

/-- The sequencer stands again at a record's STEP, its loop state restored; what it executed between there and the furthest
instruction lies ahead (R358, R360). -/
def State.standAt (s : State) (r : Rewind) : State :=
  { s with seq := { s.seq with pc := r.offset, frames := r.frames, regs := r.regs, ahead := r.blocks } }

/-- The same, with the seed and mask of the record restored; inputs given since, and those still kept from a rewind before, are
kept for the INPUTs it will pass, or not (R359, R360). What is in force at the furthest instruction is kept beside. -/
def State.restore (s : State) (r : Rewind) (keep : Bool) : State :=
  let s' := (s.setObj Obj.RZ_NOISE_SEED r.seed.toNat).standAt r
  { s' with seq := { s'.seq with
      mask := r.mask.map s.keptMask
      front := s.seq.front.or (some (s.obj Obj.RZ_NOISE_SEED, s.seq.mask))
      keptSeeds := if keep then r.seeds ++ s.seq.keptSeeds else []
      keptMasks := if keep then r.masks.map s.keptMask ++ s.seq.keptMasks else [] } }

/-- What was in force at the furthest instruction is in force again, and no input is kept any more: a SKIP goes on there (R360). -/
def State.toFront (s : State) : State :=
  match s.seq.front with
  | some (seed, mask) =>
    let s := s.setObj Obj.RZ_NOISE_SEED seed
    { s with seq := { s.seq with mask := mask, front := none, keptSeeds := [], keptMasks := [] } }
  | none => s

/-- An older record loses the inputs given since a rewound STEP: they are given again. -/
def State.dropLater (s : State) (b : Bool) (r : Rewind) : State :=
  s.onStep b (fun t => { t with rewind := t.rewind.map (fun x => { x with
    seeds := x.seeds.take (x.seeds.length - r.seeds.length)
    masks := x.masks.take (x.masks.length - r.masks.length) }) })

/-- One more re-run of the step at a record. -/
def Seq.countRerun (q : Seq) (r : Rewind) : Seq :=
  let n := (q.reruns.lookup r.place).getD 0
  { q with reruns := q.reruns.filter (fun x : Place × Nat => decide (x.1 ≠ r.place)) ++ [(r.place, n + 1)] }

/-- The rewind to a marked step runs (R359): FAULT_END for the steps that had retired unmarked, whichever way they ended; each
marked step counts a re-run; every step from there on is forgotten, its pending figures with it. -/
def State.runRewind (s : State) (t : Step) (r : Rewind) (keep : Bool) : State :=
  let code := match t.ended with | .marked c => c | _ => 0
  let again := s.fromNth t.nth
  let s := again.foldl (fun s x => if x.2.retired && !x.2.marked then s.logFaultEnd x.2 code else s) s
  let s := s.restore r keep
  let count (q : Seq) (x : Bool × Step) : Seq :=
    match x.2.rewind with
    | some r => if x.2.marked then q.countRerun r else q
    | none => q
  let s := { s with seq := again.foldl count s.seq }
  let forget (x : Step) : Step := { x with rewind := none, pendStats := false, line := none, ended := .rewound }
  let s := again.foldl (fun s x => s.onStep x.1 forget) s
  let s := (s.dropLater false r).dropLater true r
  let s := { s with seq := { s.seq with wait := .fetch } }
  (s.setObj Obj.RZ_SEQ_STATE 1).count Obj.RZ_REWIND_COUNT 1

/-- The step that a halted rewind returned to. -/
def State.rewindStep (s : State) : Option (Step × Rewind) :=
  match s.markedBanks with
  | b :: _ =>
    match s.steps.get b with
    | some t => t.rewind.map (fun r => (t, r))
    | none => none
  | [] => none

/-! ### Halts and the host's answers (R48, R251, R256, R360) -/

/-- The sequencer is halted with a code. -/
def State.haltedAt (s : State) : Option Nat :=
  match s.seq.wait with
  | .halted c => if s.mode = .running then some c else none
  | _ => none

/-- The record of a command, SEQ_CMD. -/
def State.logSeqCmd (s : State) (cmd : Nat) : State :=
  s.logFree 0x05 (toBytes (packed 64 [(8, cmd), (24, 0), (32, s.seq.pc)]))

def State.resume (s : State) : State := s.setObj Obj.RZ_SEQ_STATE 1

/-- Marked steps that the host skips are left without results. -/
def State.dropMarks (s : State) : State :=
  s.markedBanks.foldl (fun s b => s.onStep b (fun t => { t with ended := .rewound, rewind := none })) s

/-- The bank of the last accepted step. -/
def State.lastBank (s : State) : Bool := !s.seq.nextBank

/-- A bank's scan has completed at this member. -/
def State.scanDone (s : State) (b : Bool) : Bool :=
  match s.steps.get b with
  | some t => t.scan.offs.isSome
  | none => false

/-- The place after the furthest instruction executed; past the fused barrier of a step that was abandoned before its scan
completed (R244, R360). -/
def State.pastFurthest (s : State) : Place :=
  let p := s.seq.furthest
  let i := s.instrAt p.1
  if SInstr.op i = 3 ∧ SInstr.program i = 0x81 ∧ s.scanDone s.lastBank = false then unwind (p.1 + 8) p.2.1 p.2.2 else p

/-- SKIP, after its record. -/
def State.skipHalt (s : State) (code : Nat) : State :=
  let s := s.resume
  if code = 8 then
    let p := s.pastFurthest
    let s := s.toFront
    State.dropMarks { s with seq := { s.seq with
      pc := p.1, frames := p.2.1, regs := p.2.2, furthest := p, ahead := [], wait := .fetch } }
  else
    match s.seq.fetched with
    | some _ =>
      if code = 6 then
        { s with seq := { s.seq with wait := .step, barrier := { s.seq.barrier with needRelease := false } } }
      else State.advance { s with seq := { s.seq with fetched := none, refused := true } }
    | none => s.advance

/-- RETRY, after its record: the descriptor again, the COLL or the commit again, or the rewind. -/
def State.retryHalt (s : State) (code : Nat) : State :=
  let s := s.resume
  match code with
  | 8 =>
    match s.rewindStep with
    | some (t, r) => s.runRewind t r false
    | none => s
  | 7 =>
    let c : PCommit := { input := true, begun := false, image := [], code := 0, crc := 0 }
    { s.setObj Obj.RZ_PLACE_STATE 2 with seq := { s.seq with wait := .commit }, colls := { s.colls with commit := some c } }
  | _ =>
    match s.seq.fetched with
    | some _ =>
      let due := code = 6 && s.flag Obj.RZ_START_GROUP
      State.reachStep { s with seq := { s.seq with barrier := { s.seq.barrier with startDue := due } } } (s.seq.steps - 1)
    | none => { s with seq := { s.seq with wait := .fetch } }

/-- Both rewind records are released (R358). -/
def State.releaseBoth (s : State) : State :=
  let f (t : Step) : Step := { t with rewind := none }
  ((s.onStep false f).onStep true f).commitFreed

/-- The schedule ends, by HALT or ABORT: the records are released, in-flight steps retire (R37, R48). -/
def State.endSchedule (s : State) (reason : Nat) : State :=
  let s := s.releaseBoth
  { s with seq := { s.seq with wait := .ending, fetched := none, barrier := .cleared, reason := reason } }

/-- A replayed schedule that ends with a command left in the log diverges: the command met no halt (R285). -/
def State.unmetCommand (s : State) : State :=
  if !s.log.replay then s
  else
    match s.nextRec 0x05 (fun _ => true) with
    | some r => s.diverge r.seq
    | none => s

/-- A replay ends with its schedule: one that HALT ended, its steps retired without divergence, shows 1 (R285). -/
def State.endReplay (s : State) : State :=
  if !s.log.replay then s
  else
    let s := if s.seq.reason = 3 then s.setObj Obj.RZ_REPLAY_STATE 1 else s
    { s with log := { s.log with replay := false } }

/-- ABORT, after its record. -/
def State.abortHalt (s : State) : State := s.resume.endSchedule 4

/-- RETRY is refused with VALUE where no rewind record is left (R358). -/
def State.retryOk (s : State) : Bool := s.haltedAt != some 8 || s.rewindStep.isSome

/-- A command answers a halt. -/
def State.seqCommand (cmd : Nat) (s : State) : State :=
  match s.haltedAt with
  | none => s
  | some code =>
    let s := s.logSeqCmd cmd
    match cmd with
    | 2 => s.skipHalt code
    | 3 => s.retryHalt code
    | _ => s.abortHalt

/-- The sequencer halts for the host; in a replay the log answers, and a halt that it has no command for diverges (R285). -/
def State.haltFor (s : State) (code cause : Nat) : State :=
  let s := s.haltSeq code cause
  if !s.log.replay then s
  else
    match s.nextRec 0x05 (fun _ => true) with
    | none => s.diverge s.log.seq.toNat
    | some r =>
      let w : BitVec 64 := ofBytes 64 r.payload
      if fld w 31 0 = s.seq.pc then State.seqCommand (fld w 63 56) (s.takeRec r) else s.diverge r.seq

end Sys2Proof.Machine
end

