-- ==== Sys2Proof/Machine/Loads.lean ====
section
/-!
DEFINITION. Router-bank and function-table loads (R66, R69 to R71, R97, R99, R100), the seed (R101) and the skip mask (R115,
R116): the host's writes, their INPUT instructions, the loads' ends.
-/

namespace Sys2Proof.Machine

/-- The log of a replay has no record for an input (R285). -/
def State.noRecord (s : State) : State := s.diverge s.log.seq.toNat

/-! ### Router banks -/

/-- RZ_RBANK_CTRL: reserved bits, and one load held or running at a time (R66, R85). -/
def rbankRules (s : State) (v : Nat) : OwnRules :=
  let held := s.seq.held.rbank.isSome || (s.mode == .running && s.seq.held.wdigest.isSome)
  { state := true, busy := v.testBit 7 && (s.tables.rload.isSome || held), value := bits v 6 2 == 0 }

/-- A load begins: the bank shows 2; a header-only load of a bank that is not valid leaves it as it is. -/
def State.startRload (s : State) (l : Load) : State :=
  let b := l.ctrl.getLsbD 0
  let s := if l.ctrl.getLsbD 1 && !s.bankValid b then s else s.setObj (rbankStateKey b) 2
  { s with tables := { s.tables with rload := some l } }

/-- GO to RZ_RBANK_CTRL. -/
def State.rbankGo (v : Nat) (s : State) : State :=
  if !v.testBit 7 then s
  else
    let l : Load := { ctrl := BitVec.ofNat 8 v, src := s.obj Obj.RZ_RBANK_SRC, len := s.obj Obj.RZ_RBANK_LEN, image := none,
                      input := false }
    if s.mode = .running then { s with seq := { s.seq with held := { s.seq.held with rbank := some l } } }
    else s.startRload l

/-- The CTRL byte of a GO, full or header-only. -/
def rbankCtrl (header : Bool) (ctrl : Byte) : Nat := 0x80 + bits ctrl.toNat 6 2 * 4 + 2 * b2n header + b2n (ctrl.getLsbD 0)

/-- RBANK_FULL_LOAD. -/
def execRbankFullLoad (path : Path) (tag : ReqTag) (ctrl : Byte) (s : State) : Res :=
  let v := rbankCtrl false ctrl
  .next (odWrite s (scalarReq path tag Obj.RZ_RBANK_CTRL v) (rbankRules s v) (State.rbankGo v))

/-- RBANK_HEADER_LOAD. -/
def execRbankHeaderLoad (path : Path) (tag : ReqTag) (ctrl : Byte) (s : State) : Res :=
  let v := rbankCtrl true ctrl
  .next (odWrite s (scalarReq path tag Obj.RZ_RBANK_CTRL v) (rbankRules s v) (State.rbankGo v))

/-- The RBANK_LOAD record's payload (Table 11-5). -/
def rbankRecord (hdr bodyDigest : List Byte) (b header : Bool) (code : Nat) : List Byte :=
  zeroFill 64 hdr ++ bodyDigest ++ toBytes (packed 256 [(232, 0), (8, code), (7, 0), (1, b2n header), (8, b2n b)])

/-- A load has ended: its record, held in a replay against the log's; D_wt; its INPUT completes (R69, R285, R287). -/
def State.rloadEnded (s : State) (l : Load) (payload : List Byte) : State :=
  let s := s.logFree 0x08 payload
  let s := State.formWt { s with tables := { s.tables with rload := none } } (l.ctrl.getLsbD 0)
  if !l.input then s
  else
    let s := if s.seq.wait = .load then s.advance else s
    if !s.log.replay then s
    else
      match s.nextRec 0x08 (fun _ => true) with
      | some r => if r.payload = payload then s.takeRec r else s.diverge r.seq
      | none => s.noRecord

/-- Bytes of an image that a full load reads: the header whatever RZ_RBANK_LEN says (R69, check 1), and no more than a bank
holds. -/
def bankRead (len : Nat) : Nat := max 64 (min len 4194304)

/-- A full load ends (R69). A header that could not be read fails check 1; a digest lost to parity errors refuses the load
with code 8 (log entry 38). What a refused load leaves is no usable content: the bank is emptied, and a read of its domain finds
no byte (log entry 36). -/
def State.endFullLoad (s : State) (l : Load) (unreadable : Bool) : State :=
  let b := l.ctrl.getLsbD 0
  let img := s.readMem l.src (bankRead l.len)
  let code := if unreadable then 3 else if s.digestLost && bankCheck l.len img == 1 then 8 else bankCheck l.len img
  let hdr := if unreadable then List.replicate 64 0 else img.take 64
  let body := hStar (img.drop 64)
  let bank : RBank := if code = 1 then { bytes := img, bodyDigest := body, digest := sha256 (img.take 64 ++ body) } else .cleared
  let s := { s.setObj (rbankStateKey b) code with
    tables := { s.tables with rbanks := s.tables.rbanks.set b bank }
    digests := if code = 1 then s.digests.formed bank.digest else s.digests }
  s.rloadEnded l (rbankRecord hdr bank.bodyDigest b false code)

/-- A header-only load ends (R70). -/
def State.endHeaderLoad (s : State) (l : Load) (unreadable : Bool) : State :=
  let b := l.ctrl.getLsbD 0
  let hdr := if unreadable then List.replicate 64 0 else s.readMem l.src 64
  let bank := s.tables.rbanks.get b
  let loading := s.obj (rbankStateKey b) = 2
  if (loading && !unreadable && !s.digestLost && headerLoadOk (s.bankHdr b) (ofBytes 512 hdr)) = true then
    let bank := { bank with bytes := hdr ++ bank.bytes.drop 64, digest := sha256 (hdr ++ bank.bodyDigest) }
    let s := { s.setObj (rbankStateKey b) 1 with
      tables := { s.tables with rbanks := s.tables.rbanks.set b bank }, digests := s.digests.formed bank.digest }
    s.rloadEnded l (rbankRecord hdr bank.bodyDigest b true 1)
  else
    let s := if loading then s.setObj (rbankStateKey b) 1 else s
    let s := s.soot_ { code := 0x30, sev := 0, action := 0, loc := b2n b }
    s.rloadEnded l (rbankRecord hdr bank.bodyDigest b true (s.obj (rbankStateKey b)))

/-- States in which a load runs. -/
def State.loads (s : State) : Bool := s.mode == .ready || s.mode == .running || s.mode == .banked

/-- RBANK_LOAD_DONE: the load ends once its records can be written (R280); `unreadable`: the header could not be read. -/
def execRbankLoadDone (unreadable : Bool) (s : State) : Res :=
  .next (
    match s.tables.rload with
    | none => s
    | some l =>
      if !s.loads || !s.logReady [128, 32] then s
      else if l.ctrl.getLsbD 1 then (s.endHeaderLoad l unreadable).digestEnd
      else (s.endFullLoad l unreadable).digestEnd)

/-- No accepted step that names a bank has its last grate cycle to come (R71). -/
def State.bankUnused (s : State) (b : Bool) : Bool :=
  [false, true].all (fun x =>
    match s.bankStep x with
    | some t => t.cancelled || Desc.routerBank t.desc != b || t.grateEnd.isSome
    | none => true)

/-- INPUT_RBANK_LOAD: a held load is applied, or a held digest taken; in a replay the log's next record of the class. -/
def execInputRbankLoad (s : State) : Res :=
  .next (
    if !s.atInput 2 || s.tables.rload.isSome || !s.logReady [32, 32, 32] then s
    else
      let begin_ (s : State) (l : Load) : State :=
        if s.bankUnused (l.ctrl.getLsbD 0) then State.startRload (s.blockRewind.beginOp .load) { l with input := true } else s
      let take (s : State) (bs : List Byte) : State := (s.blockRewind.takeWdigest bs).advance
      if s.log.replay then
        match s.replayRecs.find? (fun r => (r.ty == 0x08 || r.ty == 0x0B) && !s.log.taken.contains r.idx) with
        | none => s.noRecord
        | some r =>
          if r.ty = 0x0B then take (s.takeRec r) r.payload
          else
            let w : BitVec 256 := ofBytes 256 (r.payload.drop 96)
            let ctrl : Byte := BitVec.ofNat 8 (0x80 + 2 * b2n (bit w 8) + fld w 0 0)
            begin_ s { ctrl := ctrl, src := s.obj Obj.RZ_RBANK_SRC, len := s.obj Obj.RZ_RBANK_LEN, image := none, input := true }
      else
        let clear (s : State) : State := { s with seq := { s.seq with held := { s.seq.held with rbank := none, wdigest := none } } }
        match s.seq.held.rbank, s.seq.held.wdigest with
        | none, none => s
        | none, some w => take (clear s) w
        | some l, w =>
          if !s.bankUnused (l.ctrl.getLsbD 0) then s
          else
            let s := match w with
              | some w => s.takeWdigest w
              | none => s
            begin_ (clear s) l)

/-! ### Function tables -/

/-- A table load that waits for room in the log (R280). -/
def LogHeld.isTable : LogHeld → Bool
  | .table _ _ _ => true
  | _ => false

/-- RZ_FTAB_CTRL: one load is held, waits for its record or runs at a time (R97). -/
def ftabRules (s : State) (v : Nat) : OwnRules :=
  let one := s.tables.fload.isSome || s.seq.held.ftab.isSome || s.log.held.any LogHeld.isTable
  { state := true, busy := v.testBit 7 && one, value := bits v 6 0 == 0 }

/-- The image of a table load, as the log and the slot take it. -/
def State.ftabImage (s : State) (l : Load) : List Byte := l.image.getD (s.readMem l.src (tableRead l.len))

/-- A table load is applied: recorded, and its slot shows 2 (R97, R99). -/
def State.startFload (s : State) (l : Load) : State :=
  let img := s.ftabImage l
  let s := s.logFree 0x09 img
  let slot := FtHdr.slot (ftHdr img)
  let s := if 11 ≤ slot then s.setObj (ftabStateKey slot) 2 else s
  { s with tables := { s.tables with fload := some { l with image := some img } } }

/-- GO to RZ_FTAB_CTRL. -/
def State.ftabGo (v : Nat) (s : State) : State :=
  if !v.testBit 7 then s
  else
    let l : Load := { ctrl := BitVec.ofNat 8 v, src := s.obj Obj.RZ_FTAB_SRC, len := s.obj Obj.RZ_FTAB_LEN, image := none,
                      input := false }
    if s.mode = .running then { s with seq := { s.seq with held := { s.seq.held with ftab := some l } } }
    else s.orHold (.table l.ctrl l.src l.len) [tableRead l.len] (fun s => s.startFload l)

/-- FTAB_LOAD. -/
def execFtabLoad (path : Path) (tag : ReqTag) (ctrl : Byte) (s : State) : Res :=
  let v := 0x80 + bits ctrl.toNat 6 0
  .next (odWrite s (scalarReq path tag Obj.RZ_FTAB_CTRL v) (ftabRules s v) (State.ftabGo v))

/-- A table load ends (R99): the slot's state, the failure's place, FTD and D_wt. -/
def State.endFload (s : State) (l : Load) : State :=
  let img := s.ftabImage l
  let slot := FtHdr.slot (ftHdr img)
  let r := ftCheck l.len img
  let (code, idx) : Nat × Nat := if s.digestLost && r.1 == 1 then (8, 0) else r
  let v : FSlot := if code = 1 then { bytes := img, digest := sha256 img } else .cleared
  let s := if 11 ≤ slot then
      { s.setObj (ftabStateKey slot) code with tables := { s.tables with fslots := s.tables.fslots.set (slot - 11) v } }
    else s
  let s := if code = 1 then s else s.setObj Obj.RZ_FTAB_LAST_FAIL (pack [(8, slot), (8, code), (16, idx)])
  let s : State := { s with
    tables := { s.tables with fload := none }, digests := if code = 1 then s.digests.formed v.digest else s.digests }
  let s := (s.formWt false).formWt true
  if l.input ∧ s.seq.wait = .load then s.advance else s

/-- FTAB_LOAD_DONE. -/
def execFtabLoadDone (s : State) : Res :=
  .next (
    match s.tables.fload with
    | none => s
    | some l => if s.loads && s.logReady [32, 32] then (s.endFload l).digestEnd else s)

/-- No accepted step whose gate pipeline reads a slot still scores (R100). -/
def State.slotUnused (s : State) (slot : Nat) : Bool :=
  [false, true].all (fun x =>
    match s.bankStep x with
    | some t => t.cancelled || !(s.slotsRead t.desc).contains slot || t.grateEnd.isSome
    | none => true)

/-- INPUT_FTAB_LOAD. -/
def execInputFtabLoad (s : State) : Res :=
  .next (
    if !s.atInput 5 || s.tables.fload.isSome then s
    else
      let room (s : State) (l : Load) : Bool := s.logReady [(s.ftabImage l).length]
      let free (s : State) (l : Load) : Bool := s.slotUnused (FtHdr.slot (ftHdr (s.ftabImage l)))
      let begin_ (s : State) (l : Load) : State := State.startFload (s.blockRewind.beginOp .load) { l with input := true }
      if s.log.replay then
        match s.nextRec 0x09 (fun _ => true) with
        | none => s.noRecord
        | some r =>
          let l : Load := { ctrl := 0x80, src := 0, len := r.payload.length, image := some r.payload, input := true }
          if room s l && free s l then begin_ (s.takeRec r) l else s
      else
        match s.seq.held.ftab with
        | none => s
        | some l =>
          if room s l && free s l then begin_ { s with seq := { s.seq with held := { s.seq.held with ftab := none } } } l else s)

/-! ### Seeds (R101) -/

/-- RZ_NOISE_SEED. -/
def seedRules (s : State) : OwnRules :=
  { state := true, busy := s.mode == .running && s.seq.held.seed.isSome, value := true }

/-- A seed takes effect, after its record (R280, R283). -/
def State.applySeed (s : State) (v : BitVec 64) : State :=
  (s.logFree 0x06 (toBytes v)).setObj Obj.RZ_NOISE_SEED v.toNat

/-- A seed is supplied: held in RUNNING. -/
def State.supplySeed (s : State) (v : BitVec 64) : State :=
  if s.mode = .running then { s with seq := { s.seq with held := { s.seq.held with seed := some v } } }
  else s.orHold (.seed v) [8] (fun s => s.applySeed v)

/-- The primary's write, forwarded to the secondary. -/
def State.seedWrite (v : Nat) (s : State) : State :=
  (s.supplySeed (BitVec.ofNat 64 v)).toPeer (.hostInput (.seed (BitVec.ofNat 64 v)))

/-- NOISE_SEED_WRITE. -/
def execNoiseSeedWrite (path : Path) (tag : ReqTag) (v : BitVec 64) (s : State) : Res :=
  .next (odWrite s (scalarReq path tag Obj.RZ_NOISE_SEED v.toNat) (seedRules s) (State.seedWrite v.toNat))

/-- Both rewind records keep an input given since their STEP (R359). -/
def State.keepInputs (s : State) (seeds : List (BitVec 64)) (masks : List Mask) : State :=
  let f (t : Step) : Step :=
    { t with rewind := t.rewind.map (fun r => { r with seeds := r.seeds ++ seeds, masks := r.masks ++ masks }) }
  (s.onStep false f).onStep true f

/-- INPUT_SEED: from the kept copy, the log, or the host. -/
def execInputSeed (s : State) : Res :=
  .next (
    if !s.atInput 3 then s
    else
      match s.seq.keptSeeds with
      | v :: vs =>
        let s := { s with seq := { s.seq with keptSeeds := vs } }
        ((s.setObj Obj.RZ_NOISE_SEED v.toNat).keepInputs [v] []).advance
      | [] =>
        let use (s : State) (v : BitVec 64) : State := ((s.applySeed v).keepInputs [v] []).advance
        if !s.logReady [8] then s
        else if s.log.replay then
          match s.nextRec 0x06 (fun _ => true) with
          | some r => use (s.takeRec r) (ofBytes 64 r.payload)
          | none => s.noRecord
        else
          match s.seq.held.seed with
          | some v => use { s with seq := { s.seq with held := { s.seq.held with seed := none } } } v
          | none => s)

/-! ### Skip masks (R115, R116) -/

/-- RZ_SKIP_CTRL. -/
def skipRules (v : Nat) : OwnRules := { state := true, busy := false, value := bits v 6 0 == 0 }

def maskOf (addr len : Nat) : Mask := { pieces := [(addr, ceilDiv len 8)], len := some len }

def State.maskBytes (s : State) (m : Mask) : List Byte := m.pieces.flatMap (fun p => s.readMem p.1 p.2)

/-- Payload lengths of the records of a mask of `n` bytes, in parts (Table 11-5). -/
def maskSizes (n : Nat) : List Nat :=
  (List.range (max 1 (ceilDiv n 32768))).map (fun i => min 32768 (n - 32768 * i))

/-- A mask's records. -/
def State.logMask (s : State) (m : Mask) : State :=
  let bs := s.maskBytes m
  (List.range (maskSizes bs.length).length).foldl (fun s i => s.logFree 0x07 (slice bs (32768 * i) 32768)) s

/-- The log can take a mask's records. -/
def State.maskReady (s : State) (m : Mask) : Bool := s.logReady (maskSizes (s.maskBytes m).length)

/-- A mask is taken, after its records; it replaces one that no step has used. -/
def State.takeMask (s : State) (m : Mask) : State :=
  let s := s.logMask m
  { s with seq := { s.seq with mask := some m } }

/-- A mask is supplied: held in RUNNING, in place of a held one. -/
def State.supplyMask (s : State) (addr len : Nat) : State :=
  let m := maskOf addr len
  if s.mode = .running then { s with seq := { s.seq with held := { s.seq.held with mask := some m } } }
  else s.orHold (.mask addr len) (maskSizes (ceilDiv len 8)) (fun s => s.takeMask m)

/-- GO to RZ_SKIP_CTRL on the primary, forwarded to the secondary. -/
def State.skipGo (v : Nat) (s : State) : State :=
  if !v.testBit 7 then s
  else
    let addr := s.obj Obj.RZ_SKIP_SRC
    let len := s.obj Obj.RZ_SKIP_LEN
    (s.supplyMask addr len).toPeer (.hostInput (.mask (BitVec.ofNat 64 addr) (BitVec.ofNat 32 len)))

/-- SKIP_MASK_GO. -/
def execSkipMaskGo (path : Path) (tag : ReqTag) (ctrl : Byte) (s : State) : Res :=
  let v := 0x80 + bits ctrl.toNat 6 0
  .next (odWrite s (scalarReq path tag Obj.RZ_SKIP_CTRL v) (skipRules v) (State.skipGo v))

/-- SKIP_MASK records of one mask of `want` bytes, at the front of a log's records: they follow one another, each part but the
last full (Table 11-5). -/
def maskRecs (want : Nat) : Nat → List LogRec → List LogRec
  | _, [] => []
  | n, r :: rs =>
    if r.ty != 0x07 then []
    else if r.payload.length = 32768 ∧ n + 32768 < want then r :: maskRecs want (n + 32768) rs
    else [r]

/-- The records of the log's next mask; SEGMENT_END may stand between them. -/
def State.nextMask (s : State) : List LogRec :=
  let rs := s.replayRecs.filter (fun r => r.ty != 0x1F)
  maskRecs (ceilDiv (s.obj Obj.RZ_SKIP_LEN) 8) 0 (rs.dropWhile (fun r => r.ty != 0x07 || s.log.taken.contains r.idx))

/-- INPUT_SKIP_MASK: from the kept copy, the log, or the host; until the log has room for its records the mask stays held
(R280). -/
def execInputSkipMask (s : State) : Res :=
  .next (
    if !s.atInput 4 then s
    else
      match s.seq.keptMasks with
      | m :: ms =>
        State.advance (State.keepInputs { s with seq := { s.seq with keptMasks := ms, mask := some m } } [] [m])
      | [] =>
        let use (s : State) (m : Mask) : State := ((s.takeMask m).keepInputs [] [m]).advance
        if s.log.replay then
          let rs := s.nextMask
          if rs.isEmpty then s.noRecord
          else
            let m : Mask := { pieces := rs.map (fun r => (s.obj Obj.RZ_REPLAY_SRC + r.at_, r.payload.length)), len := none }
            if s.maskReady m then use (rs.foldl State.takeRec s) m else s
        else
          match s.seq.held.mask with
          | some m =>
            if s.maskReady m then use { s with seq := { s.seq with held := { s.seq.held with mask := none } } } m else s
          | none => s)

end Sys2Proof.Machine
end

