-- ==== Sys2Proof/Machine/Place.lean ====
section
/-!
DEFINITION. The placement image (R254, R255): its parts and checks, and how a member takes it.
-/

namespace Sys2Proof.Machine

abbrev PlHdr := BitVec 512

namespace PlHdr
/-- Table 10-6. -/
def magic (h : PlHdr) : Nat := fld h 511 480
def ver (h : PlHdr) : Nat := fld h 479 472
def epoch (h : PlHdr) : Nat := fld h 471 456
def ngrp (h : PlHdr) : Nat := fld h 455 447
def bodyCrc (h : PlHdr) : Nat := fld h 415 384
def reservedOk (h : PlHdr) : Bool := fld h 446 416 == 0 && fld h 383 0 == 0
end PlHdr

def plHdr (img : List Byte) : PlHdr := ofBytes 512 (img.take 64)

/-- Entries of the image, by instance. -/
def plEntries (img : List Byte) : Tab (BitVec 64) := tabOfBytes 64 65536 ((img.drop 64).take 524288)

/-- Group records: GROUP, the reserved bits' test, the member entries. -/
def plGroups (img : List Byte) : List (Nat × Bool × Tab (BitVec 32)) :=
  (List.range (PlHdr.ngrp (plHdr img))).map (fun j =>
    let r := slice img (524352 + 16448 * j) 16448
    let h : BitVec 512 := ofBytes 512 (r.take 64)
    (fld h 511 504, fld h 503 0 == 0, tabOfBytes 32 4096 (r.drop 64)))

/-- The replicas of an expert agree with its replica count. -/
def replicasOk (t : Tab (BitVec 64)) (x : Nat) : Bool :=
  let at_ (r : Nat) : PEntry := Tabs.get (fun _ => (0 : BitVec 64)) t (16 * x + r)
  let valid := (List.range 16).filter (fun r => PEntry.valid (at_ r))
  match valid with
  | [] => true
  | r :: _ =>
    let n := PEntry.nrepM1 (at_ r) + 1
    decide (valid = List.range n) && valid.all (fun r => PEntry.nrepM1 (at_ r) + 1 == n)

/-- Check 4. -/
def plContentOk (img : List Byte) : Bool :=
  let t := plEntries img
  let homes := t.map (fun p => (PEntry.node p.2, PEntry.qnum p.2))
  let gs := plGroups img
  t.all (fun p => PEntry.valid p.2 && PEntry.reservedOk p.2 && decide (PEntry.qnum p.2 ≤ 2043) && p.1 / 16 != 0xFFF) &&
  ((t.map (fun p => p.1 / 16)).eraseDups).all (replicasOk t) &&
  decide homes.Nodup && decide (gs.map (·.1)).Nodup &&
  gs.all (fun g => g.2.1 && groupWf g.2.2)

/-- The image's state code (R255); 1 where every check passes. -/
def plCheck (len epoch : Nat) (img : List Byte) : Nat :=
  let h := plHdr img
  if decide (img.length < 64) || PlHdr.magic h != 0x504C4345 || PlHdr.ver h != 3 || decide (256 < PlHdr.ngrp h) ||
      !PlHdr.reservedOk h then 3
  else if len != 524352 + 16448 * PlHdr.ngrp h then 4
  else if (crc32 (img.drop 64)).toNat != PlHdr.bodyCrc h then 5
  else if !plContentOk img then 6
  else if PlHdr.epoch h != (epoch + 1) % 65536 then 7
  else 1

/-- The largest image: 256 group records. -/
def plMax : Nat := 524352 + 16448 * 256

/-- The queue map of this engine's entries (R255, R377). -/
def State.queueMap (s : State) (t : Tab (BitVec 64)) : Tab (BitVec 64) :=
  t.foldl (fun m p =>
    if PEntry.node p.2 = s.node then
      Tabs.set (fun _ => 0) m (PEntry.qnum p.2) (QEntry.mk false p.1 (PEntry.die p.2))
    else m) []

/-- A checked image's entries are written into bank EPOCH[0], and the queue map is built. -/
def State.loadPlacement (s : State) (img : List Byte) : State :=
  let b := PlHdr.epoch (plHdr img) % 2 == 1
  let t := plEntries img
  { s with tables := { s.tables with place := s.tables.place.set b t, qmap := s.tables.qmap.set b (s.queueMap t) } }

/-- The image's group records replace their groups whole, and make them valid again (R252, R267). -/
def State.applyGroups (s : State) (img : List Byte) : State :=
  (plGroups img).foldl (fun s g =>
    let es := (List.range 4096).map (fun i => Tabs.get (fun _ => (0 : BitVec 32)) g.2.2 i)
    { s with tables := { s.tables with
        groups := Tabs.setRun (fun _ => 0) s.tables.groups (4096 * g.1) es
        badGroups := s.tables.badGroups.filter (· != g.1) } }) s

end Sys2Proof.Machine
end

