-- ==== Sys2Proof/Machine/Coll.lean ====
section
/-!
DEFINITION. Collectives (R243, R247, R248, R251, R279) and the placement commit (R256): the shared operations. A member holds
one collective at a time; a message that comes before the member has reached its collective waits.
-/

namespace Sys2Proof.Machine

/-! ### Statistics blocks (R247, R258, R259) -/

/-- A saturating sum of n-bit values, and whether it saturated. -/
def satAdd (n a b : Nat) : Nat × Nat := if 2 ^ n ≤ a + b then (2 ^ n - 1, 1) else (a + b, 0)

/-- Two runs of 32-bit words summed word by word. -/
def sumWords : Nat → List Byte → List Byte → List Byte × Nat
  | 0, _, _ => ([], 0)
  | n + 1, a, b =>
    let (v, c) := satAdd 32 (leNat (a.take 4)) (leNat (b.take 4))
    let r := sumWords n (a.drop 4) (b.drop 4)
    (leBytes 4 v ++ r.1, c + r.2)

/-- Two runs of FP32 words summed word by word. -/
def sumFloats : Nat → List Byte → List Byte → List Byte
  | 0, _, _ => []
  | n + 1, a, b =>
    let v := F32.add (BitVec.ofNat 32 (leNat (a.take 4))) (BitVec.ofNat 32 (leNat (b.take 4)))
    leBytes 4 v.toNat ++ sumFloats n (a.drop 4) (b.drop 4)

/-- Bytes of a statistics block (Table 10-7). -/
def statBytes : Nat := 786496

/-- Two blocks summed; how many fields saturated. -/
def sumStats (a b : List Byte) : List Byte × Nat :=
  let ha : BitVec 512 := ofBytes 512 (a.take 64)
  let hb : BitVec 512 := ofBytes 512 (b.take 64)
  let f (hi lo : Nat) : Nat × Nat := satAdd (hi + 1 - lo) (fld ha hi lo) (fld hb hi lo)
  let steps := f 511 480
  let cmp := f 479 416
  let chg := f 415 352
  let members := f 351 320
  let ints := sumWords 131072 (a.drop 64) (b.drop 64)
  (statHeader steps.1 cmp.1 chg.1 members.1 ++ ints.1 ++ sumFloats 65536 (a.drop 524352) (b.drop 524352),
    steps.2 + cmp.2 + chg.2 + members.2 + ints.2)

/-- LOCAL as a member contributes it: MEMBERS is 1 (Table 10-8). -/
def State.localStats (s : State) : List Byte :=
  let bs := s.readMem (s.obj Obj.RZ_STATS_BASE) statBytes
  let h : BitVec 512 := ofBytes 512 (bs.take 64)
  statHeader (fld h 511 480) (fld h 479 416) (fld h 415 352) 1 ++ bs.drop 64

/-! ### Route lines (R261, R266) -/

def noRoute : Nat → BitVec 128 := fun _ => 0

/-- Where half x of a line lies in LPDDR5X. -/
def State.halfAddr (s : State) (r : RMap) (x : Bool) : Nat :=
  s.obj Obj.RZ_ROUTE_MEM_BASE + RMap.line r * 4096 + b2n x * (262144 * RMap.rb r)

/-- This member's stream: each valid half's entry and records, in map order. -/
def State.routeStream (s : State) : List Byte :=
  (s.tables.routeMap.filter (fun p => RMap.valid p.2 && RMap.validH p.2)).flatMap (fun p =>
    toBytes p.2 ++ s.lp.read (s.halfAddr p.2 (RMap.cur p.2)) (262144 * RMap.rb p.2))

/-- The stream cut or padded with 0xFF to the capacity; bytes beyond it are counted. -/
def State.sendStream (s : State) : List Byte × State :=
  let cap := s.obj Obj.RZ_ROUTE_STORE_CAP
  let bs := s.routeStream
  ((bs.take cap) ++ List.replicate (cap - bs.length) 0xFF, s.count Obj.RZ_COLL_PAD_DROP (bs.length - cap))

/-- Where the first member stores position j's stream. -/
def State.storeAddr (s : State) (j : Nat) : Nat := s.obj Obj.RZ_ROUTE_STORE_BASE + (j - 1) * s.obj Obj.RZ_ROUTE_STORE_CAP

/-- One complete line of a restored stream is written into half 0 of the entry it matches. -/
def State.restoreLine (s : State) (r : RMap) (bs : List Byte) : State :=
  match s.tables.routeMap.find? (fun p => RMap.valid p.2 && RMap.descOff p.2 == RMap.descOff r &&
      RMap.firstToken p.2 == RMap.firstToken r && RMap.k p.2 == RMap.k r) with
  | none => s
  | some (i, e) =>
    let s := s.writeLp (s.halfAddr e false) bs
    { s with tables := { s.tables with routeMap := Tabs.set noRoute s.tables.routeMap i (RMap.setHalf e false true) } }

/-- The lines of a stream, up to its padding or a line cut short; the fuel is the map's size. -/
def restoreLines : Nat → List Byte → State → State
  | 0, _, s => s
  | n + 1, bs, s =>
    let r : RMap := ofBytes 128 (bs.take 16)
    let len := 262144 * RMap.rb r
    if decide (bs.length < 16 + len) || !RMap.valid r || !RMap.reservedOk r then s
    else restoreLines n (bs.drop (16 + len)) (s.restoreLine r (slice bs 16 len))

/-- A member's stream applies: its record, held in a replay against the log's, and its lines (R266, R283). -/
def State.applyStream (s : State) (bs : List Byte) : State :=
  let h := hStar bs
  let s := restoreLines 4096 bs (State.logFree { s with digests := s.digests.formed h } 0x0C h)
  if !s.log.replay then s
  else
    match s.nextRec 0x0C (fun _ => true) with
    | some r => if r.payload = h then s.takeRec r else s.diverge r.seq
    | none => s.diverge s.log.seq.toNat

/-- A member's stream has come back. -/
def State.takeStream (s : State) (bs : List Byte) : State := s.orHold (.stream bs) [32] (fun s => s.applyStream bs)

/-! ### Messages -/

/-- The bytes of a value that a message carries, where the manual gives their number: a statistics block, a stream. -/
def collSize : CollBody → Option Nat
  | .stats b => some b.length
  | .stream bs => some bs.length
  | _ => none

/-- A message of a collective to the member at a position. -/
def State.collSend (s : State) (c : Coll) (dst : Nat) (dir : TreeDir) (pos : Nat) (body : CollBody) : State :=
  match (s.members c.group)[dst]? with
  | some n =>
    s.sendLen n 3 (.coll (BitVec.ofNat 8 c.group) (BitVec.ofNat 8 c.program) dir pos body) (.coll c.group c.program) (collSize body)
  | none => s

/-- A member's own last message has left. -/
def State.collSent (s : State) (c : Coll) : State :=
  { s with colls := { s.colls with now := some { c with sentUp := true, sentAt := s.core } } }

def State.collClear (s : State) : State := { s with colls := { s.colls with now := none } }

/-! ### Failure (R251) -/

/-- A failure is counted, and its group, program and silent position recorded (R251). -/
def State.collCount (s : State) (group program silent : Nat) : State :=
  (s.count Obj.RZ_COLL_FAIL 1).setObj Obj.RZ_COLL_LAST_FAIL (pack [(8, group), (8, program), (4, 0), (12, silent)])

/-- A failure is counted and recorded, with the silent member's node (R350). -/
def State.collRecord (s : State) (group program silent : Nat) : State :=
  (s.collCount group program silent).soot_
    { code := 0x70, sev := 2, action := 1, loc := group * 2 ^ 24 + program * 2 ^ 16, detail := silent
      node := (s.members group)[silent]? }

/-- The sequencer waits for a collective: at a COLL, or for the start barrier. -/
def State.collWaits (s : State) (c : Coll) : Bool :=
  match s.seq.wait with
  | .coll g p => g == c.group && p == c.program
  | .step => c.program == 0x01 && s.seq.fetched.isSome
  | _ => false

/-- A failed COLL, or start barrier: the status record, and the halt. -/
def State.collHalt (s : State) : State :=
  (s.postStatus (statusRecord 0xFFFFFFFF 0x11 0 7 15 0 s.seq.pc 0)).haltFor 6 Alert.seqHalt

/-! ### The commit's decision (R256) -/

/-- PLACE_COMMIT's payload: the image's header, its H*, the decision. -/
def commitRecord (img : List Byte) (code : Nat) : List Byte :=
  zeroFill 64 (img.take 64) ++ hStar img ++ toBytes (packed 256 [(248, 0), (8, code)])

/-- In a replay the decision's record must equal the log's. -/
def State.checkCommit (s : State) (payload : List Byte) : State :=
  if !s.log.replay then s
  else
    match s.nextRec 0x0A (fun _ => true) with
    | some r => if r.payload = payload then s.takeRec r else s.diverge r.seq
    | none => s.diverge s.log.seq.toNat

/-- The decision takes effect at this member, after its record. -/
def State.applyDecision (s : State) (commit : Bool) : State :=
  match s.colls.commit with
  | none => s
  | some c =>
    let payload := commitRecord c.image (if commit then 1 else 9)
    let s := s.logFree 0x0A payload
    let s := { s with colls := { s.colls with commit := none, now := none }, digests := s.digests.formed (hStar c.image) }
    let waits := c.input && decide (s.seq.wait = .commit)
    let s := if commit then
        let s := (s.setObj Obj.RZ_PLACE_EPOCH (PlHdr.epoch (plHdr c.image))).setObj Obj.RZ_PLACE_STATE 1
        let s := State.applyGroups { s with tables := { s.tables with placed := true } } c.image
        if waits then s.advance else s
      else
        let s := s.setObj Obj.RZ_PLACE_STATE 9
        if waits then s.haltFor 7 Alert.seqHalt else s
    s.checkCommit payload

/-- The decision has come. -/
def State.decide_ (s : State) (commit : Bool) : State := s.orHold (.decision commit) [128] (fun s => s.applyDecision commit)

/-- A collective fails at this member, with the position that stayed silent: a vote counts as ABORT. -/
def State.collFail (s : State) (c : Coll) (silent : Nat) : State :=
  let waits := s.collWaits c
  let s := (s.collRecord c.group c.program silent).collClear
  if c.program = 0x80 then s.decide_ false else if waits then s.collHalt else s

/-! ### Completion -/

/-- A release time as the root takes it (R279). -/
def State.releaseTime (s : State) : Nat := roundUp (s.ftime.value.toNat + s.obj Obj.RZ_RELEASE_LEAD) 1200

/-- A barrier releases by time: the start barrier over a group, or every BARRIER (code 0x01) while timing is repeatable
(R279). -/
def State.timedBarrier (s : State) (c : Coll) : Bool :=
  c.program == 0x01 && (s.seq.fetched.isSome || s.flag Obj.RZ_TIMING_REPEAT)

/-- A release is refused: FTIME is invalid in a group wider than a tray, or the time has passed (R279). -/
def State.releaseBad (s : State) (c : Coll) (t : Nat) : Bool :=
  (!s.ftime.valid && decide (2 ≤ scopeOf (s.members c.group))) || decide (t < s.ftime.value.toNat)

/-- The barrier has completed here: the COLL is over, and a release time holds the next pulse. -/
def State.barrierDone (s : State) (c : Coll) (time : Option Nat) : State :=
  match time with
  | some t =>
    if s.releaseBad c t then s.collFail c c.pos
    else
      let waits := decide (s.seq.wait = .coll c.group c.program)
      let s := { s.collClear with seq := { s.seq with
        barrier := { s.seq.barrier with release := some t, needRelease := true } } }
      if waits then s.advance else s
  | none =>
    let waits := decide (s.seq.wait = .coll c.group c.program)
    if waits then s.collClear.advance else s.collClear

/-- A COLL that brings no more than its end is over. -/
def State.collOver (s : State) (c : Coll) : State :=
  if s.collWaits c then s.collClear.advance else s.collClear

/-- What goes down from a member to its children, and takes effect here. -/
def State.collDown (s : State) (c : Coll) (body : CollBody) : State :=
  let kids := childrenOf (s.parents c.group) c.pos
  let s := kids.foldl (fun s k => s.collSend c k .down c.pos body) s
  match body with
  | .release t => s.barrierDone c t
  | .stats block => (s.writeMem (s.obj Obj.RZ_STATS_BASE + 1048576) block).collOver c
  | .decision commit => s.decide_ commit
  | _ => s.collOver c

/-! ### The way up -/

/-- A child's contribution combined with what has been formed so far: counts of saturation. -/
def combineBody (a b : CollBody) : CollBody × Nat :=
  match a, b with
  | .stats x, .stats y => let r := sumStats x y; (.stats r.1, r.2)
  | .vote p x, .vote q y => (.vote (p && q && x == y) x, 0)
  | x, _ => (x, 0)

/-- The root's answer to the value of the whole group. -/
def State.rootAnswer (s : State) (c : Coll) (body : CollBody) : CollBody :=
  match body with
  | .vote p _ => .decision p
  | .stats b => .stats b
  | _ => .release (if s.timedBarrier c then some s.releaseTime else none)

/-- When every child's value is in, the subtree's goes up, or the root's answer down (R247). -/
def State.collStep (s : State) : State :=
  match s.colls.now with
  | none => s
  | some c =>
    let kids := childrenOf (s.parents c.group) c.pos
    match assoc c.got c.pos with
    | none => s
    | some own =>
      let vals := kids.filterMap (assoc c.got)
      if c.sentUp || vals.length < kids.length then s
      else
        let (v, sats) := vals.foldl (fun (acc : CollBody × Nat) x =>
          let r := combineBody acc.1 x
          (r.1, acc.2 + r.2)) (own, 0)
        let s := s.count Obj.RZ_STATS_SAT sats
        if c.pos = 0 then s.collDown c (s.rootAnswer c v)
        else (s.collSend c ((s.parents c.group).getD c.pos 0) .up c.pos v).collSent c

/-- A member's value, or a child's, is in. -/
def State.collGot (s : State) (pos : Nat) (body : CollBody) : State :=
  match s.colls.now with
  | none => s
  | some c => State.collStep { s with colls := { s.colls with now := some { c with got := assocSet c.got pos body } } }

/-! ### Streams (R266) -/

/-- Positions whose streams still have to pass this member. -/
def State.streamsLeft (s : State) (c : Coll) : List Nat :=
  (subtreeOf (s.parents c.group) c.pos).filter (fun j => decide (0 < j) && (assoc c.got j).isNone)

/-- The child through which a position is reached. -/
def State.childToward (s : State) (c : Coll) (j : Nat) : Option Nat :=
  (childrenOf (s.parents c.group) c.pos).find? (fun k => isAncestor (s.parents c.group) k (s.parents c.group).length j)

/-- A stream passes through the first member's staging, 1 MiB at a time (R266). -/
def State.stageStream (s : State) (bs : List Byte) : State :=
  (List.range ((bs.length + 1048575) / 1048576)).foldl (fun s i =>
    s.writeMem (s.obj Obj.RZ_ROUTE_STORE_STAGE) ((bs.drop (1048576 * i)).take 1048576)) s

/-- A stream has passed: kept here, stored by the first member, or handed on. -/
def State.passStream (s : State) (c : Coll) (j : Nat) (bs : List Byte) : State :=
  let s :=
    if c.program = 3 then
      if c.pos = 0 then (s.stageStream bs).writeLp (s.storeAddr j) bs
      else s.collSend c ((s.parents c.group).getD c.pos 0) .up j (.stream bs)
    else if j = c.pos then s.takeStream bs
    else
      match s.childToward c j with
      | some k => s.collSend c k .down j (.stream bs)
      | none => s
  let c := { c with got := assocSet c.got j .arrive, sentAt := s.core }
  let s := { s with colls := { s.colls with now := some c } }
  if (s.streamsLeft c).isEmpty then s.collOver c else s

/-- The streams that start here: a member's own lines, or what the first member returns. -/
def State.startStreams (s : State) (c : Coll) : State :=
  if c.program = 3 then
    if c.pos = 0 then (if (s.streamsLeft c).isEmpty then s.collOver c else s)
    else
      let (bs, s) := s.sendStream
      s.passStream c c.pos bs
  else if c.pos = 0 then
    let s := (s.streamsLeft c).foldl (fun s j =>
      match s.childToward c j with
      | some k =>
        let bs := s.lp.read (s.storeAddr j) (s.obj Obj.RZ_ROUTE_STORE_CAP)
        (s.stageStream bs).collSend c k .down j (.stream bs)
      | none => s) s
    s.collOver c
  else s

/-! ### A message is taken -/

/-- A message of the collective in progress. -/
def State.collTake (s : State) (c : Coll) (dir : TreeDir) (pos : Nat) (body : CollBody) : State :=
  match body with
  | .stream bs => if (s.streamsLeft c).contains pos then s.passStream c pos bs else s
  | _ =>
    match dir with
    | .up => if (childrenOf (s.parents c.group) c.pos).contains pos then s.collGot pos body else s
    | .down => if 0 < c.pos && c.sentUp then s.collDown c body else s

/-- Messages of a collective that came early. -/
def State.collEarly (s : State) (c : Coll) : State :=
  let hit (e : CollEarly) : Bool := e.group == c.group && e.program == c.program
  let es := s.colls.early.filter hit
  let s := { s with colls := { s.colls with early := s.colls.early.filter (fun e => !hit e) } }
  es.foldl (fun s e =>
    match s.colls.now with
    | some c => s.collTake c e.dir e.pos e.body
    | none => s) s

/-- A member begins a collective of a group it is in, with its own contribution; an unusable group fails at once. -/
def State.collBegin (s : State) (group program pos : Nat) (own : Option CollBody) : State :=
  let c : Coll := { group := group, program := program, pos := pos, got := [], sentUp := false, sentAt := s.core, begun := true }
  let s := { s with colls := { s.colls with now := some c } }
  if !s.groupUsable group then s.collFail c pos
  else
    let s := match own with
      | some v => s.collGot pos v
      | none => s.startStreams c
    match s.colls.now with
    | some c => s.collEarly c
    | none => s

/-! ### The barrier at a step's start (R31, R33, R279) -/

/-- Every other package of the tray. -/
def State.otherPackages (s : State) : List Nat := (List.range 8).filter (· != nodePkg s.node)

/-- The start barrier is still to begin, or in progress (R279). -/
def State.startHolds (s : State) : Bool :=
  s.seq.barrier.startDue ||
  match s.colls.now with
  | some c => c.program == 0x01 && s.seq.wait == .step && s.seq.fetched.isSome
  | none => false

/-- The tray master drives the pulse when its own package barrier and every other package's arrival are in and no release
time is awaited. -/
def State.pollPulse (s : State) : State :=
  let b := s.seq.barrier
  if s.flag Obj.RZ_TRAY_MASTER && b.own && b.peer && !b.fired && !b.needRelease && !s.startHolds &&
      s.otherPackages.all b.packages.contains then
    State.emit { s with seq := { s.seq with barrier := { b with fired := true } } } (.syncOut 8)
  else s

/-- The start barrier begins when the first STEP has completed its package barrier and no collective is in progress; an engine
outside the group runs none (R279). -/
def State.pollStartGroup (s : State) : State :=
  let b := s.seq.barrier
  if s.seq.wait = .step ∧ b.told = true ∧ b.startDue = true ∧ s.colls.now.isNone = true then
    let s := { s with seq := { s.seq with barrier := { b with startDue := false } } }
    let g := s.obj Obj.RZ_START_GROUP
    match s.posIn g s.node with
    | some p => (s.collBegin g 0x01 p (some .arrive)).pollPulse
    | none => s.pollPulse
  else s.pollPulse

/-- The package barrier has completed: the primary tells the tray master, whose node the manual does not give the engine (a
free value within the tray), and the start barrier may begin. -/
def State.pollBarrier (s : State) : State :=
  let b := s.seq.barrier
  if s.seq.wait = .step ∧ b.own = true ∧ b.peer = true ∧ b.told = false then
    let s := { s with seq := { s.seq with barrier := { b with told := true } } }
    let s := if s.primary && !s.flag Obj.RZ_TRAY_MASTER then
        let (f, s) := s.takeFree
        s.sendMsg (s.node / 16 * 16 + f.toNat % 16) 6 .trayArrival (.notice none)
      else s
    s.pollStartGroup
  else s.pollPulse

end Sys2Proof.Machine
end

