-- ==== Sys2Proof/Machine/Scan.lean ====
section
/-!
DEFINITION. The admission scan at a member (R122, R249, R251), and what it carries: the applied variants (R61 to R63) and
refusal markers (R49).
-/

namespace Sys2Proof.Machine

/-! ### Capacities (R42) -/

/-- A variant record (Table 2-4). -/
def State.capRecord (s : State) (d : Desc) (v : Nat) : BitVec 128 := ofBytes 128 (s.imgRead (Desc.capTable d + 16 * v) 16)

/-- Override entries of a variant (Table 2-5), in order. -/
def State.overrides (s : State) (d : Desc) (v : Nat) : List (BitVec 64) :=
  let r := s.capRecord d v
  (List.range (fld r 107 88)).map (fun j => ofBytes 64 (s.imgRead (fld r 63 32 + 8 * j) 8))

/-- The capacities of a variant: an instance's override, or CAP_BASE. -/
structure Caps where
  base : Nat
  table : Tab Nat
deriving DecidableEq, Repr

def State.caps (s : State) (d : Desc) (v : Nat) : Caps :=
  { base := fld (s.capRecord d v) 127 108, table := (s.overrides d v).map (fun e => (fld e 63 48, fld e 19 0)) }

def Caps.at_ (c : Caps) (i : Nat) : Nat := (c.table.lookup i).getD c.base

/-- cap_min of R127: CAP_DEFAULT's, or the smallest over the variants. -/
def State.capMin (s : State) (d : Desc) (i : Nat) : Nat :=
  if Desc.verdictMode d = 0 then (s.caps d (Desc.capDefault d)).at_ i
  else ((List.range (Desc.capVariants d)).map (fun v => (s.caps d v).at_ i)).foldl min (2 ^ 20)

/-! ### Counts -/

/-- Counts summed, instance by instance. -/
def addCounts (a b : Tab Nat) : Tab Nat := b.foldl (fun t p => Tabs.set zeroNat t p.1 (countOf t p.1 + p.2)) a

/-- The engine's last scored unit has been selected: the counts are final (R121). -/
def State.countsFinal (s : State) (t : Step) : Bool := t.grateAt.isSome && decide (s.unitsOf t.desc ≤ t.units)

def State.scanKids (s : State) (t : Step) : List Nat := childrenOf (s.parents (Desc.admGroup t.desc)) t.pos

def State.scanParent (s : State) (t : Step) : Option Nat :=
  if t.pos = 0 then none else some ((s.parents (Desc.admGroup t.desc)).getD t.pos 0)

/-! ### Messages -/

/-- The instances that the placement at a step's PLACE_EPOCH holds, in ascending ID (R249). -/
def State.scanInsts (s : State) (d : Desc) : List Nat :=
  ((s.tables.place.get (Desc.placeEpoch d % 2 == 1)).filter (fun p => PEntry.valid p.2)).map (·.1)

/-- Counts as a scan message carries them, and as they are taken from one. -/
def State.scanCounts (s : State) (d : Desc) (t : Tab Nat) : List (BitVec 32) :=
  (s.scanInsts d).map (fun i => BitVec.ofNat 32 (min (countOf t i) 0xFFFFFFFF))

def State.takeCounts (s : State) (d : Desc) (l : List (BitVec 32)) : Tab Nat :=
  tabOfCounts (((s.scanInsts d).zip l).map (fun p => (p.1, p.2.toNat)))

/-- A scan message's bytes: a header of 32, and 4 for each count (R249). -/
def scanSize (b : ScanBody) : Nat := 32 + 4 * ((b.counts.getD []).length + (b.totals.getD []).length)

/-- A message of a scan to an engine. -/
def State.scanTell (s : State) (d : Desc) (node : Nat) (dir : TreeDir) (pos : Nat) (body : ScanBody) : State :=
  s.sendLen node 3 (.scan (Desc.stepId d) (Desc.batch d) dir pos body) (.scan (Desc.key d) (Desc.admGroup d)) (some (scanSize body))

/-- A message of a step's scan to the member at a position. -/
def State.scanSend (s : State) (t : Step) (dst : Nat) (dir : TreeDir) (body : ScanBody) : State :=
  match t.members[dst]? with
  | some n => s.scanTell t.desc n dir t.pos body
  | none => s

/-- A change of a step's scan. -/
def State.onScan (s : State) (b : Bool) (f : Scan → Scan) : State := s.onStep b (fun t => { t with scan := f t.scan })

/-- What a message carries of the variant: the one in force at the end of the scan, the own, or one told (R63, R124). -/
def Step.toldVariant (t : Step) : Option (BitVec 4) :=
  let v := if Desc.verdictMode t.desc = 0 then some (Desc.capDefault t.desc) else t.scan.own.or t.scan.seen.head?
  v.map (BitVec.ofNat 4)

/-! ### Failure and markers -/

/-- A failed scan: counted and recorded; the step's batch epoch is cancelled, where it is not already, and the step marked (R251,
R356). -/
def State.scanFail (s : State) (b : Bool) (silent : Nat) : State :=
  match s.steps.get b with
  | none => s
  | some t =>
    let g := Desc.admGroup t.desc
    (s.collCount g 0 silent).mark b { code := 0x70, sev := 2, action := 1, loc := g * 2 ^ 24, detail := silent, node := t.members[silent]? }

/-- A message to every neighbour on the tree but one. -/
def State.scanAround (s : State) (t : Step) (but : Option Nat) (body : ScanBody) : State :=
  let s := match s.scanParent t with
    | some p => if but = some p then s else s.scanSend t p .up body
    | none => s
  (s.scanKids t).foldl (fun s k => if but = some k then s else s.scanSend t k .down body) s

/-- A refusal marker is received (R49): it goes on, and the step is cancelled and marked. -/
def State.scanMarker (s : State) (b : Bool) (from_ : Nat) (st : Byte) : State :=
  match s.steps.get b with
  | none => s
  | some t =>
    if t.marked || t.ended == .rewound then s
    else
      let s := s.scanAround t (some from_) { counts := none, totals := none, variant := none, marker := some st }
      s.mark b { code := 0x80, sev := 2, action := 1, detail := st.toNat, node := t.members[from_]? }

/-- Markers that came for a step which this member refuses too: none of them meets a step that it accepted (R49). -/
def State.dropMarkers (s : State) (d : Desc) : State :=
  { s with colls := { s.colls with
      scanEarly := s.colls.scanEarly.filter (fun e => e.body.marker.isNone || decide (e.key.stepId ≠ Desc.stepId d)) } }

/-- A step is refused here, and the host has not answered (R48). -/
def State.refusing (s : State) (id : BitVec 32) : Bool :=
  match s.seq.wait, s.seq.fetched with
  | .halted 2, some f => decide (Desc.stepId f.desc = id)
  | _, _ => false

/-- A refusing member posts its marker in place of its histograms (R49): whether another member accepts the step it cannot know
yet, and its marker acts only on members that do. -/
def State.postMarker (s : State) (d : Desc) (st : Nat) : State :=
  let g := Desc.admGroup d
  match s.posIn g s.node with
  | none => s
  | some pos =>
    let body : ScanBody := { counts := none, totals := none, variant := none, marker := some (BitVec.ofNat 8 st) }
    let parents := s.parents g
    let tell (s : State) (k : Nat) (dir : TreeDir) : State :=
      match (s.members g)[k]? with
      | some n => s.scanTell d n dir pos body
      | none => s
    let s := if pos = 0 then s else tell s (parents.getD pos 0) .up
    (childrenOf parents pos).foldl (fun s k => tell s k .down) s

/-! ### Variants (R61 to R63) -/

/-- A value goes to the neighbours that have had this member's own message. -/
def State.tellVariant (s : State) (t : Step) (v : Nat) (but : Option Nat) : State :=
  let body : ScanBody := { counts := none, totals := none, variant := some (BitVec.ofNat 4 v), marker := none }
  let s := match s.scanParent t with
    | some p => if t.scan.sentUp && but != some p then s.scanSend t p .up body else s
    | none => s
  t.scan.downSent.foldl (fun s k => if but = some k then s else s.scanSend t k .down body) s

/-- A told value differs from the own: the step is cancelled and marked (R63). `from_`: the member that told it, where one
just has. -/
def State.checkVariant (s : State) (b : Bool) (from_ : Option Nat) : State :=
  match s.steps.get b with
  | none => s
  | some t =>
    match t.scan.own with
    | none => s
    | some o =>
      match t.scan.seen.find? (· != o) with
      | some v => s.mark b { code := 0x81, sev := 2, action := 1, loc := o, detail := v, node := from_.bind (fun i => t.members[i]?) }
      | none => s

/-- A value told by another member. -/
def State.learnVariant (s : State) (b : Bool) (from_ v : Nat) : State :=
  match s.steps.get b with
  | none => s
  | some t =>
    if t.scan.seen.contains v then s
    else
      let s := s.onScan b (fun c => { c with seen := c.seen ++ [v] })
      let s := if t.scan.own = some v then s else s.tellVariant t v (some from_)
      s.checkVariant b (some from_)

/-- A variant is applied here (R61, R62, R124), or a cancel, 8. -/
def State.applyVariant (s : State) (b : Bool) (v : Nat) : State :=
  match s.steps.get b with
  | none => s
  | some t =>
    let s := s.onStep b (fun t => { t with
      variant := if v = 8 then none else some v, waitVerdict := none, scan := { t.scan with own := some v } })
    let told := t.toldVariant = some (BitVec.ofNat 4 v) || t.scan.seen.contains v
    let s := if told then s else s.tellVariant t v none
    let s := if v = 8 then s.cancelStep b else s
    s.checkVariant b none

/-! ### Host inputs of a replay (R285) -/

/-- A step takes the log's verdict, timeout or cancel of its ORD: at the end of the scan, or at T_OFF while timing is
repeatable. -/
def State.replayVerdicts (s : State) (b : Bool) : State :=
  let due (t : Step) (r : LogRec) : Bool :=
    inRange 2 4 r.ty && r.ord == t.ord.toNat && !s.log.taken.contains r.idx &&
    (!s.flag Obj.RZ_TIMING_REPEAT || decide (r.tOff ≤ s.since t.t0))
  match s.steps.get b with
  | none => s
  | some t =>
    if !s.log.replay || !s.logReady [8] then s
    else
      (s.replayRecs.filter (due t)).foldl (fun s r =>
        let w : BitVec 64 := ofBytes 64 r.payload
        let s := (s.takeRec r).logStep r.ty t r.payload
        match s.steps.get b with
        | some t =>
          if t.cancelled then s
          else if r.ty = 4 then s.cancelStep b
          else
            let s := if r.ty = 3 then s.count Obj.RZ_VERDICT_LATE 1 else s
            s.applyVariant b (fld w 3 0)
        | none => s) s

/-! ### Progress (R249) -/

/-- The subtree's totals go up, or at the root become the group's. -/
def State.scanUp (s : State) (b : Bool) : State :=
  match s.steps.get b with
  | none => s
  | some t =>
    let kids := s.scanKids t
    let below := kids.filterMap (assoc t.scan.fromBelow)
    if !s.countsFinal t || t.scan.sentUp || below.length < kids.length then s
    else
      let sum := below.foldl addCounts (s.tables.hist.get b)
      match s.scanParent t with
      | none => s.onScan b (fun c => { c with sentUp := true, group := some sum })
      | some p =>
        let s := s.scanSend t p .up { counts := some (s.scanCounts t.desc sum), totals := none, variant := t.toldVariant, marker := none }
        s.onScan b (fun c => { c with sentUp := true, sentAt := s.core })

/-- Offsets for children whose earlier siblings' totals are in, from an offset on: (child, offset). -/
def childOffsets (below : List (Nat × Tab Nat)) : List Nat → Tab Nat → List (Nat × Tab Nat)
  | [], _ => []
  | k :: ks, acc =>
    (k, acc) ::
      (match assoc below k with
      | some c => childOffsets below ks (addCounts acc c)
      | none => [])

/-- A child's offset leaves as soon as it is known, the group's totals in a message after it, for each message holds one count
for each instance. A subtree's offset counts the parent itself, which precedes it in the member list (R122). -/
def State.scanDown (s : State) (b : Bool) : State :=
  match s.steps.get b with
  | none => s
  | some t =>
    match t.scan.offset with
    | none => s
    | some o =>
      if !s.countsFinal t then s
      else
        let ready := (childOffsets t.scan.fromBelow (s.scanKids t) (addCounts o (s.tables.hist.get b))).filter
          (fun x => !t.scan.downSent.contains x.1)
        let s := ready.foldl (fun s x =>
          let s := s.scanSend t x.1 .down
            { counts := some (s.scanCounts t.desc x.2), totals := none, variant := t.toldVariant, marker := none }
          s.onScan b (fun c => { c with downSent := c.downSent ++ [x.1], sentAt := s.core })) s
        match t.scan.group with
        | none => s
        | some g =>
          ((t.scan.downSent ++ ready.map (·.1)).filter (fun k => !t.scan.totSent.contains k)).foldl (fun s k =>
            let s := s.scanSend t k .down
              { counts := none, totals := some (s.scanCounts t.desc g), variant := none, marker := none }
            s.onScan b (fun c => { c with totSent := c.totSent ++ [k], sentAt := s.core })) s

/-- Bytes of a bank's walk counters. -/
def walkBytes (t : Tab Nat) : List Byte := (List.range 65536).flatMap (fun i => leBytes 4 (countOf t i))

/-- Where a bank's walk counters lie (R125). -/
def State.walkAddr (s : State) (b : Bool) : Nat := s.obj Obj.RZ_WALK_BASE + b2n b * 262144

/-- The scan completes here: offsets in the walk counters, CAP_DEFAULT under VERDICT_MODE 0, the fused barrier (R124, R125,
R244, R285). -/
def State.scanEnd (s : State) (b : Bool) : State :=
  match s.steps.get b with
  | none => s
  | some t =>
    match t.scan.offset, t.scan.group with
    | some o, some g =>
      if !s.countsFinal t || t.scan.offs.isSome then s
      else
        let s := s.onScan b (fun c => { c with offs := some o, totals := g })
        let s := s.writeMem (s.walkAddr b) (walkBytes o)
        let fused := match s.seq.wait with
          | .coll _ 0x81 => s.colls.now.isNone && s.seq.fusedBank == b
          | _ => false
        let s := if fused then s.advance else s
        let s := if Desc.verdictMode t.desc = 0 then s.applyVariant b (Desc.capDefault t.desc) else s
        s.replayVerdicts b
    | _, _ => s

/-- Whatever the scan can do now, it does. -/
def State.scanTry (s : State) (b : Bool) : State := ((s.scanUp b).scanDown b).scanEnd b

/-- A message of a step's scan is taken. -/
def State.takeScan (s : State) (b : Bool) (dir : TreeDir) (pos : Nat) (body : ScanBody) : State :=
  match s.steps.get b with
  | none => s
  | some t =>
    let fits := match dir with
      | .up => (s.scanKids t).contains pos
      | .down => s.scanParent t == some pos
    if !fits then s
    else
      match body.marker with
      | some st => s.scanMarker b pos st
      | none =>
        let s := if t.cancelled then s
          else match dir, body.counts with
            | .up, some c => s.onScan b (fun x => { x with fromBelow := assocSet x.fromBelow pos (s.takeCounts t.desc c) })
            | .down, some c => s.onScan b (fun x => { x with offset := some (s.takeCounts t.desc c) })
            | _, none => s
        let s := match dir, body.totals with
          | .down, some g => if t.cancelled then s else s.onScan b (fun x => { x with group := some (s.takeCounts t.desc g) })
          | _, _ => s
        let s := match body.variant with
          | some v => s.learnVariant b pos v.toNat
          | none => s
        match s.bankStep b with
        | some t => if t.cancelled then s else s.scanTry b
        | none => s

/-- Messages of a step's scan that came before the step was accepted. -/
def State.earlyScans (s : State) (b : Bool) (k : Key) : State :=
  let es := s.colls.scanEarly.filter (fun e => decide (e.key = k))
  let s := { s with colls := { s.colls with scanEarly := s.colls.scanEarly.filter (fun e => decide (e.key ≠ k)) } }
  es.foldl (fun s e => s.takeScan b e.dir e.pos e.body) s

/-- SCAN_MESSAGE. -/
def execScanMessage (stepId : BitVec 32) (batch : BitVec 12) (dir : TreeDir) (pos : Nat) (body : ScanBody) (s : State) : Res :=
  let k : Key := { stepId := stepId, batch := batch }
  .next (
    if s.mode != .running then s
    else
      match s.bankOf k with
      | some b => s.takeScan b dir pos body
      | none =>
        let e : ScanEarly := { key := k, dir := dir, pos := pos, body := body }
        if body.marker.isSome && s.refusing stepId then s else
        { s with colls := { s.colls with scanEarly := s.colls.scanEarly ++ [e] } })

/-! ### The other collectives' messages and limits -/

/-- COLL_MESSAGE. -/
def execCollMessage (group : BitVec 8) (program : Byte) (dir : TreeDir) (pos : Nat) (body : CollBody) (s : State) : Res :=
  .next (
    if !s.active then s
    else
      let late (s : State) : State :=
        let e : CollEarly := { group := group.toNat, program := program.toNat, dir := dir, pos := pos, body := body }
        { s with colls := { s.colls with early := s.colls.early ++ [e] } }
      match s.colls.now with
      | some c =>
        if c.group = group.toNat ∧ c.program = program.toNat then (s.collTake c dir pos body).pollStartGroup else late s
      | none => late s)

/-- Positions whose message a member waits for, in a collective. -/
def State.collExpects (s : State) (c : Coll) : List Nat :=
  let parents := s.parents c.group
  let kids := childrenOf parents c.pos
  if c.program = 3 then
    kids.filter (fun k => (s.streamsLeft c).any (fun j => isAncestor parents k parents.length j))
  else if c.program = 4 then (if c.pos = 0 then [] else [parents.getD c.pos 0])
  else if c.sentUp then (if c.pos = 0 then [] else [parents.getD c.pos 0])
  else kids.filter (fun k => (assoc c.got k).isNone)

/-- Positions whose message a member waits for, in a scan. -/
def State.scanExpects (s : State) (t : Step) : List Nat :=
  let below := (s.scanKids t).filter (fun k => (assoc t.scan.fromBelow k).isNone)
  match s.scanParent t with
  | some p => if t.scan.sentUp && (t.scan.offset.isNone || t.scan.group.isNone) then p :: below else below
  | none => below

/-- A scan of a group waits for a position, and its limit has passed. -/
def State.scanSilent (s : State) (group pos : Nat) (b : Bool) : Bool :=
  match s.bankStep b with
  | some t => Desc.admGroup t.desc == group && !t.cancelled && t.scan.offs.isNone && s.countsFinal t &&
      (s.scanExpects t).contains pos && decide (t.scan.sentAt + s.obj Obj.RZ_COLL_TIMEOUT ≤ s.core)
  | none => false

/-- COLL_TIMEOUT: an expected message has stayed out RZ_COLL_TIMEOUT cycles after the member's own last message (R251). -/
def execCollTimeout (group : BitVec 8) (program : Byte) (pos : Nat) (s : State) : Res :=
  .next (
    if program = 0 then
      match s.liveBanks.find? (s.scanSilent group.toNat pos) with
      | some b => (s.breakLive false false).scanFail b pos
      | none => s
    else
      match s.colls.now with
      | some c =>
        if c.group = group.toNat ∧ c.program = program.toNat ∧ (s.collExpects c).contains pos = true ∧
            c.sentAt + s.obj Obj.RZ_COLL_TIMEOUT ≤ s.core then
          ((s.breakLive false false).collFail c pos).pollStartGroup
        else s
      | none => s)

/-! ### Verdicts and host cancels (R59 to R62, R231) -/

/-- A discarded verdict or cancel (R61, R231). -/
def State.discardVerdict (s : State) (w : BitVec 64) : State :=
  (s.count Obj.RZ_VERDICT_DISCARD 1).soot_ { code := 0x31, sev := 0, action := 0, loc := fld w 63 32, detail := fld w 3 0 }

/-- The key of a verdict or cancel word. -/
def wordKey (w : BitVec 64) : Key := { stepId := BitVec.ofNat 32 (fld w 63 32), batch := BitVec.ofNat 12 (fld w 31 20) }

/-- The accepted, unretired and uncancelled step that a word names. -/
def State.wordStep (s : State) (w : BitVec 64) : Option (Bool × Step) := s.keyStep (wordKey w)

/-- A step waits for a verdict: none applied, none waiting for t_ad. -/
def Step.awaits (t : Step) : Bool :=
  Desc.verdictMode t.desc != 0 && t.scan.own.isNone && t.waitVerdict.isNone && !t.cancelled && !t.retired

/-- A verdict word that arrives now is in time for the step it names (R62). -/
def State.verdictTimely (s : State) (w : BitVec 64) : Bool :=
  match s.wordStep w with
  | some (_, t) => decide (s.core ≤ t.t0 + Desc.dVerdict t.desc)
  | none => false

/-- A verdict word (R61): accepted, or discarded. Whether it arrived in time the primary judges for both engines, in the cycle
it arrived (R60, R62). -/
def State.takeVerdict (s : State) (w : BitVec 64) (timely : Bool) : State :=
  match s.wordStep w with
  | none => s.discardVerdict w
  | some (b, t) =>
    let a := fld w 3 0
    if t.awaits && timely && fld w 19 4 == 0 && (a == 8 || decide (a < Desc.capVariants t.desc)) then
      let s := s.logStep 0x02 t (toBytes w)
      if s.flag Obj.RZ_TIMING_REPEAT then s.onStep b (fun t => { t with waitVerdict := some a })
      else s.applyVariant b a
    else s.discardVerdict w

/-- A verdict's time has passed (R62). -/
def State.timeoutVerdict (s : State) (b : Bool) : State :=
  match s.steps.get b with
  | none => s
  | some t =>
    let a := if Desc.verdictMode t.desc = 1 then Desc.capDefault t.desc else 8
    let s := s.count Obj.RZ_VERDICT_LATE 1
    let s := s.logStep 0x03 t (toBytes (packed 64 [(32, (Desc.stepId t.desc).toNat), (28, 0), (4, a)]))
    s.applyVariant b a

/-- A host cancel (R231). -/
def State.takeCancel (s : State) (w : BitVec 64) : State :=
  match s.wordStep w with
  | none => s.discardVerdict w
  | some (b, t) => if fld w 19 0 == 0 then (s.logStep 0x04 t (toBytes w)).cancelStep b else s.discardVerdict w

/-- The outcome of a verdict whose time has passed, for the step of a key. -/
def State.timeoutOf (s : State) (k : Key) : State :=
  match s.keyStep k with
  | some (b, t) => if t.awaits then s.timeoutVerdict b else s
  | none => s

/-- A verdict word that comes: taken once its record can be written (R280). -/
def State.supplyVerdict (s : State) (w : BitVec 64) (timely : Bool) : State :=
  s.orHold (.verdict w timely) [8] (fun s => s.takeVerdict w timely)

/-- A cancel word that comes. -/
def State.supplyCancel (s : State) (w : BitVec 64) : State := s.orHold (.cancel w) [8] (fun s => s.takeCancel w)

/-- The effect of a write to RZ_VERDICT: taken, and forwarded in the same cycle with whether it came in time. -/
def State.verdictWrite (w : BitVec 64) (s : State) : State :=
  (s.supplyVerdict w (s.verdictTimely w)).toPeer (.hostInput (.verdict w (s.verdictTimely w)))

/-- The effect of a write to RZ_CANCEL. -/
def State.cancelWrite (w : BitVec 64) (s : State) : State := (s.supplyCancel w).toPeer (.hostInput (.cancel w))

/-- VERDICT. -/
def execVerdict (path : Path) (tag : ReqTag) (word : BitVec 64) (s : State) : Res :=
  .next (odWrite s (scalarReq path tag Obj.RZ_VERDICT word.toNat) OwnRules.plain (State.verdictWrite word))

/-- HOST_CANCEL. -/
def execHostCancel (path : Path) (tag : ReqTag) (word : BitVec 64) (s : State) : Res :=
  .next (odWrite s (scalarReq path tag Obj.RZ_CANCEL word.toNat) OwnRules.plain (State.cancelWrite word))

/-- A step whose deadline for a verdict has passed. -/
def State.verdictLate (s : State) (b : Bool) : Bool :=
  match s.steps.get b with
  | some t => t.awaits && decide (t.t0 + Desc.dVerdict t.desc < s.core)
  | none => false

/-- VERDICT_TIMEOUT: at the primary, once its record can be written and no input waits for one (R280), which tells the
secondary the outcome; in a replay the log does (R60, R62, R285). -/
def execVerdictTimeout (s : State) : Res :=
  .next (
    if s.log.replay then s.liveBanks.foldl State.replayVerdicts s
    else if !s.primary || !s.log.held.isEmpty || !s.logReady [8] then s
    else
      match s.liveBanks.find? s.verdictLate with
      | none => s
      | some b =>
        match s.steps.get b with
        | some t => (s.timeoutVerdict b).toPeer (.hostInput (.verdictTimeout (Desc.stepId t.desc) (Desc.batch t.desc)))
        | none => s)

end Sys2Proof.Machine
end

