-- ==== Sys2Proof/Machine/Timing.lean ====
section
/-!
DEFINITION. The timing model of the admission check (R51 to R55, R90).
-/

namespace Sys2Proof.Machine

/-! ### What the model reads -/

/-- An instance of the step's placement: its ID and entry. -/
abbrev Inst := Nat × PEntry

/-- The placement at PLACE_EPOCH is the committed one (R44, R46, R257). -/
def State.placeCurrent (s : State) (d : Desc) : Bool :=
  s.tables.placed && Desc.placeEpoch d == s.obj Obj.RZ_PLACE_EPOCH

/-- The instances in the bank of a step's PLACE_EPOCH. An accepted step's placement stays there until the step has retired,
whichever epoch is committed meanwhile (R256). -/
def State.heldInsts (s : State) (d : Desc) : List Inst :=
  (s.tables.place.get (Desc.placeEpoch d % 2 == 1)).filter (fun p => PEntry.valid p.2)

/-- The instances that the placement at PLACE_EPOCH holds, as the check sees them: none where that is not the committed epoch.
-/
def State.placement (s : State) (d : Desc) : List Inst := if s.placeCurrent d then s.heldInsts d else []

/-- Those that a step can choose: of experts below E (R134). -/
def belowE (d : Desc) (l : List Inst) : List Inst := l.filter (fun p => decide (p.1 / 16 < Desc.e d))

/-- The instances that an accepted step can choose. -/
def State.stepInsts (s : State) (d : Desc) : List Inst := belowE d (s.heldInsts d)

/-- Replicas of an expert in the step's placement. -/
def State.replicas (s : State) (d : Desc) (x : Nat) : Nat := (s.heldInsts d).countP (fun p => p.1 / 16 == x)

/-- cmax of an instance: the largest capacity over the variants. -/
def capMax (caps : List Caps) (i : Nat) : Nat := (caps.map (fun c => c.at_ i)).foldl max 0

/-! ### Costs of a unit (Tables 2-8, 2-9, 4-5) -/

/-- E_s: candidates scored. -/
def scored (d : Desc) : Nat :=
  if Desc.hierGroups d = 0 then Desc.e d
  else Desc.hierGroups d + Desc.hierTopg d * (Desc.e d / Desc.hierGroups d)

/-- n_blk of Table 2-8. -/
def nBlk (d : Desc) : Nat :=
  if Desc.hierGroups d = 0 then ceilDiv (Desc.e d) 64
  else 1 + Desc.hierTopg d * ceilDiv (Desc.e d) (64 * Desc.hierGroups d)

def cIn (d : Desc) : Nat := Desc.w d * Desc.dSlices d

def cScore (d : Desc) : Nat :=
  if Desc.hidden d = 0 then Desc.dSlices d * nBlk d
  else Desc.dSlices d * ceilDiv (2 * Desc.hidden d) 64 + ceilDiv (Desc.hidden d) 128 * nBlk d

def cSel (d : Desc) : Nat :=
  if Desc.hierGroups d = 0 then ceilDiv (Desc.e d) 256
  else 1 + ceilDiv (Desc.hierTopg d * Desc.e d) (256 * Desc.hierGroups d)

/-- c_fn of Table 2-9, or of Table 4-5 in compare mode. -/
def cFn (d : Desc) (compare : Bool) : Nat :=
  let half := ceilDiv (scored d) 128
  let pass := ceilDiv (scored d) (if compare then 32 else 64)
  let hid := ceilDiv (Desc.hidden d) (if compare then 32 else 64)
  hid + match Desc.gateMode d with
    | 0 => half + 2 * pass + 2 * b2n (Desc.renorm d) +
        b2n (compare && Desc.posEn d && decide (half + b2n (Desc.renorm d) < 2))
    | 1 => 3 + b2n (compare && Desc.posEn d)
    | 2 => pass + 3
    | _ => half + pass + 3

/-- c of R52. -/
def unitCost (d : Desc) (compare : Bool) : Nat := max (max (cIn d) (cScore d)) (max (cFn d compare) (cSel d))

/-! ### Paths (Table 2-10) -/

/-- A path of a step: its bandwidth in MB/s, its latency, the largest capacity of each instance behind it, the shared
experts behind it. -/
structure MPath where
  bw : Nat
  lat : Nat
  caps : List Nat
  shared : Nat
deriving DecidableEq, Repr

/-- Which path an instance lies behind: a die of this engine, the peer path, a fabric port, the gateway. -/
inductive Behind where
  | die (n : Nat)
  | peer
  | fab (port : Bool)
  | gate
  | none
deriving DecidableEq, Repr

def State.behind (s : State) (p : Inst) : Behind :=
  match s.route (PEntry.node p.2) with
  | .own => .die (PEntry.die p.2)
  | .peer => .peer
  | .rack =>
    match portFor s.portUp (PEntry.node p.2) with
    | some q => .fab q
    | none => .none
  | .far => .gate

/-- Bandwidth of a path. -/
def State.pathBw (s : State) : Behind → Nat
  | .die _ => 256000
  | .peer => 1024000
  | .gate => s.obj Obj.RZ_GATE_BW
  | _ => 512000

/-- Latency to an instance over a path. -/
def State.pathLat (s : State) (b : Behind) (node : Nat) : Nat :=
  match b with
  | .die _ => 600
  | .peer => 1080
  | .gate => s.obj Obj.RZ_GATE_LAT
  | _ => if node / 16 = s.node / 16 then 2520 else 3000

/-- Shared experts of a step mapped to a die (R182). -/
def State.sharedOn (s : State) (d : Desc) (die : Nat) : Nat :=
  (List.range (Desc.shared d)).countP (fun j => s.obj (Obj.RZ_SHARED_DIE0 + j) == die)

/-- The paths of a step, those with a destination only: Table 2-10 says so of the fabric ports; a die, the peer path and the
gateway without a destination are left out likewise, with their latency (DESIGN CHOICE, log entry 35). -/
def State.paths (s : State) (d : Desc) (caps : List Caps) : List MPath :=
  let insts := (belowE d (s.placement d)).map (fun p => (s.behind p, p))
  let keys := (List.range 8).map Behind.die ++ [.peer, .fab false, .fab true, .gate]
  (keys.map (fun k =>
    let at_ := insts.filter (fun x => decide (x.1 = k))
    let m : MPath :=
      { bw := s.pathBw k, lat := (at_.map (fun x => s.pathLat k (PEntry.node x.2.2))).foldl max (s.pathLat k s.node)
        caps := at_.map (fun x => capMax caps x.2.1)
        shared := match k with | .die n => s.sharedOn d n | _ => 0 }
    m)).filter (fun m => !m.caps.isEmpty || m.shared != 0)

/-! ### The computation (R53) -/

/-- Transfer time: bytes over MB/s. RZ_GATE_BW may be written 0; a path of that bandwidth then takes no time (DESIGN CHOICE,
log entry 35: the manual refuses no value and states no result of that division). -/
def cyc (b bw : Nat) : Nat := ceilDiv (b * 1200) bw

/-- SCORE or COMB cycles as CORE cycles (R51). -/
def cvt (slow : Bool) (x : Nat) : Nat := if slow then ceilDiv (4 * x) 3 else x

/-- p_pairs of a path without its shared pairs. -/
def MPath.pairs (p : MPath) (h k : Nat) : Nat := min (h * k) ((p.caps.map (fun c => min c h)).sum)

/-- Bytes of a tensor's row. -/
def State.rowSize (s : State) (hd : Nat) : Nat :=
  let t := s.tensor hd
  if TRec.fmt t = 9 then 32 * TRec.rowUnits t else ((arraysOf t).map (fun a => rowBytes (TRec.dim t) a.2)).sum

/-- A step accepted since START (R53: modelled times of earlier steps). -/
def State.sinceStart (s : State) (t : Step) : Bool :=
  match s.log.ord with
  | some o => decide (s.accepted ≤ t.nth + o.toNat)
  | none => false

/-- The modelled retirement of the bank's previous step, and the cycle after the previous step's modelled last grate cycle,
as differences to t0. -/
def State.earlier (s : State) (b : Bool) (t0 : Nat) : Nat × Nat :=
  let since (b : Bool) (f : Step → Nat) : Nat :=
    match s.steps.get b with
    | some t => if s.sinceStart t then f t - t0 else 0
    | none => 0
  (since b (fun t => t.t0 + t.model.tCe), since (!b) (fun t => t.t0 + t.model.lastGrate + 1))

/-- The model of a step that takes bank b at t0. -/
def State.modelOf (s : State) (d : Desc) (b : Bool) (t0 : Nat) : Model :=
  let slow := s.therm.throttled
  let caps := (List.range (Desc.capVariants d)).map (s.caps d)
  let h := Desc.h d
  let k := Desc.k d
  let ns := h / Desc.w d
  let c := unitCost d (s.flag Obj.RZ_FN_COMPARE || !s.seq.compare.isEmpty)
  let (wb, wg) := s.earlier b t0
  let tS := max (wb + 256) wg
  let tSs := tS + cvt slow (160 + ns * c + 48 + 64)
  let tSc := tSs + 24 + scopeTime (scopeOf (s.members (Desc.admGroup d)))
  let tPo := if Desc.predSummary d then tS + 48000 else tSs + 1200
  let tV := if Desc.verdictMode d = 0 then 0 else Desc.dVerdict d
  let tAd := max tSc tV + 64
  let ps := s.paths d caps
  let all (p : MPath) : Nat := p.pairs h k + h * p.shared
  let trip (cells : Nat) (p : MPath) : Nat := cyc (all p * (32 + 64 * cells)) p.bw + p.lat
  let td := (ps.map (trip (dispCells (Desc.dispFmt d) (Desc.dim d)))).foldl max (cyc (h * s.rowSize (Desc.inTensor d)) 2000000)
  let tr := (ps.map (trip (retCells (Desc.retFmt d) (Desc.dim d)))).foldl max 0
  let tDi := tAd + td
  let tRs := tDi + Desc.expertTurn d
  let tRe := tRs + tr
  let cc := ceilDiv (Desc.dim d) 1024
  let pt := min ((ps.map (fun p => p.pairs h k)).sum) (h * k) + (ps.map (fun p => h * p.shared)).sum
  let tCe := if Desc.arrival d then tRe + 600
    else max (tRe + cvt slow (Desc.positions d * cc + 96)) (tRs + cvt slow (pt * cc + 96)) + 600
  { c := c, ns := ns, tS := tS, tSs := tSs, tPo := tPo, tAd := tAd, tDi := tDi, tRs := tRs, tCe := tCe,
    lastGrate := tS + cvt slow (160 + ns * c) - 1, slow := slow }

/-! ### Deadlines (R55) -/

/-- Phases that the check compares: code, modelled end, deadline. In the conditioning role, scoring alone (R7). -/
def phaseEnds (d : Desc) (m : Model) (role : Nat) : List (Nat × Nat × Nat) :=
  let verdict := if Desc.verdictMode d = 0 then [] else [(2, m.tPo + 240, Desc.dVerdict d)]
  if role = 2 then [(0, m.tSs, Desc.dScore d)]
  else [(0, m.tSs, Desc.dScore d), (1, m.tAd, Desc.dAdmit d)] ++ verdict ++
    [(3, m.tDi, Desc.dDispatch d), (4, m.tCe, Desc.dCombine d)]

/-- A phase fails. -/
def phaseFails (p : Nat × Nat × Nat) : Bool := (p.2.2 != 0 && decide (p.2.2 < p.2.1)) || decide (2 ^ 32 ≤ p.2.1)

/-- FAIL_MASK, FIRST_FAIL, MODEL_END and DEADLINE of the status record (Table 2-7). -/
structure Judged where
  mask : Nat
  first : Nat
  modelEnd : Nat
  deadline : Nat
deriving DecidableEq, Repr

def judge (d : Desc) (m : Model) (role : Nat) : Judged :=
  let fails := (phaseEnds d m role).filter phaseFails
  let mask := (fails.map (fun p => 2 ^ p.1)).sum
  match fails with
  | [] => { mask := 0, first := 7, modelEnd := sat32 m.tCe, deadline := 0 }
  | p :: _ => { mask := mask, first := p.1, modelEnd := sat32 p.2.1, deadline := p.2.2 }

end Sys2Proof.Machine
end

