-- ==== Sys2Proof/Machine/Check.lean ====
section
/-!
DEFINITION. The conditions of the admission check, in the order of Table 2-6 (R43 to R47) and with what other chapters add to
them.
-/

namespace Sys2Proof.Machine

/-- An object that holds a base address does not: it is 0 or no multiple of 4,096. -/
def State.badBase (s : State) (key : Nat) : Bool := s.obj key == 0 || s.obj key % 4096 != 0

/-! ### The capacity table (R42) -/

/-- Variants whose record lies inside the image. -/
def State.varsIn (s : State) (d : Desc) : List Nat :=
  (List.range (Desc.capVariants d)).filter (fun v => decide (Desc.capTable d + 16 * (v + 1) ≤ s.obj Obj.RZ_SCHED_LEN))

/-- A record's override list lies inside the image. -/
def State.listIn (s : State) (r : BitVec 128) : Bool :=
  decide (fld r 63 32 + 8 * fld r 107 88 ≤ s.obj Obj.RZ_SCHED_LEN)

/-- The variant records that can be read, each with its override entries where these can be. -/
def State.capRead (s : State) (d : Desc) : List (BitVec 128 × List (BitVec 64)) :=
  (s.varsIn d).map (fun v =>
    let r := s.capRecord d v
    (r, if decide (fld r 107 88 ≤ 65536) && s.listIn r then s.overrides d v else []))

/-- Instance IDs rise. -/
def rising : List Nat → Bool
  | a :: b :: l => decide (a < b) && rising (b :: l)
  | _ => true

/-- R44 on the variant records and override entries. -/
def State.capFieldOk (s : State) (d : Desc) : Bool :=
  (s.capRead d).all (fun x =>
    fld x.1 87 64 == 0 && fld x.1 31 0 == 0 && rising (x.2.map (fun e => fld e 63 48)) &&
    x.2.all (fun e =>
      fld e 47 20 == 0 && decide (fld e 63 52 < Desc.e d) && fld e 63 52 != 0xFFF &&
      (!s.placeCurrent d || decide (fld e 51 48 < s.replicas d (fld e 63 52)))))

/-- R45 on them. -/
def State.capLengthOk (s : State) (d : Desc) : Bool :=
  (s.capRead d).all (fun x =>
    fld x.1 127 108 != 0xFFFFF && decide (fld x.1 107 88 ≤ 65536) && x.2.all (fun e => fld e 19 0 != 0xFFFFF))

/-- R46 on them. -/
def State.capBoundsOk (s : State) (d : Desc) : Bool :=
  Desc.capTable d % 16 == 0 && (s.varsIn d).length == Desc.capVariants d &&
  (s.capRead d).all (fun x => fld x.1 63 32 % 8 == 0 && s.listIn x.1)

/-! ### ADMIT_FIELD -/

/-- The descriptor's own conditions of R44. -/
def Desc.fieldOk (d : Desc) : Bool :=
  let g := Desc.hierGroups d
  let e := Desc.e d
  Desc.reservedOk d && Desc.ver d == 3 && inRange 2 128 (Desc.dSlices d) && inRange 1 4096 e && inRange 1 16 (Desc.k d) &&
  decide (Desc.shared d ≤ 4) && decide (Desc.k d ≤ e) &&
  (if g = 0 then decide (e ≤ 256) && Desc.hierTopg d == 0
   else inRange 2 64 g && decide (256 < e) && e % g == 0 && inRange 1 g (Desc.hierTopg d) &&
    decide (Desc.k d ≤ Desc.hierTopg d * (e / g))) &&
  decide (Desc.hidden d ≤ 256) && (!Desc.renorm d || Desc.gateMode d == 0) && inRange 1 8 (Desc.capVariants d) &&
  decide (Desc.capDefault d < Desc.capVariants d) && ((Desc.dVerdict d == 0) == (Desc.verdictMode d == 0)) &&
  !(Desc.predSummary d && Desc.verdictMode d == 0) && !(Desc.tagEn d && Desc.arrival d)

/-- R72: the router bank fits. -/
def State.bankFits (s : State) (d : Desc) : Bool :=
  let b := s.bankHdr (Desc.routerBank d)
  s.bankValid (Desc.routerBank d) && BankHdr.dSlices b == Desc.dSlices d && BankHdr.e b == Desc.e d &&
  BankHdr.g b == Desc.hierGroups d && BankHdr.h b == Desc.hidden d && (!Desc.timeEn d || BankHdr.hasTime b) &&
  (!Desc.posEn d || BankHdr.hasPos b) &&
  (!Desc.posEn d || Desc.window d == 0 || BankHdr.posOrder b == Desc.window d)

/-- R106: a slot's table can be the score function. -/
def State.scoreSlotOk (s : State) (slot : Nat) : Bool :=
  let h := s.slotHdr slot
  slot == 3 ||
  (s.slotValid slot && !FtHdr.vector h && FtHdr.mono h && !FtHdr.dir h && F32.ge (FtHdr.limitLo h) f32Zero)

/-- R106. -/
def State.gateFits (s : State) (d : Desc) : Bool :=
  let fn := s.obj Obj.RZ_SCORE_FN
  (decide (Desc.gateMode d < 2) || s.scoreSlotOk fn) &&
  (Desc.gateMode d != 3 || (List.range (ceilDiv (Desc.e d) 1024)).all (fun i =>
    s.slotValid (12 + i) && FtHdr.vector (s.slotHdr (12 + i)))) &&
  !(Desc.vg3 d && decide (11 ≤ fn))

/-- R72 and R144 on the tensors' formats, for valid records: one that is not valid is ADMIT_BOUNDS alone (log entry 35). -/
def State.tensorsFit (s : State) (d : Desc) : Bool :=
  let i := s.tensor (Desc.inTensor d)
  let o := s.tensor (Desc.outTensor d)
  (!TRec.valid i || (decide (TRec.fmt i ≤ 2) && (s.role != 0 || TRec.rowUnits i == Desc.dSlices d))) &&
  (!TRec.valid o || s.role != 0 || (TRec.rowUnits o == Desc.dSlices d && TRec.fmt o == Desc.outFmt d))

/-- R237's conditions on fields, for a step that writes the stripe tensor. -/
def State.stripeFieldOk (s : State) (d : Desc) : Bool :=
  let sr := s.obj Obj.RZ_STRIPE_ROWS
  let hl := s.obj Obj.RZ_STRIPE_HALO
  !s.stripes d ||
  (Desc.posEn d && BankHdr.geomH (s.bankHdr (Desc.routerBank d)) % sr == 0 && hl != 0 && decide (2 * hl ≤ sr) && !Desc.tagEn d &&
    !Desc.arrival d)

/-- The route-map entry that a denoise step matches (R262). -/
def State.routeLine (s : State) (d : Desc) (descOff : BitVec 32) : Option (Nat × RMap) :=
  if s.flag Obj.RZ_ROUTE_MEM_EN && s.role == 0 then
    s.tables.routeMap.find? (fun p => RMap.valid p.2 && RMap.descOff p.2 == descOff.toNat &&
      RMap.firstToken p.2 == Desc.firstToken d)
  else none

/-- ADMIT_FIELD does not fail (R44, R72, R106, R116, R144, R183, R229, R237, R239, R262, R289). -/
def State.fieldOk (s : State) (f : Fetched) : Bool :=
  let d := f.desc
  Desc.fieldOk d && s.capFieldOk d && !(Desc.predSummary d && !s.flag Obj.RZ_ROUTE_MEM_EN) && s.bankFits d && s.gateFits d &&
  s.tensorsFit d && !(Desc.skipEn d && s.seq.mask.isNone) &&
  (!s.flag Obj.RZ_TWO_HALF || s.members (Desc.admGroup d) == [s.node / 2 * 2, s.node / 2 * 2 + 1]) &&
  !(Desc.arrival d && Desc.outFmt d == 1) && s.stripeFieldOk d &&
  !(Desc.tagEn d && (Desc.firstToken d % 4096 != 0 || Desc.n d % 8192 != 0 || decide (s.digests.input = zeroDigest))) &&
  (match s.routeLine d f.descOff with
   | some (_, r) => RMap.k r == Desc.k d
   | none => true)

/-! ### ADMIT_LENGTH (R45, R116) -/

/-- The held mask has a bit for each token of the window; one taken from a log shows its bytes only. -/
def maskFits (m : Mask) (n : Nat) : Bool :=
  match m.len with
  | some l => l == n
  | none => m.size == ceilDiv n 8

def State.lengthOk (s : State) (d : Desc) : Bool :=
  inRange 1 524288 (Desc.n d) && (Desc.window d == 0 || Desc.n d % (2 * Desc.w d) == 0) && s.capLengthOk d &&
  (!Desc.skipEn d ||
    match s.seq.mask with
    | some m => maskFits m (Desc.n d)
    | none => true)

/-! ### ADMIT_BOUNDS -/

/-- R72's conditions on the tensor's geometry. -/
def State.geomOk (s : State) (d : Desc) : Bool :=
  let b := s.bankHdr (Desc.routerBank d)
  let frame := BankHdr.geomH b * BankHdr.geomW b * (if BankHdr.posOrder b = 2 then 2 else 1)
  !Desc.posEn d ||
  (TRec.tokens (s.tensor (Desc.inTensor d)) % frame == 0 && decide ((coordsOf b (Desc.firstToken d + Desc.n d - 1)).1 < 2 ^ 24))

/-- R46 and R144 on the tensors. A FIRST_TOKEN that is no multiple of 16 is accepted: Table 2-3 calls the field one, and no
condition of R44 to R46 refuses another value (DESIGN CHOICE, log entry 35). While the peer has reported no CRC since this
engine's kindling, the CRC counts as differing (log entry 35). -/
def State.tensorBounds (s : State) (f : Fetched) : Bool :=
  let d := f.desc
  let i := s.tensor (Desc.inTensor d)
  let o := s.tensor (Desc.outTensor d)
  decide (f.firstToken < 2 ^ 26) && TRec.valid i && TRec.valid o && decide (f.firstToken + Desc.n d ≤ TRec.tokens i) &&
  decide (f.firstToken + Desc.n d ≤ TRec.tokens o) && s.obj Obj.RZ_LAYOUT_STATE == 1 &&
  s.tables.peerCrc == some (BitVec.ofNat 32 (s.obj Obj.RZ_LAYOUT_CRC)) &&
  (s.role != 2 || s.rowSize (Desc.outTensor d) == 64 + 32 * ceilDiv (4 * Desc.hierGroups d) 32)

/-- R237's conditions on the stripe tensor's size and place. -/
def State.stripeBounds (s : State) (d : Desc) : Bool :=
  let b := s.bankHdr (Desc.routerBank d)
  let sr := s.obj Obj.RZ_STRIPE_ROWS
  let o := s.tensor (Desc.outTensor d)
  let fMax := (coordsOf b (Desc.firstToken d + Desc.n d - 1)).1
  !s.stripes d ||
  (decide ((fMax + 1) * (BankHdr.geomH b / sr) * (sr + 2 * s.obj Obj.RZ_STRIPE_HALO) * BankHdr.geomW b ≤ TRec.tokens o) &&
    (List.range (TRec.nblk o)).all (fun j => samePackage (OEnt.owner (s.ownerEnt (TRec.firstBlock o + j))) s.node))

/-- The placement maps an instance beyond the rack, of whichever expert (R164, R208). -/
def State.beyondRack (s : State) (d : Desc) : Bool := (s.placement d).any (fun p => s.behind p == .gate)

/-- The placement tests of R46 (denoise role, experts below E), and of R177, R208, R347 (whichever expert). -/
def State.placementBounds (s : State) (d : Desc) : Bool :=
  let insts := belowE d (s.placement d)
  let ports := (List.range (Desc.shared d)).map (fun j => s.obj (Obj.RZ_SHARED_DIE0 + j)) ++
    ((s.placement d).filter (fun p => PEntry.node p.2 == s.node)).map (fun p => PEntry.die p.2)
  (!s.placeCurrent d || s.role != 0 ||
    ((List.range (min (Desc.e d) 0xFFF)).all (fun x => s.replicas d x != 0) && !insts.any (fun p => s.behind p == .none))) &&
  ports.all s.diePresent &&
  (!s.beyondRack d || (s.bellows.incarn.isSome && !s.fabric.gateLost))

/-- The memory regions that a step needs (R125, R133, R164, R199, R216, R224, R239, R258, R280, R358). -/
def State.regionsOk (s : State) (d : Desc) : Bool :=
  let denoise := s.role == 0
  let o := s.obj
  !s.badBase Obj.RZ_WALK_BASE && !(s.flag Obj.RZ_ASH_LOG_EN && o Obj.RZ_ASH_RING == 0) &&
  (!denoise ||
    (!s.badBase Obj.RZ_PACK_BASE && decide (524288 * 64 * dispCells (Desc.dispFmt d) (Desc.dim d) ≤ o Obj.RZ_PACK_LEN) &&
      !(s.beyondRack d && o Obj.RZ_AGG_BASE == 0) && !s.badBase Obj.RZ_STATS_BASE)) &&
  o Obj.RZ_RCACHE_BASE != 0 && (decide (Desc.k d < 9) || !s.badBase Obj.RZ_LEDGER_EXT) &&
  (Desc.arrival d ||
    (!s.badBase Obj.RZ_STAGE_BASE && decide (Desc.positions d ≤ o Obj.RZ_STAGE_POS) &&
      decide (64 * retCells (Desc.retFmt d) (Desc.dim d) ≤ o Obj.RZ_STAGE_ROW) &&
      decide (524288 * o Obj.RZ_STAGE_POS * o Obj.RZ_STAGE_ROW ≤ o Obj.RZ_STAGE_LEN))) &&
  (!Desc.tagEn d || !s.badBase Obj.RZ_TAG_BASE) && (!Desc.skipEn d || !s.badBase Obj.RZ_REWIND_BASE) &&
  (!s.flag Obj.RZ_LOG_EN ||
    (o Obj.RZ_LOG_BASE != 0 &&
      decide (o Obj.RZ_LOG_RESERVE + (o Obj.RZ_LOG_HEAD - o Obj.RZ_LOG_TAIL) ≤ o Obj.RZ_LOG_LEN)))

/-- ADMIT_BOUNDS does not fail. -/
def State.boundsOk (s : State) (f : Fetched) : Bool :=
  s.capBoundsOk f.desc && s.tensorBounds f && s.geomOk f.desc && s.stripeBounds f.desc && s.placementBounds f.desc &&
  s.regionsOk f.desc && !(Desc.predSummary f.desc && (s.routeLine f.desc f.descOff).isNone)

/-! ### The other conditions -/

/-- ADMIT_ROLE (R7). -/
def State.roleOk (s : State) (d : Desc) : Bool :=
  match s.role with
  | 0 => true
  | 2 => Desc.verdictMode d == 0 && !Desc.predSummary d && Desc.shared d == 0 && !Desc.arrival d && !Desc.tagEn d &&
      Desc.dAdmit d == 0 && Desc.dVerdict d == 0 && Desc.dDispatch d == 0 && Desc.dCombine d == 0
  | _ => false

/-- ADMIT_ORDER (R40). -/
def State.orderOk (s : State) (d : Desc) : Bool :=
  match s.seq.lastStepId with
  | some i => decide (i < Desc.stepId d)
  | none => true

/-- ADMIT_EPOCH (R43, R257). -/
def State.epochOk (s : State) (d : Desc) : Bool :=
  (Desc.batch d).toNat == s.obj Obj.RZ_BATCH_EPOCH && s.placeCurrent d

/-- ADMIT_GROUP (R47, R250). -/
def State.groupOk (s : State) (d : Desc) : Bool :=
  let g := Desc.admGroup d
  let nodes := s.members g
  let pkg := s.node / 2 * 2
  s.groupUsable g && rising nodes &&
  (List.range nodes.length).any (fun j => nodes.getD j 0 == pkg && nodes[j + 1]? == some (pkg + 1)) &&
  treeOk nodes (s.parents g) && decide ((s.placement d).length ≤ scopeLimit (scopeOf nodes))

/-- The check's outcome: the status code of Table 2-6, and what the model says once nothing else has failed. -/
def State.admitStatus (s : State) (f : Fetched) (b : Bool) (t0 : Nat) : Nat × Option (Model × Judged) :=
  let d := f.desc
  let st := firstFail [
    (s.seq.refuse, 0x0A), (!f.crcOk, 0x08), (!s.fieldOk f, 0x01), (!s.lengthOk d, 0x02), (!s.boundsOk f, 0x03),
    (!s.roleOk d, 0x04), (!s.orderOk d, 0x05), (!s.epochOk d, 0x06), (!s.groupOk d, 0x07)]
  if st = 0 then
    let m := s.modelOf d b t0
    let j := judge d m s.role
    (if j.mask = 0 then 0 else 0x09, some (m, j))
  else (st, none)

end Sys2Proof.Machine
end

