-- ==== Sys2Proof/Machine/Admit.lean ====
section
/-!
DEFINITION. ADMISSION_CHECK (R33, R43, R48, R49): what acceptance and refusal do; the ash ring (R133).
-/

namespace Sys2Proof.Machine

/-! ### The ash ring -/

/-- An ash record (Table 5-2). -/
def ashRecord (reason slot expert replica token rank : Nat) : BitVec 64 :=
  packed 64 [(4, reason), (4, slot), (12, expert), (4, replica), (20, token), (20, rank)]

/-- A record enters the ash ring while RZ_ASH_LOG_EN is 1; a full ring discards it. -/
def State.postAsh (s : State) (r : BitVec 64) : State :=
  let base := s.obj Obj.RZ_ASH_RING
  let len := s.obj Obj.RZ_ASH_RING_LEN
  let head := s.obj Obj.RZ_ASH_RING_HEAD
  if !s.flag Obj.RZ_ASH_LOG_EN || base = 0 then s
  else if (head + 2 ^ 32 - s.obj Obj.RZ_ASH_RING_TAIL) % 2 ^ 32 = len then s.count Obj.RZ_ASH_RING_DROP 1
  else (s.writeMem (base + head % len * 8) (toBytes r)).count Obj.RZ_ASH_RING_HEAD 1

/-! ### Acceptance -/

/-- A scan that has not begun: the first member's offset is empty. -/
def Scan.fresh (pos now : Nat) : Scan :=
  { fromBelow := [], sentUp := false, offset := if pos = 0 then some [] else none, group := none, downSent := [],
    totSent := [], offs := none, totals := [], own := none, seen := [], sentAt := now }

/-- The rewind record of a step about to be accepted (R358). -/
def State.rewindRecord (s : State) (f : Fetched) : Rewind :=
  { offset := f.offset, frames := s.seq.frames, regs := s.seq.regs, seed := BitVec.ofNat 64 (s.obj Obj.RZ_NOISE_SEED),
    mask := s.seq.mask, group := Desc.admGroup f.desc, blocks := s.seq.ahead, seeds := [], masks := [] }

/-- The step that an accepted descriptor becomes. -/
def State.newStep (s : State) (f : Fetched) (t0 : Nat) (m : Model) : Step :=
  let d := f.desc
  let members := s.members (Desc.admGroup d)
  let pos := (members.findIdx? (· == s.node)).getD 0
  { desc := d, offset := f.offset, descOff := f.descOff, ord := s.log.ord.getD 0, t0 := t0, nth := s.accepted, model := m,
    tag := if Desc.tagEn d then s.stepTag d else 0, seed := BitVec.ofNat 64 (s.obj Obj.RZ_NOISE_SEED),
    mask := if Desc.skipEn d then s.seq.mask else none, members := members, pos := pos,
    line := (s.routeLine d f.descOff).map (·.1), grateAt := none, grateEnd := none, units := 0, timeRow := [],
    scan := .fresh pos s.core, posted := false, predicted := false, variant := none,
    waitVerdict := none, walked := false, walkAt := 0, dispatched := none, ended := .no, endedAt := none, retired := false,
    cancelled := false, fence := none, rewind := some (s.rewindRecord f), routeFp := 0, outFp := 0, admitted := 0,
    ashed := 0, admits := [], routedTokens := 0, sharedClosed := false, halfZero := false,
    halfSent := false, slotsCmp := 0, slotsChg := 0, badRoutes := [], pendStats := false, blocks := [], overrun := false,
    broken := false, throttle := false, fabRetry := false, resend := false, noticed := false }

/-- A consumed mask is copied to the rewind area, and no mask is held any longer (R116, R358). -/
def State.consumeMask (s : State) (b : Bool) (t : Step) : State :=
  match t.mask with
  | some m =>
    let s := s.writeMem (s.maskCopy b) (s.maskBytes m)
    { s with seq := { s.seq with mask := none } }
  | none => s

/-- The status record of an accepted step, and of a refused one (Table 2-7). A refusal before the timing model is evaluated
has no MODEL_END stated: a free value. -/
def checkRecord (d : Desc) (st : Nat) (j : Judged) : BitVec 128 :=
  statusRecord (Desc.stepId d).toNat st j.mask j.first 15 (Desc.batch d).toNat j.modelEnd j.deadline

/-- The check accepts the step: its bank's older record is released, the step exists, its records are written (R48, R50, R116,
R133, R283, R289, R358). -/
def State.acceptStep (s : State) (f : Fetched) (b : Bool) (t0 : Nat) (m : Model) (j : Judged) : State :=
  let d := f.desc
  let s := s.releaseRecord b
  let t := s.newStep f t0 m
  let r := checkRecord d 0 j
  let s := s.logStep 0x10 t (toBytes r ++ toBytes t.tag ++ List.replicate 8 0)
  let s := (s.postStatus r).consumeMask b t
  let s : State := { s.setStep b t with
    accepted := s.accepted + 1
    log := { s.log with ord := s.log.ord.map (· + 1) }
    digests := if Desc.tagEn d then s.digests.formed (s.tagDigest d) else s.digests }
  let s := if s.role = 0 then s.postAsh (packed 64 [(4, 15), (28, 0), (32, (Desc.stepId d).toNat)]) else s
  let s : State := { s with seq := { s.seq with
    lastStepId := some (Desc.stepId d), nextBank := !b, refused := false, fetched := none } }
  s.advance.earlyScans b (Desc.key d)

/-! ### Refusal -/

/-- The check refuses the step (R48, R49): the record, the marker, the halt. -/
def State.refuseStep (s : State) (f : Fetched) (st : Nat) (j : Option Judged) : State :=
  let d := f.desc
  let (free, s) := s.takeFree
  let r := checkRecord d st (j.getD { mask := 0, first := 7, modelEnd := free.toNat % 2 ^ 32, deadline := 0 })
  let s := (s.postStatus r).setObj Obj.RZ_LAST_REFUSAL (fld r 127 64)
  let s := if s.role = 0 then (s.dropMarkers d).postMarker d st else s
  s.haltFor 2 Alert.stepRefused

/-! ### The row -/

/-- The STEP whose check can run: its pulse has fixed t0 and its bank is free (R23, R33). -/
def State.checkable (s : State) : Option (Fetched × Nat) :=
  match s.seq.wait, s.seq.fetched with
  | .step, some f =>
    match f.t0 with
    | some t0 => if s.mode = .running ∧ s.bankLive s.seq.nextBank = false then some (f, t0) else none
    | none => none
  | _, _ => none

/-- ADMISSION_CHECK. Its first CORE cycle is a step boundary (R327). -/
def execAdmissionCheck (s : State) : Res :=
  .next (
    match s.checkable with
    | none => s
    | some (f, t0) =>
      let s := s.stepBoundary
      let b := s.seq.nextBank
      match s.admitStatus f b t0 with
      | (0, some (m, j)) => s.acceptStep f b t0 m j
      | (st, r) => s.refuseStep f st (r.map (·.2)))

end Sys2Proof.Machine
end

