-- ==== Sys2Proof/Machine/Target.lean ====
section
/-!
DEFINITION. The target's side of the rack fabric: what is accepted (R188 to R190, R196), reductions and atomics (R191), the
reply cache (R197), multicast (R205).
-/

namespace Sys2Proof.Machine

/-! ### Reply status (Table 8-4) -/

namespace Rs
abbrev done : Nat := 0
abbrev replay : Nat := 1
abbrev busy : Nat := 2
abbrev retryLater : Nat := 3
abbrev bounds : Nat := 4
abbrev align : Nat := 5
abbrev badOp : Nat := 6
abbrev unknown : Nat := 7
end Rs

/-! ### Acceptance -/

/-- Requests of Table 8-1. -/
def requestOps : List Nat := [0x01, 0x02, 0x03, 0x04, 0x05, 0x08, 0x09, 0x0A, 0x10, 0x11]

/-- EFMT names a format on a reduction, and is 0 elsewhere (Table 8-2). -/
def efmtOk (h : BitVec 256) : Bool :=
  if FHdr.op h = 0x10 || FHdr.op h = 0x11 then [0, 1, 2, 4, 5].contains (FHdr.efmt h) else FHdr.efmt h == 0

/-- Fabric requests reach the engine: a port is up (R199). -/
def State.fabOpenIn (s : State) : Bool := s.active && (s.fabUp false || s.fabUp true)

/-- The age of a request at arrival, in ticks (R196). -/
def State.ageOf (s : State) (h : BitVec 256) : Nat := (s.ticks + 65536 - FHdr.issueT h) % 65536

/-- The request is addressed here: DST_NODE, or a multicast group that lists this engine (R205). -/
def State.addressed (s : State) (h : BitVec 256) : Bool :=
  if FHdr.op h = 0x03 then
    FHdr.srcNode h != s.node && nodeRack (FHdr.srcNode h) == nodeRack s.node &&
    (s.mcastNodes (FHdr.mgroup h)).contains s.node
  else FHdr.dstNode h == s.node

/-- A request of one OP is taken: discarded for its age, answered BAD_OP, or applied. A reserved OP is answered BAD_OP
(R188); so is a SHARE of 0, which Table 8-2 leaves out of the field's range (log entry 37). -/
def State.accept (s : State) (h : BitVec 256) (op : Nat) (apply : State → State) : State :=
  if !s.fabOpenIn || !s.addressed h then s
  else if FHdr.op h = op || !(requestOps.contains (FHdr.op h) || FHdr.op h == 0x20 || FHdr.op h == 0x21 ||
      FHdr.op h == 0x22) then
    if 1995 ≤ s.ageOf h then s.count Obj.RZ_STALE_REQ 1
    else if FHdr.op h ≠ op || !FHdr.reservedOk h || FHdr.share h == 0 || !efmtOk h then s.reply h Rs.badOp false [] 0
    else apply s
  else s

/-! ### Alignment, length, bounds (R190) -/

/-- Element size of an EFMT (Table 8-2). -/
def efmtSize (e : Nat) : Nat := match e with | 1 => 2 | 5 => 8 | _ => 4

/-- LEN and ADDR of a memory operation are as R190 asks. -/
def alignOk (h : BitVec 256) (payload : List Byte) : Bool :=
  let len := FHdr.len h
  let addr := FHdr.addr h
  let sized (unit : Nat) : Bool := decide (4 ≤ len) && decide (len ≤ 8192) && len % unit == 0 && addr % unit == 0
  match FHdr.op h with
  | 0x01 => sized 4
  | 0x02 => sized 4 && payload.length == len
  | 0x03 => sized 4 && payload.length == len
  | 0x08 => len == 8 && addr % 8 == 0 && payload.length == len
  | 0x09 => len == 8 && addr % 8 == 0 && payload.length == len
  | 0x0A => len == 16 && addr % 8 == 0 && payload.length == len
  | _ => sized (efmtSize (FHdr.efmt h)) && payload.length == len

/-- ADDR + LEN lies in the package's memory (Table 8-4). -/
def boundsOk (h : BitVec 256) : Bool := decide (FHdr.addr h + FHdr.len h ≤ memEnd)

/-- ALIGN or BOUNDS, or the operation. Where a request breaks both rules the manual gives no order: the answer is ALIGN (log entry
37). -/
def memCheck (h : BitVec 256) (payload : List Byte) : Option Nat :=
  if !alignOk h payload then some Rs.align else if !boundsOk h then some Rs.bounds else none

/-! ### Idempotent operations -/

/-- The identity of an operation at a target. -/
def mreplyOf (h : BitVec 256) : MReply :=
  { src := FHdr.srcNode h, port := FHdr.port h, tag := FHdr.tag h, gen := FHdr.gen h, origT := FHdr.origT h }

/-- LOAD: the bytes read are replied. -/
def State.applyLoad (s : State) (h : BitVec 256) : State :=
  match memCheck h [] with
  | some st => s.reply h st false [] 0
  | none => s.reply h Rs.done false (s.readMem (FHdr.addr h) (FHdr.len h)) 0

/-- STORE; a retry of an MSTORE that this member has replied to is applied without a reply (R205). -/
def State.applyStore (s : State) (h : BitVec 256) (payload : List Byte) : State :=
  match memCheck h payload with
  | some st => s.reply h st false [] 0
  | none =>
    let s := s.writeMem (FHdr.addr h) payload
    if s.fabric.mreplied.contains (mreplyOf h) then s else s.reply h Rs.done false [] 0

/-- MSTORE: applied and answered once. -/
def State.applyMstore (s : State) (h : BitVec 256) (payload : List Byte) : State :=
  match memCheck h payload with
  | some st => s.reply h st false [] 0
  | none =>
    let s := s.writeMem (FHdr.addr h) payload
    let m := mreplyOf h
    if s.fabric.mreplied.contains m then s
    else
      let rest := s.fabric.mreplied.filter (fun x => !(x.src == m.src && x.port == m.port && x.tag == m.tag))
      State.reply { s with fabric := { s.fabric with mreplied := rest ++ [m] } } h Rs.done false [] 0

/-! ### Reductions and atomics (R191) -/

/-- Elements of w bytes of a byte string. -/
def elems (w : Nat) : Nat → List Byte → List Nat
  | 0, _ => []
  | n + 1, bs => leNat (bs.take w) :: elems w n (bs.drop w)

/-- The sum of two elements. -/
def redAdd (efmt a b : Nat) : Nat :=
  match efmt with
  | 0 => Fmt.fp32.encode .infinity (Val.add (Fmt.fp32.decode a) (Fmt.fp32.decode b))
  | 1 => Fmt.bf16.encode .infinity (Val.add (Fmt.bf16.decode a) (Fmt.bf16.decode b))
  | 5 => (a + b) % 2 ^ 64
  | _ => (a + b) % 2 ^ 32

/-- The larger of two floating elements: a quiet NaN when either is one, +0 above −0. -/
def fpMax (f : Fmt) (a b : Nat) : Nat :=
  let neg (x : Nat) : Bool := decide (2 ^ (f.eb + f.mb) ≤ x)
  match Val.cmp (f.decode a) (f.decode b) with
  | none => f.qnan
  | some c => if c = 1 then a else if c = -1 then b else if neg a then b else a

/-- The larger of two elements. -/
def redMax (efmt a b : Nat) : Nat :=
  match efmt with
  | 0 => fpMax Fmt.fp32 a b
  | 1 => fpMax Fmt.bf16 a b
  | 2 => if i32 a < i32 b then b else a
  | _ => max a b

/-- Element by element, in ascending address order. -/
def State.reduceMem (s : State) (addr efmt : Nat) (f : Nat → Nat → Nat → Nat) (payload : List Byte) : State :=
  let w := efmtSize efmt
  let n := payload.length / w
  let old := elems w n (s.readMem addr payload.length)
  s.writeMem addr (((old.zip (elems w n payload)).map (fun p => f efmt p.1 p.2)).flatMap (leBytes w))

/-- A reduction's application: its status. -/
def State.applyRed (f : Nat → Nat → Nat → Nat) (h : BitVec 256) (payload : List Byte) (s : State) : State × Nat × BitVec 64 :=
  match memCheck h payload with
  | some st => (s, st, 0)
  | none => (s.reduceMem (FHdr.addr h) (FHdr.efmt h) f payload, Rs.done, 0)

/-- An atomic's application: what it stores, by the old value; DATA is the old value. -/
def State.applyAtom (new : Nat → Nat) (h : BitVec 256) (payload : List Byte) (s : State) : State × Nat × BitVec 64 :=
  match memCheck h payload with
  | some st => (s, st, 0)
  | none =>
    let old := s.readMemNat (FHdr.addr h) 8
    (s.writeMemNat (FHdr.addr h) 8 (new old), Rs.done, BitVec.ofNat 64 old)

/-! ### The reply cache (R197) -/

/-- The entry of a request's key. -/
def State.rcLookup (s : State) (h : BitVec 256) : Option RcEntry :=
  s.fabric.rcache.find? (fun e => e.src.toNat == FHdr.srcNode h && e.port == FHdr.port h && e.tag.toNat == FHdr.tag h)

/-- An entry's age in ticks; at 20,000 it is free. -/
def State.rcLive (s : State) (e : RcEntry) : Bool := decide (s.ticksFull - e.time < 20000)

def State.rcFull (s : State) : Bool :=
  decide (s.obj Obj.RZ_RCACHE_ENTRIES ≤ s.fabric.rcache.countP s.rcLive)

/-- The entry of a request is written; entries that have aged out make room. -/
def State.rcStore (s : State) (h : BitVec 256) (st : Nat) (data : BitVec 64) : State :=
  let e : RcEntry :=
    { src := BitVec.ofNat 17 (FHdr.srcNode h), port := FHdr.port h, tag := BitVec.ofNat 10 (FHdr.tag h),
      gen := BitVec.ofNat 2 (FHdr.gen h), origT := BitVec.ofNat 16 (FHdr.origT h), status := st, data := data,
      time := s.ticksFull }
  let rest := s.fabric.rcache.filter (fun x => s.rcLive x && !(x.src == e.src && x.port == e.port && x.tag == e.tag))
  { s with fabric := { s.fabric with rcache := rest ++ [e] } }

/-- An exactly-once request (R197). `readError`: the read of its key's entry, or of the place where that would lie, failed, so
that no entry is found; it is answered UNKNOWN. Where that place lies is a free value. -/
def State.exactlyOnce (s : State) (h : BitVec 256) (readError : Bool) (apply : State → State × Nat × BitVec 64) : State :=
  let fresh (s : State) : State :=
    let (s, st, data) := apply s
    (s.rcStore h st data).reply h st false [] data
  if readError then
    let (v, s) := s.takeFree
    let s := s.soot_ { code := 0x1D, sev := 2, action := 1, loc := v.toNat % 2 ^ 32, detail := 5 }
    s.reply h Rs.unknown false [] 0
  else
    match s.rcLookup h with
    | some c =>
      if c.gen.toNat = FHdr.gen h ∧ c.origT.toNat = FHdr.origT h ∧ s.rcLive c = true then
        (s.count Obj.RZ_RCACHE_HIT 1).reply h c.status true [] c.data
      else fresh s
    | none => if s.rcFull then (s.count Obj.RZ_RCACHE_FULL 1).reply h Rs.retryLater false [] 0 else fresh s

/-! ### The rows -/

/-- LOAD. -/
def execLoad (hdr : BitVec 256) (s : State) : Res := .next (s.accept hdr 0x01 (fun s => s.applyLoad hdr))

/-- STORE. -/
def execStore (hdr : BitVec 256) (payload : List Byte) (s : State) : Res :=
  .next (s.accept hdr 0x02 (fun s => s.applyStore hdr payload))

/-- MSTORE. -/
def execMstore (hdr : BitVec 256) (payload : List Byte) (s : State) : Res :=
  .next (s.accept hdr 0x03 (fun s => s.applyMstore hdr payload))

/-- ATOM_FADD: old + addend modulo 2^64. -/
def execAtomFadd (hdr : BitVec 256) (payload : List Byte) (cacheReadError : Bool) (s : State) : Res :=
  .next (s.accept hdr 0x08 (fun s => s.exactlyOnce hdr cacheReadError
    (State.applyAtom (fun old => (old + leNat payload) % 2 ^ 64) hdr payload)))

/-- ATOM_SWAP: the new value. -/
def execAtomSwap (hdr : BitVec 256) (payload : List Byte) (cacheReadError : Bool) (s : State) : Res :=
  .next (s.accept hdr 0x09 (fun s => s.exactlyOnce hdr cacheReadError
    (State.applyAtom (fun _ => leNat payload) hdr payload)))

/-- ATOM_CAS: the new value where the old equals the compare value. -/
def execAtomCas (hdr : BitVec 256) (payload : List Byte) (cacheReadError : Bool) (s : State) : Res :=
  .next (s.accept hdr 0x0A (fun s => s.exactlyOnce hdr cacheReadError
    (State.applyAtom (fun old => if old = leNat (payload.take 8) then leNat (payload.drop 8) else old) hdr payload)))

/-- RED_ADD. -/
def execRedAdd (hdr : BitVec 256) (payload : List Byte) (cacheReadError : Bool) (s : State) : Res :=
  .next (s.accept hdr 0x10 (fun s => s.exactlyOnce hdr cacheReadError (State.applyRed redAdd hdr payload)))

/-- RED_MAX. -/
def execRedMax (hdr : BitVec 256) (payload : List Byte) (cacheReadError : Bool) (s : State) : Res :=
  .next (s.accept hdr 0x11 (fun s => s.exactlyOnce hdr cacheReadError (State.applyRed redMax hdr payload)))

end Sys2Proof.Machine
end

