-- ==== Sys2Proof/Machine/Return.lean ====
section
/-!
DEFINITION. Returns and combine, shared operations: how a token settles (R217, R218, R225, R227), how a return is checked and
placed (R222, R223), how arrival reductions run (R228), how a fronting engine sends a return on (R220, R221).
-/

namespace Sys2Proof.Machine

/-! ### Tokens -/

/-- The position of a return or a packet: a routed slot, or a shared position after them. -/
def posOf (d : Desc) (shared : Bool) (slot : Nat) : Nat := if shared then Desc.k d + slot else slot

/-- A token whose output is decided at once: a zero row, or no write (Table 9-7). -/
def State.resolveZero (s : State) (b : Bool) (d : Desc) (e : Nat) : State :=
  if Desc.dropWrite d then s.retire e false
  else
    let (s, n) := s.writeZero b d e
    { s with flue := { s.flue with zeros := s.flue.zeros ++ [(e, n)] } }

/-- A position of a ROUTED token has changed: where every position is settled and none is poisoned, the token retires under
arrival combine, and else becomes COMBINE and joins the combine queue (R217, R218, R225, R228). -/
def State.settleToken (s : State) (e : Nat) : State :=
  match s.bankStep (entryBank e) with
  | none => s
  | some t =>
    let ps := s.positionsOf t e
    if t.cancelled || LEntry.state (s.entry e) != 2 || !ps.all settled then s
    else if Desc.arrival t.desc then s.retire e false
    else
      let s := s.setEntry e (LEntry.setState (s.entry e) 6)
      { s with flue := { s.flue with combineQ := s.flue.combineQ ++ [e] } }

/-- A position of a token that is not FREE becomes 7, and a ROUTED token POISONED (Tables 9-4, 9-5). -/
def State.poisonPos (s : State) (d : Desc) (e p : Nat) : State :=
  if LEntry.state (s.entry e) != 0 && decide (p < Desc.positions d) then
    let s := s.setRstate (Desc.k d) e p 7 0
    if LEntry.state (s.entry e) = 2 then s.setEntry e (LEntry.setState (s.entry e) 8) else s
  else s

/-- A position is poisoned and its step marked for re-run. -/
def State.poisonMark (s : State) (b : Bool) (e p : Nat) (ev : SootEv) : State :=
  let s := match s.bankStep b with
    | some t => if t.cancelled then s else s.poisonPos t.desc e p
    | none => s
  s.mark b ev

/-- A whole token is POISONED and its step marked. -/
def State.poisonToken (s : State) (e : Nat) (ev : SootEv) : State :=
  let l := LEntry.state (s.entry e)
  let s := if l = 2 || l = 6 then s.setEntry e (LEntry.setState (s.entry e) 8) else s
  State.mark { s with flue := { s.flue with combineQ := s.flue.combineQ.filter (· != e) } } (entryBank e) ev

/-! ### Home writes -/

/-- A STORE of an entry's row is open, or waits to be issued. -/
def State.homeOpen (s : State) (e : Nat) : Bool :=
  let at_ (x : Serve) : Bool := match x with | .home e' => e' == e | _ => false
  s.fabric.ops.any (fun o => at_ o.serve) || s.fabric.waitQ.any (fun w => at_ w.serve) ||
  s.fabric.resend.any (fun w => at_ w.2.serve)

/-- The context that holds an entry's combined row, and its writes outstanding over the NOC. -/
def State.writeCtx (s : State) (e : Nat) : Option (Nat × Nat) :=
  s.flue.ctxs.findSome? (fun c =>
    match c.use with
    | .write e' left => if e' = e then some (c.num, left) else none
    | _ => none)

/-- An entry retires with its write; one that was cancelled meanwhile waits for the sweep (R232, R234). -/
def State.written (s : State) (e : Nat) (combined : Bool) : State :=
  if LEntry.state (s.entry e) = 7 then s
  else (if combined then s.count Obj.RZ_COMBINED 1 else s).retire e false

/-- The writes of an entry may all be acknowledged: its context is free and it retires (R226, R227); the zero row of an
arrival-combine token lets its packets leave (R228). -/
def State.finishHome (s : State) (e : Nat) : State :=
  if s.homeOpen e then s
  else
    match s.writeCtx e with
    | some (n, 0) => (s.dropFlueCtx n).written e true
    | some _ => s
    | none =>
      if s.flue.zeros.contains (e, 0) then
        State.written { s with flue := { s.flue with zeros := s.flue.zeros.filter (fun z => z.1 != e) } } e false
      else State.tryComplete { s with flue := { s.flue with zeroing := s.flue.zeroing.filter (· != e) } } (entryBank e)

/-- One NOC write of an entry's row is acknowledged. -/
def State.homeAcked (s : State) (e : Nat) : State :=
  match s.writeCtx e with
  | some (n, left) => (s.setFlueCtx n (.write e (left - 1))).finishHome e
  | none =>
    State.finishHome { s with flue := { s.flue with
      zeros := s.flue.zeros.map (fun z => if z.1 = e then (e, z.2 - 1) else z) } } e

/-! ### Sending a return on (R220, R221) -/

/-- The return header that a fronting engine forms from a die's copy of the dispatch header (Table 9-6). -/
def returnHdr (node : Nat) (h : BitVec 256) (type : Nat) (poison : Bool) (retFmt cells payCrc : Nat) : BitVec 256 :=
  packed 256 [(4, type), (1, b2n (DHdr.type h == 2)), (1, b2n (DHdr.bank h)), (1, b2n poison), (1, 0),
    (12, (DHdr.batch h).toNat), (16, DHdr.placeEpoch h), (17, DHdr.srcNode h), (19, DHdr.entry h), (4, DHdr.slot h),
    (16, DHdr.inst h), (17, node), (2, retFmt), (11, cells), (8, DHdr.dSlices h), (32, (DHdr.stepId h).toNat),
    (16, (DHdr.payCrc h).toNat), (46, 0), (32, payCrc)]

/-- A packet's form as an arrival receipt: TYPE 0x7, no cells, PAY_CRC 0. -/
def receiptOf (p : Packet) (poison : Bool) : Packet :=
  let h := setFld (setFld (setFld p.hdr 255 252 7) 144 134 0) 31 0 0
  { hdr := if poison then setFld h 249 249 1 else h, payload := [] }

/-- A return held in a flue context leaves on the path of its DST_NODE (Table 7-1); a replayed one has a bulk of its own
(R169). -/
def State.sendReturn (s : State) (n : Nat) (p : Packet) (alone : Bool) : State :=
  let dst := RHdr.dstNode p.hdr
  match s.route dst with
  | .own => { s with flue := { s.flue with ownPath := s.flue.ownPath ++ [p] } }
  | .peer => s.toPeer (.packet p)
  | .rack => s.requestTo dst 0x05 1 (32 + p.payload.length) 0 0 (.bytes (pktBytes p)) (.flue n (RHdr.key p.hdr))
  | .far => s.copyFar { rack := nodeRack dst, packet := p, ctx := some n, alone := alone }

/-- A REPLAY answer to a return of a key (R221): the packet again, eight times; the ninth rewind writes code 0x41 (Table 14-6)
and sends a poisoned receipt in its place. -/
def State.replayReturn (s : State) (n : Nat) (k : Key) : State :=
  match s.flueUse n with
  | some (.send p r) =>
    if RHdr.key p.hdr ≠ k then s
    else
      let s := (s.breakTiming k false true).unholdFar [n]
      if r < 8 then ((s.count Obj.RZ_RET_REPLAY 1).setFlueCtx n (.send p (r + 1))).sendReturn n p true
      else
        let q := receiptOf p true
        let ev : SootEv := { code := 0x41, sev := 2, action := 1, loc := RHdr.entry p.hdr, detail := RHdr.slot p.hdr }
        let s := s.soot_ { ev with node := some (RHdr.dstNode p.hdr), step := some k }
        (s.setFlueCtx n (.send q 0)).sendReturn n q true
  | _ => s

/-- The context that held a return or receipt of a key for sending is free. -/
def State.dropSent (s : State) (n : Nat) (k : Key) : State := s.dropFlueKey n (FlueUse.sends k)

/-- The context that holds a return for sending, or, since a stash error, its poisoned receipt (R240). -/
def State.sendCtx (s : State) (hdr : BitVec 256) : Option Nat :=
  let q := receiptOf { hdr := hdr, payload := [] } true
  s.flue.ctxs.findSome? (fun c =>
    match c.use with
    | .send p _ => if p.hdr = hdr ∨ p.hdr = q.hdr then some c.num else none
    | _ => none)

/-! ### Arrival reductions (R228) -/

/-- A weight's value (R104): FP16 or BF16. -/
def weightVal (bf : Bool) (w : Nat) : F32 := F32.ofFmt (if bf then Fmt.bf16 else Fmt.fp16) w

/-- The values of a returned row. -/
def retRow (retFmt d : Nat) (payload : List Byte) : List F32 :=
  match retFmt with
  | 0 => elemsOf Fmt.bf16 2 d payload
  | 1 => elemsOf Fmt.fp16 2 d payload
  | _ => elemsOf Fmt.fp32 4 d payload

/-- The home row of a block and offset: its tensor's format, its pieces. -/
def State.homePieces (s : State) (block off : Nat) : Nat × List Piece :=
  let h := OEnt.handle (s.ownerEnt block)
  let r := s.tensor h
  (TRec.fmt r, (s.rowPieces h ((block - TRec.firstBlock r) * 4096 + off)).flatten)

/-- The operands of a row's reductions: v_c = fl(w × o_c), rounded to BF16 where the home is. -/
def redBytes (fmt : Nat) (w : F32) (row : List F32) : List Byte :=
  row.flatMap (fun o =>
    let v := F32.mul w o
    if fmt = 2 then leBytes 4 v.toNat else leBytes 2 (F32.toBf16 v).toNat)

/-- A row's reductions are issued: over the NOC on this package, by RED_ADD elsewhere. -/
def State.issueReductions (s : State) (n : Nat) (key : Key) (scorer entry pos fmt : Nat) (ws : List (Piece × List Byte)) : State :=
  let efmt := if fmt = 2 then 0 else 1
  ws.foldl (fun s w =>
    if samePackage w.1.node s.node then
      let s := s.reduceMem w.1.addr efmt redAdd w.2
      { s with flue := { s.flue with nocReds := s.flue.nocReds ++ [{ ctx := n, scorer := scorer, entry := entry, pos := pos, key := key }] } }
    else s.requestTo w.1.node 0x10 2 w.2.length efmt w.1.addr (.bytes w.2) (.reduce n key scorer)) s

/-- Every piece of a row's reductions is accounted for: the receipt leaves, with POISON where one ended unknown. -/
def State.endReduce (s : State) (n : Nat) : State :=
  match s.flueUse n with
  | some (.reduce p 0 bad) =>
    let q := receiptOf p bad
    (s.setFlueCtx n (.send q 0)).sendReturn n q false
  | _ => s

/-- How an acknowledgement names a pair's position where K is not known: the slot, or 16 and the shared expert. -/
def ackPos (h : BitVec 256) : Nat := if RHdr.shared h then 16 + RHdr.slot h else RHdr.slot h

/-- A row is reduced into its home from a context. -/
def State.reduceRow (s : State) (n : Nat) (p : Packet) (w : F32) (block off : Nat) : State :=
  let (fmt, pieces) := s.homePieces block off
  let row := retRow (RHdr.retFmt p.hdr) (128 * RHdr.dSlices p.hdr) p.payload
  let ws := (cutPieces pieces (redBytes fmt w row)).flatMap (cutRequests 8)
  let s := s.addFlueCtx n (.reduce (receiptOf p false) ws.length false)
  (s.issueReductions n (RHdr.key p.hdr) (RHdr.dstNode p.hdr) (RHdr.entry p.hdr) (ackPos p.hdr) fmt ws).endReduce n

/-- One piece of a key's reductions is acknowledged, or ended badly. A context that holds another key's by now is untouched
(R233). -/
def State.reduceDone (s : State) (n : Nat) (k : Key) (bad : Bool) : State :=
  match s.flueUse n with
  | some (.reduce p left b) =>
    if RHdr.key p.hdr = k then (s.setFlueCtx n (.reduce p (left - 1) (b || bad))).endReduce n else s
  | _ => s

/-! ### A return at the scoring engine (R222, R223) -/

/-- The step whose key a return carries and that holds its bank, uncancelled. -/
def State.returnStep (s : State) (h : BitVec 256) : Option Step :=
  match s.bankStep (RHdr.bank h) with
  | some t => if Step.isKey t (RHdr.key h) && !t.cancelled then some t else none
  | none => none

/-- PAY_CRC and the word parity of a packet that arrived. -/
def payloadOk (cells crc : Nat) (payload : List Byte) (chk : Arrival) : Bool :=
  chk != .parity && payload.length == 64 * cells &&
  (if cells = 0 then crc == 0 else (crc32 payload).toNat == crc)

/-- The first failing check of R222's content list, 1 to 8; 0 when all pass. -/
def State.returnCheck (s : State) (t : Step) (h : BitVec 256) : Nat :=
  let d := t.desc
  let ty := RHdr.type h
  let e := RHdr.entry h
  let slots := if RHdr.shared h then Desc.shared d else Desc.k d
  let p := s.pos (Desc.k d) e (posOf d (RHdr.shared h) (RHdr.slot h))
  let l := s.entry e
  let cells := if ty = 7 then 0 else retCells (RHdr.retFmt h) (128 * RHdr.dSlices h)
  if !RHdr.reservedOk h || RHdr.retFmt h == 3 || !(ty == 5 || ty == 7) then 1
  else if RHdr.retFmt h != Desc.retFmt d then 2
  else if RHdr.cells h != cells then 3
  else if entryBank e != RHdr.bank h then 4
  else if decide (slots ≤ RHdr.slot h) then 5
  else if RHdr.inst h != p.inst then 6
  else if RHdr.digestFrag h != LEntry.frag l || RHdr.placeEpoch h != LEntry.placeEpoch l then 7
  else if p.rstate != 3 then 8
  else 0

/-- A return in error: counted, its position poisoned where it can be identified, its step marked. -/
def State.returnError (s : State) (b : Bool) (t : Step) (h : BitVec 256) (check : Nat) : State :=
  let d := t.desc
  let e := RHdr.entry h
  let slots := if RHdr.shared h then Desc.shared d else Desc.k d
  let s := s.count Obj.RZ_RET_ERROR 1
  let s := if entryBank e == b && decide (RHdr.slot h < slots) then s.poisonPos d e (posOf d (RHdr.shared h) (RHdr.slot h)) else s
  s.mark b { code := 0x60, sev := 2, action := 1, loc := e, detail := check, node := some (RHdr.expNode h) }

/-- An accepted return under ordered combine is placed: direct, in the stash, or in the staging area (R223). Table 9-5 names no
state for a return held direct: it is 4 with its context, as for the stash (log entry 37). -/
def State.placeReturn (s : State) (t : Step) (e p : Nat) (payload : List Byte) : State :=
  let k := Desc.k t.desc
  let others := ((List.range (Desc.positions t.desc)).filter (· != p)).all (fun q => settled (s.pos k e q))
  let put (n : Nat) (direct : Bool) : State :=
    ((s.addFlueCtx n (.row e p direct payload)).setRstate k e p 4 n).settleToken e
  let stage : State :=
    let s := (s.writeMem (s.stageAddr e p) payload).count Obj.RZ_STAGED 1
    { s with flue := { s.flue with staging := s.flue.staging ++ [(e, p)] } }
  match s.freeFlueCtx with
  | none => stage
  | some n =>
    if others && decide (s.flue.combineQ.length < 64) then put n true
    else if payload.length / 64 ≤ s.stashFree then put n false
    else stage

/-- The scoring engine performs the reductions of a far pair itself (R228.5); none while no context is free. -/
def State.reduceFar (s : State) (t : Step) (e p : Nat) (q : Packet) : Option State :=
  match s.freeFlueCtx with
  | none => none
  | some n =>
    let w := weightVal (s.flag Obj.RZ_WEIGHT_FMT) (s.pos (Desc.k t.desc) e p).weight
    some (s.reduceRow n q w (LEntry.homeBlock (s.entry e)) (LEntry.homeOff (s.entry e)))

/-- A return or receipt reaches the scoring engine: the answer it draws (Table 8-4), and what it does. None while it must
wait for a context. -/
def State.takeReturn (s : State) (p : Packet) (chk : Arrival) : Option (Nat × State) :=
  let h := p.hdr
  if RHdr.type h = 8 then some (Rs.done, s.takeDrain p)
  else
    match s.returnStep h with
    | none => some (Rs.done, s.count Obj.RZ_STALE_RETURN 1)
    | some t =>
      let b := RHdr.bank h
      let e := RHdr.entry h
      let pos := posOf t.desc (RHdr.shared h) (RHdr.slot h)
      if !payloadOk (RHdr.cells h) (RHdr.payCrc h).toNat p.payload chk then
        some (Rs.replay, s.breakTiming (RHdr.key h) false true)
      else if s.returnCheck t h ≠ 0 then some (Rs.done, s.returnError b t h (s.returnCheck t h))
      else if RHdr.poison h then
        some (Rs.done, s.poisonMark b e pos { code := 0x60, sev := 2, action := 1, loc := e, node := some (RHdr.expNode h) })
      else if RHdr.type h = 7 then some (Rs.done, (s.setRstate (Desc.k t.desc) e pos 6 0).settleToken e)
      else if Desc.arrival t.desc then (s.reduceFar t e pos p).map (fun s => (Rs.done, s))
      else some (Rs.done, s.placeReturn t e pos p.payload)

end Sys2Proof.Machine
end

