-- ==== Sys2Proof/Machine/Bellows.lean ====
section
/-!
DEFINITION. The bellows' shared operations (R163 to R168, R182, R183): the pack store, contexts, destination-major bursts,
answers to packets, replay and poison, two-half mode.
-/

namespace Sys2Proof.Machine

/-! ### The pack store -/

/-- Where an entry's packed row lies (R164). -/
def State.packAddr (s : State) (e cells : Nat) : Nat := s.obj Obj.RZ_PACK_BASE + e * 64 * cells

/-- A packet's payload, read from the pack store; none for a marker. -/
def State.payloadOf (s : State) (h : BitVec 256) : List Byte :=
  if DHdr.type h = 4 then [] else s.readMem (s.packAddr (DHdr.entry h) (DHdr.cells h)) (64 * DHdr.cells h)

/-- A packet as it leaves: PAY_CRC is computed from the pack store (R167). -/
def State.packetOf (s : State) (h : BitVec 256) : Packet :=
  let bs := s.payloadOf h
  { hdr := setFld h 31 0 (if bs.isEmpty then 0 else (crc32 bs).toNat), payload := bs }

/-! ### Contexts -/

/-- The lowest free dispatch context (R163). -/
def State.freeDispCtx (s : State) : Option Nat :=
  let used := s.bellows.ctxs.map (·.num)
  (List.range 4096).find? (fun n => !used.contains n)

def State.dispCtx (s : State) (n : Nat) : Option Ctx := s.bellows.ctxs.find? (fun c => c.num == n)

def State.dropDispCtx (s : State) (n : Nat) : State :=
  { s with bellows := { s.bellows with ctxs := s.bellows.ctxs.filter (fun c => c.num != n) } }

/-- A context is set, where it was free or in place. -/
def State.setDispCtx (s : State) (c : Ctx) : State :=
  { s with bellows := { s.bellows with ctxs := s.bellows.ctxs.filter (fun x => x.num != c.num) ++ [c] } }

/-- The same pair: key, entry, slot and type. -/
def samePair (a b : BitVec 256) : Bool :=
  decide (DHdr.key a = DHdr.key b) && DHdr.entry a == DHdr.entry b && DHdr.slot a == DHdr.slot b && DHdr.type a == DHdr.type b

/-- The context that a held pair has (R128). -/
def State.heldCtx (s : State) (h : BitVec 256) : Option Nat :=
  (s.bellows.ctxs.find? (fun c => (match c.st with | .held => true | _ => false) && samePair c.hdr h)).map (·.num)

/-! ### Progress of a step's dispatch -/

/-- Packets of a key are still to be issued or acknowledged. -/
def State.dispatching (s : State) (k : Key) : Bool :=
  s.bellows.pend.any (fun p => decide (DHdr.key p.hdr = k)) || s.bellows.ctxs.any (fun c => decide (DHdr.key c.hdr = k)) ||
  (match s.bankOf k with
   | some b => s.bellows.gathers.any (fun e => entryBank e == b)
   | none => false)

/-- In two-half mode the primary fences half 0, once its last packet has left, over the racks to which bulks with packets of
it are unacknowledged; the fence's end is reported to the secondary (R183, R204). -/
def State.halfFence (s : State) (k : Key) (t : Step) : State :=
  let has : Bool := s.fabric.fences.any (fun f => f.half && decide (f.key = k))
  if !s.flag Obj.RZ_TWO_HALF || !s.primary || t.halfSent || has || s.farHeld k then s
  else State.checkFences { s with fabric := { s.fabric with fences := s.fabric.fences ++ [s.fenceOver k [] (s.farRacks k) true] } }

/-- What follows once a packet of a key has been acknowledged or copied, or its walk has ended: the dispatch ends, and half 0
may be acknowledged. -/
def State.dispatchProgress (s : State) (k : Key) : State :=
  match s.keyStep k with
  | none => s
  | some (b, t) =>
    if !t.walked || s.dispatching k then s
    else (s.setStep b { t with dispatched := t.dispatched.or (some s.core) }).halfFence k t

/-- Bulks have ended or been sent: fences and half 0 may be over. -/
def State.farProgress (s : State) : State :=
  s.liveBanks.foldl (fun s b => match s.bankStep b with
    | some t => s.dispatchProgress (Step.key t)
    | none => s) s.checkFences

/-! ### Sending -/

/-- A context's packet leaves on its path (Table 7-1). -/
def State.sendDispatch (s : State) (c : Ctx) (p : Packet) : State :=
  let s := s.setDispCtx { c with hdr := p.hdr, st := .sent }
  match c.path with
  | .own => { s with bellows := { s.bellows with ownPath := s.bellows.ownPath ++ [p] } }
  | .peer => s.toPeer (.packet p)
  | .gate => (s.dropDispCtx c.num).copyFar { rack := nodeRack c.dest, packet := p, ctx := none, alone := false }
  | _ => s.requestTo c.dest 0x04 0 (32 + p.payload.length) 0 0 (.bytes (pktBytes p)) (.dispatch c.num (DHdr.key p.hdr))

/-- The position that a dispatch header names. -/
def dispPos (d : Desc) (h : BitVec 256) : Nat := posOf d (DHdr.type h == 2) (DHdr.slot h)

/-- A packet that carries a pair is issued: its position is SENT (R218). -/
def State.pairSent (s : State) (d : Desc) (h : BitVec 256) : State :=
  if DHdr.type h = 4 then s
  else
    let e := DHdr.entry h
    let p := dispPos d h
    if (s.pos (Desc.k d) e p).rstate < 3 then s.setRstate (Desc.k d) e p 3 0 else s

/-- A pair's packet is lost for good: its position is poisoned and the step marked (R168, R195, R206). -/
def State.poisonPair (s : State) (h : BitVec 256) (ev : SootEv) : State :=
  match s.bankOf (DHdr.key h) with
  | none => s.soot_ { ev with step := some (DHdr.key h) }
  | some b =>
    let s := match s.keyStep (DHdr.key h) with
      | some (_, t) => if DHdr.type h = 4 then s else s.poisonPos t.desc (DHdr.entry h) (dispPos t.desc h)
      | none => s
    s.mark b ev

/-- A header as a replay carries it: PRIO 0, every other field unchanged (R168). -/
def replayed (h : BitVec 256) : BitVec 256 := setFld h 251 250 0

/-- The engine to which a dispatch packet goes: this one for a shared queue, else the host of its instance at its PLACE_EPOCH.
-/
def State.hostOf (s : State) (h : BitVec 256) : Nat :=
  if DHdr.type h = 2 then s.node
  else PEntry.node (Tabs.get (fun _ => (0 : BitVec 64)) (s.tables.place.get (DHdr.placeEpoch h % 2 == 1)) (DHdr.inst h))

/-- The ninth rewind of a pair (Table 14-6, REPLAY_LIMIT). -/
def replayLimit (h : BitVec 256) (host : Nat) : SootEv :=
  { code := 0x41, sev := 2, action := 1, loc := DHdr.entry h, detail := DHdr.slot h, node := some host }

/-! ### Answers to a packet (R168) -/

/-- A commit acknowledgement: the context is free. -/
def State.ackDispatch (s : State) (n : Nat) : State :=
  match s.dispCtx n with
  | none => s
  | some c => (s.dropDispCtx n).dispatchProgress (DHdr.key c.hdr)

/-- A replay request: the packet again with PRIO 0, up to eight times. A cancelled key's packet is not sent again (R131). -/
def State.replayDispatch (s : State) (n : Nat) : State :=
  match s.dispCtx n with
  | none => s
  | some c =>
    if (s.keyStep (DHdr.key c.hdr)).isNone then s.dropDispCtx n
    else if c.replays < 8 then
      let s := (s.count Obj.RZ_PKT_REPLAY 1).breakTiming (DHdr.key c.hdr) false true
      s.sendDispatch { c with replays := c.replays + 1 } (s.packetOf (replayed c.hdr))
    else (s.dropDispCtx n).poisonPair c.hdr (replayLimit c.hdr (s.hostOf c.hdr))

/-- A busy reply: the packet waits out RZ_BUSY_BACKOFF. -/
def State.busyDispatch (s : State) (n : Nat) : State :=
  match s.dispCtx n with
  | none => s
  | some c => (s.breakTiming (DHdr.key c.hdr) false true).setDispCtx { c with st := .backoff s.core }

/-- The context that waits for an answer to a packet. -/
def State.sentCtx (s : State) (h : BitVec 256) : Option Nat :=
  (s.bellows.ctxs.find? (fun c => (match c.st with | .sent => true | _ => false) && decide (c.hdr = h))).map (·.num)

/-- A far packet's number among its entry's: type, instance, slot. -/
def farId (h : BitVec 256) : Nat := DHdr.type h * 2 ^ 20 + DHdr.inst h * 16 + DHdr.slot h

/-- A replay request for a far pair, whose context is free: a bulk that holds its packet alone, up to eight times (R168,
R169). -/
def State.replayFar (s : State) (h : BitVec 256) : State :=
  match s.keyStep (DHdr.key h) with
  | none => s
  | some _ =>
    let hit (f : FarReplay) : Bool := decide (f.key = DHdr.key h) && f.entry == DHdr.entry h && f.slot == farId h
    let n := match s.bellows.farReplays.find? hit with
      | some f => f.count
      | none => 0
    if n < 8 then
      let f : FarReplay := { key := DHdr.key h, entry := DHdr.entry h, slot := farId h, count := n + 1 }
      let s := { s with bellows := { s.bellows with farReplays := s.bellows.farReplays.filter (fun x => !hit x) ++ [f] } }
      let s := (s.count Obj.RZ_PKT_REPLAY 1).breakTiming (DHdr.key h) false true
      s.copyFar { rack := nodeRack (s.hostOf h), packet := s.packetOf (replayed h), ctx := none, alone := true }
    else s.poisonPair h (replayLimit h (s.hostOf h))

/-! ### Destination-major bursts (R166) -/

/-- A shared packet of the same token waits to be issued: it leaves ahead of the token's routed packets (R182). -/
def State.sharedWaits (s : State) (h : BitVec 256) : Bool :=
  s.bellows.pend.any (fun p => DHdr.type p.hdr == 2 && decide (DHdr.key p.hdr = DHdr.key h) && DHdr.entry p.hdr == DHdr.entry h)

/-- A pending packet may leave: its row is packed, its zero row acknowledged (R228), its token's shared packets are ahead of it
(R182), and in two-half mode half 0 is acknowledged before the secondary sends (R183). -/
def State.pendReady (s : State) (p : Pend) : Bool :=
  let e := DHdr.entry p.hdr
  let half : Bool :=
    if s.flag Obj.RZ_TWO_HALF && !s.primary then
      match s.keyStep (DHdr.key p.hdr) with
      | some (_, t) => t.halfZero
      | none => false
    else true
  half && (DHdr.type p.hdr == 4 ||
    (!s.bellows.gathers.contains e && !s.flue.zeroing.contains e && (DHdr.type p.hdr == 2 || !s.sharedWaits p.hdr)))

/-- The list to serve next: the same one until its burst is over, then the next in ascending order, wrapping. -/
def pickDest (dests : List Nat) (last : Option (Nat × Nat)) (burst : Nat) : Option Nat :=
  match last with
  | none => leastOf (fun _ => true) dests
  | some (d, n) =>
    if dests.contains d && decide (n < burst) then some d
    else (leastOf (fun x => decide (d < x)) dests).or (leastOf (fun _ => true) dests)

/-- The path that a pending packet takes as the ports now stand: another engine of the rack is reached over the port that
carries its traffic (Table 7-1, R200). -/
def State.pathNow (s : State) (p : Pend) : DispPath :=
  match p.path with
  | .fab0 => if portFor s.fabUp p.dest = some true then .fab1 else .fab0
  | .fab1 => if portFor s.fabUp p.dest = some false then .fab0 else .fab1
  | x => x

/-- Packets that wait for a path. -/
def State.pendOn (s : State) (path : DispPath) : List Pend := s.bellows.pend.filter (fun p => decide (s.pathNow p = path))

/-- Heads of a path's lists for one step, that are ready. -/
def State.readyHeads (s : State) (path : DispPath) (nth : Nat) : List Pend :=
  let q := (s.pendOn path).filter (fun p => p.nth == nth)
  ((q.map (·.dest)).eraseDups.filterMap (fun d => q.find? (fun p => p.dest == d))).filter s.pendReady

/-- The next packet of a path: the earlier step's first (R25). -/
def State.nextPend (s : State) (path : DispPath) : Option Pend :=
  let nths := ((s.pendOn path).map (·.nth)).eraseDups
  let early := leastOf (fun _ => true) (nths.filter (fun n => !(s.readyHeads path n).isEmpty))
  match early with
  | none => none
  | some n =>
    let heads := s.readyHeads path n
    let last := (s.bellows.turn.find? (fun t => decide (t.1 = path))).map (·.2)
    match pickDest (heads.map (·.dest)) last (s.obj Obj.RZ_BURST) with
    | none => none
    | some d => heads.find? (fun p => p.dest == d)

/-- The burst of a path moves on. -/
def State.servePath (s : State) (path : DispPath) (dest : Nat) : State :=
  let n := match s.bellows.turn.find? (fun t => decide (t.1 = path)) with
    | some (_, d, n) => if d = dest && decide (n < s.obj Obj.RZ_BURST) then n + 1 else 1
    | none => 1
  { s with bellows := { s.bellows with
      turn := s.bellows.turn.filter (fun t => decide (t.1 ≠ path)) ++ [(path, dest, n)] } }

/-- The first packet of a list leaves it. -/
def State.unpend (s : State) (p : Pend) : State := { s with bellows := { s.bellows with pend := s.bellows.pend.erase p } }

/-- The step's last far packet for a rack has been copied: its buffer is flushed (R169). -/
def State.flushLast (s : State) (k : Key) (rack : Nat) : State :=
  match s.keyStep k with
  | none => s
  | some (_, t) =>
    if t.walked && !s.bellows.pend.any (fun p => decide (p.path = .gate) && nodeRack p.dest == rack && decide (DHdr.key p.hdr = k)) then
      s.flushAgg rack
    else s

/-! ### The rows -/

/-- DISPATCH_SEND. A far packet needs a buffer: while none is free the one opened earliest is flushed and it waits. -/
def execDispatchSend (path : DispPath) (s : State) : Res :=
  .next (
    if !s.active then s
    else
      match s.nextPend path with
      | none => s
      | some w =>
        match s.keyStep (DHdr.key w.hdr), (s.heldCtx w.hdr).or s.freeDispCtx with
        | some (_, t), some n =>
          let p := s.packetOf w.hdr
          let sent (s : State) : State :=
            (((s.unpend w).servePath path w.dest).count Obj.RZ_PKT_SENT 1).pairSent t.desc w.hdr
          if path = .gate then
            let (s, copied) := s.aggregate (nodeRack w.dest) p none
            if copied then
              (((sent s).dropDispCtx n).flushLast (DHdr.key w.hdr) (nodeRack w.dest)).dispatchProgress (DHdr.key w.hdr)
            else s.flushOldest
          else (sent s).sendDispatch { num := n, path := path, dest := w.dest, hdr := p.hdr, replays := 0, st := .sent } p
        | _, _ => s)

/-- Since when a context waits out a busy reply. -/
def Ctx.waits (c : Ctx) : Option Nat := match c.st with | .backoff n => some n | _ => none

/-- A packet that a request carries, where it carries one. -/
def FabBody.packet (b : FabBody) : Packet :=
  match b with
  | .bytes bs => { hdr := ofBytes 256 (bs.take 32), payload := bs.drop 32 }
  | _ => { hdr := 0, payload := [] }

/-- A landed packet goes on to its host (R207): the peer over its own path (R18), another engine of the rack by a request. -/
def State.forward (s : State) (w : FabWait) : State :=
  if s.route w.dst = .peer then s.toPeer (.packet w.body.packet) else s.request w

/-- BUSY_BACKOFF_EXPIRY: what has waited longest is sent again, a fabric operation as a new one (Table 8-4). -/
def execBusyBackoffExpiry (s : State) : Res :=
  let limit := s.obj Obj.RZ_BUSY_BACKOFF
  let since := leastOf (fun _ => true) (s.bellows.ctxs.filterMap Ctx.waits ++ s.fabric.resend.map (·.1))
  .next (
    match since with
    | none => s
    | some a =>
      if s.core < a + limit then s
      else
        match s.bellows.ctxs.find? (fun c => c.waits == some a) with
        | some c => s.sendDispatch c (s.packetOf c.hdr)
        | none =>
          match s.fabric.resend.find? (fun w => w.1 == a) with
          | some w => State.forward { s with fabric := { s.fabric with resend := s.fabric.resend.erase w } } w.2
          | none => s)

/-- HALF_ZERO_ACKNOWLEDGED: the secondary may send the earlier step that waits for it (R183). -/
def execHalfZeroAcknowledged (s : State) : Res :=
  .next (
    if s.primary || !s.flag Obj.RZ_TWO_HALF then s
    else
      match s.liveBanks.find? (fun b => match s.bankStep b with | some t => !t.halfZero && !t.cancelled | none => false) with
      | some b => s.onStep b (fun t => { t with halfZero := true })
      | none => s)

end Sys2Proof.Machine
end

