-- ==== Sys2Proof/Machine/PoolTake.lean ====
section
/-!
DEFINITION. The pool takes a packet (R172 to R175, R179), and the landing engine places a bulk's packets (R207).
-/

namespace Sys2Proof.Machine

/-! ### Faults of a queue -/

/-- The bank of this engine's own step that opened a slot. -/
def State.slotBank (s : State) (x : PSlot) : Option Bool := if x.sender.toNat = s.node then s.bankOf x.key else none

/-- Another step's slot is at fault: an entry names its step, and its first sender is told (R175, R179, R350). -/
def State.slotFault (s : State) (x : PSlot) (ev : SootEv) : State :=
  (s.soot_ { ev with step := some x.key }).noticeTo x.sender.toNat x.key (BitVec.ofNat 8 ev.code)

/-- One event is a fault of several slots, and of steps of this engine's own beside: the own steps are marked in one cancel
event (R231, R356), the first senders of the other slots are told. It writes at least one soot entry. -/
def State.slotFaults (s : State) (own : List Bool) (xs : List PSlot) (ev : SootEv) : State :=
  let bs := (own ++ xs.filterMap s.slotBank).eraseDups
  let others := xs.filter (fun x => (s.slotBank x).isNone)
  let s := if bs.isEmpty && !others.isEmpty then s else s.markSteps bs ev
  others.foldl (fun s x => s.slotFault x ev) s

/-! ### Taking a packet -/

/-- R173's checks of a header, and R13's of a marker's count. -/
def State.packetBad (s : State) (h : BitVec 256) (foreign : Bool) : Bool :=
  let ty := DHdr.type h
  let q := s.queueEntry (DHdr.placeEpoch h % 2 == 1) (DHdr.qnum h)
  let cells := if ty = 4 then 0 else dispCells (DHdr.dispFmt h) (128 * DHdr.dSlices h)
  !(ty == 1 || ty == 2 || ty == 4) || !DHdr.reservedOk h || DHdr.cells h != cells || !QEntry.valid q ||
  QEntry.inst q != DHdr.inst h || (foreign && ty == 2) || (ty == 4 && DHdr.rank h == 0xFFFFF)

/-- The pool has room for a header's cells (R172); none is admitted while the free list is rebuilt (R175). -/
def State.poolRoom (s : State) (h : BitVec 256) : Bool :=
  let need := 1 + DHdr.cells h
  !s.pool.sweeps.contains .free &&
  (if 2 ≤ DHdr.prio h then decide (s.obj Obj.RZ_POOL_RESERVE + need < s.poolFree) else decide (need ≤ s.poolFree))

/-- The packet would open a third slot of its queue (R179). -/
def State.thirdSlot (s : State) (h : BitVec 256) : Bool :=
  (s.slotOf (DHdr.qnum h) (DHdr.key h)).isNone && decide (2 ≤ (s.slotsOf (DHdr.qnum h)).length)

/-- The slot after a packet or marker: commits, last class, the counts that FINAL and HALF_END give (R179, R183). -/
def PSlot.take (x : PSlot) (h : BitVec 256) : PSlot :=
  let marker := DHdr.type h == 4
  let n := if marker then DHdr.rank h else DHdr.rank h + 1
  { x with
    commits := if marker then x.commits else x.commits + 1
    lastPrio := if marker then x.lastPrio else some (DHdr.prio h)
    fmt := DHdr.dispFmt h
    dSlices := DHdr.dSlices h
    final := if DHdr.final h then some n else x.final
    halfEnd := if DHdr.halfEnd h then some n else x.halfEnd }

/-- A slot received a second FINAL, or more commits than its count (R179). -/
def closeAnomaly (old new : PSlot) (h : BitVec 256) : Bool :=
  (DHdr.final h && old.final.isSome) ||
  (match new.final with
   | some n => decide (n < new.commits)
   | none => false)

/-- A packet is committed: linked to its list with the cells reserved for it (a marker takes no row and keeps no cell),
counted in its slot, and what is now due is closed (R174, R179). -/
def State.commitPacket (s : State) (p : Packet) (cells : List (Nat × Nat)) (chk : Arrival) : State :=
  let h := p.hdr
  let q := DHdr.qnum h
  let k := DHdr.key h
  let c := DHdr.prio h
  let old := (s.slotOf q k).getD (newSlot k (DHdr.placeEpoch h) (DHdr.dispFmt h) (DHdr.dSlices h) (BitVec.ofNat 17 (DHdr.srcNode h)))
  let new := old.take h
  let s := s.setSlots q ((s.slotsOf q).filter (fun x => decide (x.key ≠ k)) ++ [new])
  let s := if DHdr.type h = 4 then s.giveCells cells
    else s.setPoolList q c (s.poolList q c ++ [{ hdr := h, payload := p.payload, cells := cells }])
  let s := if closeAnomaly old new h then
      s.slotFaults [] [new] { code := 0x44, sev := 2, action := 1, loc := q, detail := new.commits, node := some (DHdr.srcNode h) }
    else s.closeDue q k
  s.pointerCheck chk (if DHdr.type h = 4 then none else some (q, c))

/-- A packet is offered to the pool: its answer (DONE, REPLAY) and what it does; none while there is no space for it, which an
open third slot of its queue is too. Its cells are reserved as the header arrives; a packet that is discarded or rewound gives
them back (R172 to R174). -/
def State.poolTake (s : State) (p : Packet) (chk : Arrival) (foreign : Bool) : Option (Nat × State) :=
  let h := p.hdr
  let gone := s.pool.cancelled.contains (DHdr.key h)
  let bad := s.packetBad h foreign
  if !s.poolRoom h || (!gone && !bad && s.thirdSlot h) then none
  else
    let (cells, s) := s.takeCells (1 + DHdr.cells h)
    let back := (s.giveCells cells).pointerCheck chk none
    if gone then some (Rs.done, back.count Obj.RZ_PKT_DISCARD 1)
    else if bad then
      let ev : SootEv :=
        { code := 0x40, sev := 0, action := 0, loc := DHdr.qnum h, detail := fld h 255 224, node := some (DHdr.srcNode h)
          step := some (DHdr.key h) }
      some (Rs.done, (back.count Obj.RZ_PKT_DISCARD 1).soot_ ev)
    else if !payloadOk (DHdr.cells h) (DHdr.payCrc h).toNat p.payload chk then some (Rs.replay, back)
    else some (Rs.done, s.commitPacket p cells chk)

/-- The answer to a packet of the own bellows. -/
def State.ownAnswer (s : State) (h : BitVec 256) (st : Nat) : State :=
  match s.sentCtx h with
  | none => s
  | some n => if st = Rs.replay then s.replayDispatch n else s.ackDispatch n

/-! ### Shared queues (R182) -/

/-- The last scored unit has been selected: each shared queue's count is the share's routed tokens. -/
def State.sealShared (s : State) (b : Bool) : State :=
  match s.steps.get b with
  | none => s
  | some t =>
    if t.sharedClosed || t.cancelled then s
    else
      let d := t.desc
      let k := Step.key t
      let s := s.setStep b { t with sharedClosed := true }
      (List.range (Desc.shared d)).foldl (fun s i =>
        let q := 2044 + i
        let x := (s.slotOf q k).getD (newSlot k (Desc.placeEpoch d) (Desc.dispFmt d) (Desc.dSlices d) (BitVec.ofNat 17 s.node))
        let s := s.setSlots q ((s.slotsOf q).filter (fun x => decide (x.key ≠ k)) ++ [{ x with final := some t.routedTokens }])
        s.closeDue q k) s

/-! ### The landing engine (R207) -/

def State.land (s : State) (slot : Nat) : Option Land := s.fabric.lands.find? (fun l => l.slot == slot)

def State.setLand (s : State) (l : Land) : State :=
  { s with fabric := { s.fabric with lands := s.fabric.lands.map (fun x => if x.slot = l.slot then l else x) } }

/-- A buffer is free when every packet of its bulk has committed or been relayed. -/
def State.freeLand (s : State) (slot : Nat) : State :=
  { s with fabric := { s.fabric with
      lands := s.fabric.lands.filter (fun l => !(l.slot == slot && l.packets.isEmpty && l.left == 0)) } }

/-- A replay request is relayed to a packet's sender, by a gateway message to its rack (R207): SRC_NODE of a dispatch packet,
EXP_NODE of a return. -/
def State.relayReplay (s : State) (h : BitVec 256) : State :=
  let src := if 5 ≤ DHdr.type h then RHdr.expNode h else DHdr.srcNode h
  s.toGate (nodeRack src) (.packetReply h Rs.replay)

/-- Where a landed packet goes: a dispatch packet to the engine that the placement at its PLACE_EPOCH gives its instance, a
return to its DST_NODE. -/
def State.landHost (s : State) (h : BitVec 256) : Nat :=
  if 5 ≤ DHdr.type h then RHdr.dstNode h
  else
    let e := Tabs.get (fun _ => (0 : BitVec 64)) (s.tables.place.get (DHdr.placeEpoch h % 2 == 1)) (DHdr.inst h)
    if PEntry.valid e then PEntry.node e else s.node

/-- A landed packet as an operation to its host. -/
def landedReq (host slot : Nat) (p : Packet) : FabWait :=
  let ret := decide (5 ≤ DHdr.type p.hdr)
  { dst := host, hdr := reqFields (if ret then 0x05 else 0x04) (if ret then 1 else 0) (32 + p.payload.length) 0 0 0
    body := .bytes (pktBytes p), serve := .forward slot, members := [] }

/-- One packet of a bulk is placed here or forwarded; none while it must wait. -/
def State.placeLanded (s : State) (l : Land) (p : Packet) (chk : Arrival) : Option State :=
  let host := s.landHost p.hdr
  let relay (r : Nat × State) : State := if r.1 = Rs.replay then r.2.relayReplay p.hdr else r.2
  if host = s.node then
    if 5 ≤ DHdr.type p.hdr then (s.takeReturn p chk).map relay else (s.poolTake p chk true).map relay
  else
    let peer := if s.route host = .peer then l.peer ++ [p] else l.peer
    some ((s.setLand { l with left := l.left + 1, peer := peer }).forward (landedReq host l.slot p))

/-- A buffer's packets are placed in bulk order until one must wait. -/
def pumpLand : Nat → Nat → State → State
  | 0, slot, s => s.freeLand slot
  | n + 1, slot, s =>
    match s.land slot with
    | none => s
    | some l =>
      match l.packets with
      | [] => s.freeLand slot
      | p :: rest =>
        match s.placeLanded l p (l.chks.headD .clean) with
        | some s =>
          match s.land slot with
          | some l => pumpLand n slot (s.setLand { l with packets := rest, chks := l.chks.tail })
          | none => s
        | none => { s with pool := { s.pool with waiting := s.pool.waiting ++ [(.bulk slot, p)] } }

/-- A forwarded packet has committed or been relayed. -/
def State.landDone (s : State) (slot : Nat) : State :=
  match s.land slot with
  | none => s
  | some l => (s.setLand { l with left := l.left - 1 }).freeLand slot

/-- The peer's answer to a packet that was forwarded to it: a replay request is relayed, a busy packet sent again after
RZ_BUSY_BACKOFF (R207). -/
def State.landedAnswer (s : State) (h : BitVec 256) (st : Nat) : State :=
  match s.fabric.lands.findSome? (fun l => (l.peer.find? (fun p => decide (p.hdr = h))).map (fun p => (l, p))) with
  | none => s
  | some (l, p) =>
    if st = Rs.busy then
      let w := landedReq (s.landHost h) l.slot p
      { s with fabric := { s.fabric with resend := s.fabric.resend ++ [(s.core, w)] } }
    else
      let s := s.setLand { l with peer := l.peer.erase p }
      (if st = Rs.replay then s.relayReplay h else s).landDone l.slot

end Sys2Proof.Machine
end

