-- ==== Sys2Proof/Machine/Bulks.lean ====
section
/-!
DEFINITION. The rows of the gateway path: aggregation, bulk acknowledgement and timeout at the sender (R169, R206), arrival
at the landing engine (R170, R207, R208).
-/

namespace Sys2Proof.Machine

/-- AGG_FLUSH_AGE: RZ_AGG_FLUSH CORE cycles since the buffer's first packet was copied. -/
def execAggFlushAge (rack : BitVec 9) (s : State) : Res :=
  .next (
    match s.bellows.aggs.find? (fun a => a.rack == rack.toNat) with
    | some a => if a.opened + s.obj Obj.RZ_AGG_FLUSH ≤ s.core then s.flushAgg rack.toNat else s
    | none => s)

def State.bulkOf (s : State) (rack : BitVec 9) (seq : BitVec 32) : Option Bulk :=
  s.bellows.bulks.find? (fun b => b.rack == rack.toNat && b.seq == seq)

/-- The returns of an acknowledged bulk leave their contexts, and are kept for replay requests relayed later (R221, log entry
24). -/
def State.keepReturns (s : State) (b : Bulk) : State :=
  let new := s.flue.ctxs.filterMap (fun c =>
    match c.use with
    | .send p r => if b.ctxs.contains c.num then some (p, r) else none
    | _ => none)
  let l := s.flue.farKept ++ new
  { s with flue := { s.flue with farKept := l.drop (l.length - 4096) } }

/-- BULK_ACK. -/
def execBulkAck (rack : BitVec 9) (seq : BitVec 32) (s : State) : Res :=
  .next (
    match s.bulkOf rack seq with
    | some b => ((s.keepReturns b).dropBulk b).farProgress
    | none => s)

/-- The packets of a bulk's body: each header says how many cells follow it. -/
def parsePackets : Nat → List Byte → List Packet
  | 0, _ => []
  | n + 1, bs =>
    let h : BitVec 256 := ofBytes 256 (bs.take 32)
    let len := 64 * (if 5 ≤ DHdr.type h then RHdr.cells h else DHdr.cells h)
    { hdr := h, payload := (bs.drop 32).take len } :: parsePackets n (bs.drop (32 + len))

/-- A lost bulk's packets (R206): pairs of this engine are poisoned and their steps marked; a return's step is another
engine's, which is told (R195). -/
def State.loseBulk (s : State) (b : Bulk) : State :=
  let pairs := b.hdrs.filter (fun h => decide (DHdr.type h < 5))
  let rets := b.hdrs.filter (fun h => decide (5 ≤ DHdr.type h))
  let told := (rets.map (fun h => (RHdr.dstNode h, RHdr.key h))).eraseDups
  let ev : SootEv :=
    { code := 0x54, sev := 2, action := 1, loc := b.rack, detail := b.seq.toNat, step := told.head?.map (·.2) }
  let s := pairs.foldl (fun s h =>
    match s.keyStep (DHdr.key h) with
    | some (_, t) => if DHdr.type h = 4 then s else s.poisonPos t.desc (DHdr.entry h) (dispPos t.desc h)
    | none => s) s
  let s := s.markSteps ((pairs.filterMap (fun h => (s.keyStep (DHdr.key h)).map (·.1))).eraseDups) ev
  told.foldl (fun s x => s.noticeTo x.1 x.2 0x54) s

/-- BULK_TIMEOUT: offered again with the same BULK_SEQ, up to eight times. -/
def execBulkTimeout (rack : BitVec 9) (seq : BitVec 32) (s : State) : Res :=
  .next (
    match s.bulkOf rack seq with
    | none => s
    | some b =>
      if s.core < b.sentAt + s.obj Obj.RZ_GATE_TIMEOUT then s
      else if b.offers < 8 then
        let b' := { b with offers := b.offers + 1, sentAt := s.core }
        let s := { s with bellows := { s.bellows with bulks := s.bellows.bulks.map (fun x => if x = b then b' else x) } }
        s.emitBulk b
      else ((s.dropBulk b).loseBulk b).farProgress)

/-! ### Arrival -/

/-- The header and BODY_CRC of an arriving bulk (R170, Table 7-3). -/
def bulkOk (rack : Nat) (h : BitVec 512) (body : List Byte) : Bool :=
  let ps := parsePackets (BHdr.pkts h) body
  BHdr.type h == 6 && BHdr.reservedOk h && BHdr.dstRack h == rack && BHdr.pkts h != 0 &&
  BHdr.bytes h == 64 + body.length && decide (BHdr.bytes h ≤ 1048576) && (crc32 body == BHdr.bodyCrc h) &&
  (ps.map (fun p => 32 + p.payload.length)).sum == body.length

/-- How a bulk is judged against its sender's landing record (R208). -/
inductive BulkJudge where
  | stale | dup
  /-- Past the map, which R208 excludes: refused, so the gateway keeps it. -/
  | beyond
  | new (rec : BitVec 128)
deriving DecidableEq, Repr

/-- The watermark advances over every accepted number. -/
def advanceMark : Nat → Nat → Nat → Nat × Nat
  | 0, wm, map => (wm, map)
  | n + 1, wm, map => if map % 2 = 1 then advanceMark n ((wm + 1) % 2 ^ 32) (map / 2) else (wm, map)

/-- R208: the record holds INCARN, the watermark, the map (bit i for the watermark + i); all zero is cleared. -/
def judgeBulk (r : BitVec 128) (incarn seq : BitVec 32) : BulkJudge :=
  let old : BitVec 32 := BitVec.ofNat 32 (fld r 127 96)
  let newer := decide (r = 0) || (decide (incarn ≠ old) && decide ((incarn - old).toNat < 2 ^ 31))
  if !newer && decide (incarn ≠ old) then .stale
  else
    let wm := if newer then 0 else fld r 95 64
    let map := if newer then 0 else fld r 63 0
    let off := (seq - BitVec.ofNat 32 wm).toNat
    if 2 ^ 31 ≤ off then .dup
    else if 64 ≤ off then .beyond
    else if map / 2 ^ off % 2 = 1 then .dup
    else
      let (wm, map) := advanceMark 64 wm (map + 2 ^ off)
      .new (packed 128 [(32, incarn.toNat), (32, wm), (64, map)])

/-- The lowest free landing buffer. -/
def State.freeLandSlot (s : State) : Option Nat :=
  let used := s.fabric.lands.map (·.slot)
  (List.range (s.obj Obj.RZ_LAND_SLOTS)).find? (fun i => !used.contains i)

/-- This engine is its rack's landing engine. -/
def State.isLanding (s : State) : Bool :=
  let r := nodeRack s.node
  (Tabs.get (fun _ => (0 : BitVec 32)) s.tables.landing r).toNat == s.node

/-- BULK_ARRIVAL. While no buffer is free the engine refuses delivery and the gateway keeps the bulk. `chks`: what the checks of
R174, R175 and R222 find about its packets as they are placed here, in bulk order. -/
def execBulkArrival (hdr : BitVec 512) (body : List Byte) (chks : List Arrival) (s : State) : Res :=
  let src := BHdr.srcNode hdr
  let seq := BHdr.seq hdr
  let ack (s : State) : State := s.emit (.bulkAck (BitVec.ofNat 17 src) (BitVec.ofNat 9 (BHdr.dstRack hdr)) seq)
  .next (
    if !s.active || !s.gateOpen || !s.isLanding then s
    else if !bulkOk (nodeRack s.node) hdr body then
      s.soot_ { code := 0x45, sev := 1, action := 0, loc := BHdr.dstRack hdr, detail := seq.toNat, node := some src }
    else
      let at_ := s.obj Obj.RZ_BULK_SEEN_BASE + 16 * src
      match judgeBulk (ofBytes 128 (s.readMem at_ 16)) (BHdr.incarn hdr) seq with
      | .stale => ack (s.count Obj.RZ_BULK_STALE 1)
      | .dup => ack (s.count Obj.RZ_BULK_DUP 1)
      | .beyond => s
      | .new r =>
        match s.freeLandSlot with
        | none => s
        | some slot =>
          let s := s.writeMem at_ (toBytes r)
          let s := s.writeMem (s.obj Obj.RZ_LAND_BASE + 1048576 * slot) (toBytes hdr ++ body)
          let ps := parsePackets (BHdr.pkts hdr) body
          let l : Land := { slot := slot, src := BitVec.ofNat 17 src, packets := ps, chks := chks, left := 0, peer := [] }
          pumpLand ps.length slot (ack { s with fabric := { s.fabric with lands := s.fabric.lands ++ [l] } }))

end Sys2Proof.Machine
end

