-- ==== Sys2Proof/Machine/Gate.lean ====
section
/-!
DEFINITION. The scoring of one unit (R73 to R82, R101 to R107, R112 to R118, R265): norm unit, grate, trivet, gate modes,
top-k, as functions of the router bank, the input rows and the step.
-/

namespace Sys2Proof.Machine

/-- A list cut into n runs of k. -/
def runs {α : Type} (k : Nat) : Nat → List α → List (List α)
  | 0, _ => []
  | n + 1, l => l.take k :: runs k n (l.drop k)

/-! ### Norm unit (R74 to R76) -/

/-- pool of R74 for one element: its members' values, and whether a sat saturated. -/
def poolElem (w : Nat) : List F32 → F32 × Bool
  | [] => (f32Zero, false)
  | x :: xs =>
    let r := xs.foldl (fun (a : F32 × Bool) v =>
      let q := F32.sat (F32.add a.1 v)
      (q.1, a.2 || q.2)) (x, false)
    (F32.mul r.1 (if w = 4 then 0x3E800000 else 0x3E000000), r.2)

/-- The pooled row of a window's rows. -/
def poolRows (rows : List (List F32)) : List F32 × Bool :=
  match rows with
  | [] => ([], false)
  | [r] => (r, false)
  | r :: _ =>
    let v := (List.range r.length).map (fun i => poolElem rows.length (rows.map (fun x => x.getD i f32Zero)))
    (v.map (·.1), v.any (·.2))

/-- A lane of the norm unit, and whether a sat of it saturated. -/
structure Lane where
  mean : F32
  m2 : F32
  n : Nat
  hit : Bool
deriving DecidableEq, Repr

def Lane.zero : Lane := { mean := f32Zero, m2 := f32Zero, n := 0, hit := false }

/-- max0 of R75. -/
def max0 (v : F32) : F32 := if F32.gt v f32Zero then v else f32Zero

/-- One value enters a lane of layer normalisation. -/
def Lane.layer (a : Lane) (x : F32) : Lane :=
  let n := a.n + 1
  let dl := F32.sat (F32.sub x a.mean)
  let mean := F32.add a.mean (F32.div dl.1 (F32.ofNat n))
  let d2 := F32.sat (F32.sub x mean)
  let pr := F32.sat (F32.mul dl.1 d2.1)
  let m2 := F32.sat (F32.add a.m2 (max0 pr.1))
  { mean := mean, m2 := m2.1, n := n, hit := a.hit || dl.2 || d2.2 || pr.2 || m2.2 }

/-- One value enters a lane of RMS normalisation. -/
def Lane.rms (a : Lane) (x : F32) : Lane :=
  let n := a.n + 1
  let q := F32.sat (F32.mul x x)
  { mean := F32.add a.mean (F32.div (F32.sub q.1 a.mean) (F32.ofNat n)), m2 := f32Zero, n := n, hit := a.hit || q.2 }

/-- Two lanes merge. -/
def Lane.merge (layer : Bool) (a b : Lane) : Lane :=
  let dl := F32.sat (F32.sub b.mean a.mean)
  let mean := F32.add a.mean (F32.mul dl.1 0x3F000000)
  if layer then
    let sq := F32.sat (F32.mul dl.1 dl.1)
    let pr := F32.sat (F32.mul sq.1 (F32.mul (F32.ofNat a.n) 0x3F000000))
    let sm := F32.sat (F32.add a.m2 b.m2)
    let m2 := F32.sat (F32.add sm.1 (max0 pr.1))
    { mean := mean, m2 := m2.1, n := a.n + b.n, hit := a.hit || b.hit || dl.2 || sq.2 || pr.2 || sm.2 || m2.2 }
  else { mean := mean, m2 := f32Zero, n := a.n + b.n, hit := a.hit || b.hit || dl.2 }

def mergeLevel (layer : Bool) : List Lane → List Lane
  | a :: b :: l => Lane.merge layer a b :: mergeLevel layer l
  | l => l

def mergeLanes (layer : Bool) : Nat → List Lane → Lane
  | 0, l => l.headD .zero
  | n + 1, l => mergeLanes layer n (mergeLevel layer l)

/-- The normalised row, and whether any sat saturated. -/
def normRow (f : FnMode) (layer : Bool) (eps : F32) (ds : Nat) (row : List F32) : List F32 × Bool :=
  let slices := runs 128 ds row
  let lanes := (List.range 128).map (fun l =>
    (slices.map (fun x => x.getD l f32Zero)).foldl (if layer then Lane.layer else Lane.rms) .zero)
  let a := mergeLanes layer 7 lanes
  if layer then
    let var := max0 (F32.div a.m2 (F32.ofNat (128 * ds)))
    let r := f.rsqrt (F32.add var eps)
    let v := row.map (fun x =>
      let q := F32.sat (F32.sub x a.mean)
      (F32.ofBf16 (F32.toBf16 (F32.mul q.1 r)), q.2))
    (v.map (·.1), a.hit || v.any (·.2))
  else
    let r := f.rsqrt (F32.add a.mean eps)
    (row.map (fun x => F32.ofBf16 (F32.toBf16 (F32.mul x r))), a.hit)

/-! ### Router bank values (R67) -/

/-- A column of a weight block. -/
def column (b : BankHdr) (img : List Byte) (x : Sect) (rows blk c : Nat) : List F32 :=
  elemsOf Fmt.bf16 2 rows (slice img (sectOff b x + blk * (rows * 128) + c * rows * 2) (rows * 2))

/-- A column's bias. -/
def biasAt (b : BankHdr) (img : List Byte) (x : Sect) (blk c : Nat) : F32 :=
  BitVec.ofNat 32 (leNat (slice img (sectOff b x + blk * 256 + 4 * c) 4))

/-- A time or position frequency. -/
def freqAt (img : List Byte) (pos : Bool) (j : Nat) : F32 :=
  BitVec.ofNat 32 (leNat (slice img (64 + 128 * b2n pos + 4 * j) 4))

/-! ### Grate and trivet (R77) -/

/-- A dot product over a pairing tree of n levels. -/
def dotTree (n : Nat) (z w : List F32) : F32 := treeSum n (List.zipWith F32.mul z w)

/-- Column sums accumulated in slice order. -/
def gratedot (z : List (List F32)) (col : Nat → List F32) : F32 :=
  match z with
  | [] => f32Zero
  | z0 :: zs => (zs.foldl (fun (a : F32 × Nat) x => (F32.add a.1 (dotTree 7 x (col a.2)), a.2 + 1)) (dotTree 7 z0 (col 0), 1)).1

/-! ### Conditioning codes (R81, R82) -/

/-- The timestep code. -/
def timeCode (f : FnMode) (b : BankHdr) (img : List Byte) : List F32 :=
  let u := F32.mul (BankHdr.sigmaScale b) (if BankHdr.timeArg b then BankHdr.sigma b else f.log (BankHdr.sigma b))
  let a := (List.range 32).map (fun j => F32.mul u (freqAt img false j))
  a.map (fun x => F32.ofBf16 (f.trigBf16 false x)) ++ a.map (fun x => F32.ofBf16 (f.trigBf16 true x))

/-- The position code of Table 3-4. -/
def posCode (f : FnMode) (img : List Byte) (at_ : Nat × Nat × Nat) : List F32 :=
  let part (isCos : Bool) (v j0 n : Nat) : List F32 :=
    (List.range n).map (fun j => F32.ofBf16 (f.trigBf16 isCos (F32.mul (F32.ofNat v) (freqAt img true (j0 + j)))))
  part false at_.1 0 12 ++ part true at_.1 0 12 ++ part false at_.2.1 12 10 ++ part true at_.2.1 12 10 ++
    part false at_.2.2 22 10 ++ part true at_.2.2 22 10

/-- tt_e for every expert (R78), once per step. -/
def timeTerms (f : FnMode) (b : BankHdr) (img : List Byte) : List F32 :=
  let code := timeCode f b img
  (List.range (BankHdr.e b)).map (fun x =>
    let p := BankHdr.place b x
    dotTree 6 code (column b img .timeMat 64 p.1 p.2))

/-! ### Logits (R78, R80, R107) -/

/-- The input slices of the logit layer: the normalised row, or the hidden units. -/
def logitInput (f : FnMode) (b : BankHdr) (img : List Byte) (z : List F32) : List (List F32) :=
  let zs := runs 128 (BankHdr.dSlices b) z
  let h := BankHdr.h b
  if h = 0 then zs
  else
    let pre (c : Nat) : F32 :=
      F32.add (gratedot zs (fun s => column b img .hiddenW 128 (s * BankHdr.nbH b + c / 64) (c % 64)))
        (biasAt b img .hiddenBias (c / 64) (c % 64))
    let u := (List.range h).map (fun j => F32.ofBf16 (f.fused (BankHdr.hidAct b) (pre j) (pre (h + j))))
    runs 128 (BankHdr.k1 b) (u ++ List.replicate (128 * BankHdr.k1 b - h) f32Zero)

/-- Group logits. -/
def groupLogits (b : BankHdr) (img : List Byte) (z : List (List F32)) : List F32 :=
  (List.range (BankHdr.g b)).map (fun q =>
    F32.add (gratedot z (fun s => column b img .groupW 128 s q)) (biasAt b img .groupBias 0 q))

/-- The logit of an expert, with the step's time term and the unit's position code. -/
def expertLogit (b : BankHdr) (img : List Byte) (z : List (List F32)) (tt : List F32) (pos : Option (List F32)) (x : Nat) : F32 :=
  let p := BankHdr.place b x
  let acc := gratedot z (fun s => column b img .expertW 128 (s * BankHdr.nbE b + p.1) p.2)
  let b0 := biasAt b img .expertBias p.1 p.2
  let bt := match tt[x]? with | some v => F32.add b0 v | none => b0
  let l := F32.add acc bt
  match pos with
  | some code => F32.add l (dotTree 6 code (column b img .posMat 64 p.1 p.2))
  | none => l

/-! ### Selection (R112) -/

/-- The candidate with the largest key, the lower ID where keys are equal. -/
def bestOf (l : List (Nat × F32)) : Option (Nat × F32) :=
  l.foldl (fun m x => match m with
    | none => some x
    | some a => if F32.gt x.2 a.2 then some x else some a) none

/-- The n largest in order, of candidates in ascending ID. -/
def topK : Nat → List (Nat × F32) → List Nat
  | 0, _ => []
  | n + 1, l =>
    match bestOf l with
    | none => []
    | some a => a.1 :: topK n (l.filter (fun x => x.1 != a.1))

/-! ### Gate modes (R103, Table 4-11) -/

/-- A function-unit result that overflowed (R94). -/
def FnMode.capped (f : FnMode) (v : F32) : F32 := if f.ov = .largest then (F32.sat v).1 else v

/-- The score function of RZ_SCORE_FN. -/
def State.scoreFn (s : State) (f : FnMode) (x : F32) : F32 :=
  let fn := s.obj Obj.RZ_SCORE_FN
  if fn = 3 then f.sigmoid x else f.capped ((ftTable (s.slotImage fn)).eval x)

/-- bias_e of gate mode 3. -/
def State.biasOf (s : State) (x : Nat) : F32 := s.vecElem (12 + x / 1024) (x % 1024)

/-- The values of the candidates that weights are formed from: p, x or s of Table 4-11, for groups and for experts. -/
def State.gateValues (s : State) (f : FnMode) (mode : Nat) (gl : List F32) (xs : List F32) : List F32 × List F32 :=
  match mode with
  | 0 =>
    let pack (g e : Bool) : List (F32 × Bool) := gl.map (fun v => (v, g)) ++ xs.map (fun v => (v, e))
    ((softMax f (pack true false)).take gl.length, (softMax f (pack false true)).drop gl.length)
  | 1 => ([], xs)
  | _ => (gl.map (s.scoreFn f), xs.map (s.scoreFn f))

/-- Selection keys: mode 3 adds the bias; an incumbent's key gains μ (R265). -/
def State.gateKeys (s : State) (mode : Nat) (inc : List Nat) (vals : List (Nat × F32)) : List (Nat × F32) :=
  vals.map (fun v =>
    let k := if mode = 3 then F32.add v.2 (s.biasOf v.1) else v.2
    (v.1, if inc.contains v.1 then F32.add k (BitVec.ofNat 32 (s.obj Obj.RZ_HYST_MARGIN)) else k))

/-- The weights of the selected values in slot order; none where their sum is not greater than +0 (R105). -/
def State.gateWeights (s : State) (f : FnMode) (d : Desc) (v : List F32) : Option (List F32) :=
  match Desc.gateMode d with
  | 0 =>
    let sum := tree16 v
    some (if Desc.renorm d then v.map (fun p => f.div p sum) else v)
  | 1 => some (softMaxSlots f v)
  | _ =>
    let sum := tree16 v
    if F32.gt sum f32Zero then
      some (v.map (fun p => F32.mul (f.div p sum) (BitVec.ofNat 32 (s.obj Obj.RZ_GATE_SCALE))))
    else none

/-- A weight as stored, and whether it saturated (R104). -/
def weightCode (bf : Bool) (w : F32) : Nat × Bool :=
  let f := if bf then Fmt.bf16 else Fmt.fp16
  if F32.isInf w then ((f.encode .largest (.fin (F32.sign w) 0 0)) + f.maxBits, true)
  else f.encodeS .largest (F32.val w) false

/-! ### A unit -/

/-- What scoring makes of a unit. -/
inductive UnitRes where
  | skipped
  /-- The ash reason of Table 5-2. -/
  | bad (reason : Nat)
  /-- Experts and stored weights in slot order, saturated weights, group values; the candidates with their selection keys. -/
  | route (slots : List (Nat × Nat)) (sats : Nat) (groups : List F32) (keys : List (Nat × F32))
deriving DecidableEq, Repr

/-- The function mode of a step. -/
def State.fnMode (s : State) (d : Desc) : FnMode :=
  { vg3 := Desc.vg3 d, ov := if s.flag Obj.RZ_FN_IEEE then .infinity else .largest }

/-- Gate and selection, from the logits of the candidates (ascending ID). -/
def State.gateUnit (s : State) (t : Step) (gl : List F32) (logits : List (Nat × F32)) (inc : List Nat) (token : Nat) : UnitRes :=
  let d := t.desc
  let f := s.fnMode d
  if logits.any (fun l => F32.isNan l.2) then .bad 3
  else
    let noise (l : Nat × F32) : F32 :=
      if Desc.noiseEn d then
        noisy l.2 t.seed (Desc.stepId d).toNat token l.1 (BitVec.ofNat 32 (s.obj Obj.RZ_NOISE_SCALE))
      else l.2
    let xs := logits.map noise
    let (gv, ev) := s.gateValues f (Desc.gateMode d) gl xs
    let vals := (logits.map (·.1)).zip ev
    let keys := s.gateKeys (Desc.gateMode d) inc vals
    let sel := topK (Desc.k d) keys
    match s.gateWeights f d (sel.map (fun x => (vals.lookup x).getD f32Zero)) with
    | none => .bad 4
    | some ws =>
      let cs := ws.map (weightCode (s.flag Obj.RZ_WEIGHT_FMT))
      .route (sel.zip (cs.map (·.1))) (cs.countP (·.2)) gv keys

/-- A unit's rows are normalised and scored: its outcome, and whether its row counts in RZ_NORM_SAT. `inc`: incumbents;
`token`: the tensor token index of the token or of member 0. -/
def State.scoreRows (s : State) (t : Step) (rows : List (List F32)) (inc : List Nat) (token : Nat) : UnitRes × Bool :=
  let d := t.desc
  let f := s.fnMode d
  let b := s.bankHdr (Desc.routerBank d)
  let img := s.bankBytes (Desc.routerBank d)
  if rows.any (fun r => r.any (fun x => !F32.isFinite x)) then (.bad 2, false)
  else
    let (row, sat0) := poolRows rows
    let (z, sat1) := normRow f (Desc.layerNorm d) (BankHdr.eps b) (Desc.dSlices d) row
    let input := logitInput f b img z
    let pos := if Desc.posEn d then some (posCode f img (coordsOf b token)) else none
    let logit (x : Nat) : Nat × F32 := (x, expertLogit b img input t.timeRow pos x)
    let res :=
      if Desc.hierGroups d = 0 then s.gateUnit t [] ((List.range (Desc.e d)).map logit) inc token
      else
        let gl := groupLogits b img input
        if gl.any F32.isNan then .bad 5
        else
          let chosen := topK (Desc.hierTopg d) ((List.range gl.length).zip gl)
          let m := Desc.e d / Desc.hierGroups d
          let experts := ((List.range gl.length).filter chosen.contains).flatMap (fun q => (List.range m).map (fun i => q * m + i))
          s.gateUnit t gl (experts.map logit) inc token
    (res, sat0 || sat1)

end Sys2Proof.Machine
end

