-- ==== Sys2Proof/Machine/Damper.lean ====
section
/-!
DEFINITION. Pairs (R118 to R120): their instances, headers and paths (R165 to R167), early release (R127 to R130), the close
markers (R179, R183), and what holds of a token's entry once it is routed (R215 to R218).
-/

namespace Sys2Proof.Machine

/-! ### Instances -/

def zero64 : Nat → BitVec 64 := fun _ => 0

/-- The placement entry of an instance at the step's PLACE_EPOCH. -/
def State.instEntry (s : State) (d : Desc) (i : Nat) : PEntry :=
  Tabs.get zero64 (s.tables.place.get (Desc.placeEpoch d % 2 == 1)) i

/-- The instance of an expert for package-step index p (R120). -/
def State.instOf (s : State) (d : Desc) (x p : Nat) : Nat := x * 16 + p % s.replicas d x

/-- The null expert's instance field (Table 9-2). -/
def nullInst : Nat := 0xFFF0

/-- A slot forms a routed pair (R119): it is used and its expert is not the null expert. -/
def Position.pair (p : Position) : Bool := p.rstate != 0 && p.inst != nullInst

/-- The routed slots of an entry. -/
def State.slotsAt (s : State) (d : Desc) (e : Nat) : List Position := (List.range (Desc.k d)).map (s.pos (Desc.k d) e)

/-- The token of an entry was ROUTED: one of its slots forms a pair. A retired token's slots stay to be read. -/
def State.wasRouted (s : State) (d : Desc) (e : Nat) : Bool := (s.slotsAt d e).any Position.pair

/-- Package-step index of a local index (R19). -/
def State.stepIndex (s : State) (d : Desc) (i : Nat) : Nat := (s.shareOf d).1 + i

/-- The packed row's cells of a step. -/
def rowCells (d : Desc) : Nat := dispCells (Desc.dispFmt d) (Desc.dim d)

/-! ### Headers and pending lists -/

/-- The fields of a dispatch header that differ from packet to packet. -/
structure PairFields where
  type : Nat
  prio : Nat
  entry : Nat
  slot : Nat
  inst : Nat
  rank : Nat
  weight : Nat
  home : Nat
  off : Nat
  final : Bool
  halfEnd : Bool
  qnum : Nat
deriving DecidableEq, Repr

/-- A dispatch header of a step (Table 7-2); PAY_CRC is set as the packet leaves. -/
def State.dispHdr (s : State) (b : Bool) (d : Desc) (f : PairFields) : BitVec 256 :=
  packed 256 [(4, f.type), (2, f.prio), (1, b2n b), (1, b2n (Desc.arrival d)), (12, (Desc.batch d).toNat),
    (16, Desc.placeEpoch d), (17, s.node), (19, f.entry), (4, f.slot), (16, f.inst), (20, f.rank), (16, f.weight),
    (2, Desc.dispFmt d), (1, b2n (s.flag Obj.RZ_WEIGHT_FMT)), (10, if f.type = 4 then 0 else rowCells d),
    (8, Desc.dSlices d), (14, f.home), (12, f.off), (32, (Desc.stepId d).toNat), (1, b2n f.final), (1, b2n f.halfEnd),
    (11, f.qnum), (4, 0), (32, 0)]

/-- The path and pending list of a destination: an engine, of the own pool a queue (R165, R166). -/
def State.pathTo (s : State) (node qnum : Nat) : DispPath × Nat :=
  match s.route node with
  | .own => (.own, qnum)
  | .peer => (.peer, node)
  | .rack => (if (portFor s.fabUp node).getD (node % 2 == 1) then .fab1 else .fab0, node)
  | .far => (.gate, node)

/-- The priority class of a pair or marker by its path (Table 7-2). -/
def prioOf : DispPath → Nat
  | .gate => 3
  | _ => 2

/-- A packet of a step for an instance's queue, as it stands in its pending list. -/
def State.pendFor (s : State) (b : Bool) (t : Step) (i : Nat) (f : Nat → Nat → PairFields) : Pend :=
  let p := s.instEntry t.desc i
  let w := s.pathTo (PEntry.node p) (PEntry.qnum p)
  { path := w.1, dest := w.2, nth := t.nth, hdr := s.dispHdr b t.desc (f (prioOf w.1) (PEntry.qnum p)) }

/-- A routed pair (TYPE 0x1) with a rank. -/
def State.routedPend (s : State) (b : Bool) (t : Step) (e slot rank : Nat) (final half : Bool) : Pend :=
  let p := s.pos (Desc.k t.desc) e slot
  let l := s.entry e
  s.pendFor b t p.inst (fun prio q =>
    { type := 1, prio := prio, entry := e, slot := slot, inst := p.inst, rank := rank, weight := p.weight,
      home := LEntry.homeBlock l, off := LEntry.homeOff l, final := final, halfEnd := half, qnum := q })

/-- A header-only marker (TYPE 0x4) that closes a count (R179, R183). The manual does not say what ENTRY, SLOT, WEIGHT and the
home hold: free values. -/
def State.markerPend (s : State) (b : Bool) (t : Step) (i rank : Nat) (final half : Bool) : Pend × State :=
  let (v, s) := s.takeFree
  let (u, s) := s.takeFree
  let x := v.toNat
  (s.pendFor b t i (fun prio q =>
    { type := 4, prio := prio, entry := bits x 18 0, slot := bits x 22 19, inst := i, rank := rank, weight := bits x 38 23,
      home := bits x 52 39, off := bits u.toNat 11 0, final := final, halfEnd := half, qnum := q }), s)

/-- 1.0 in the format of RZ_WEIGHT_FMT. -/
def State.weightOne (s : State) : Nat := if s.flag Obj.RZ_WEIGHT_FMT then 0x3F80 else 0x3C00

/-- A shared pair (TYPE 0x2) of queue 2,044 + j (R182). -/
def State.sharedPend (s : State) (b : Bool) (t : Step) (e j rank : Nat) : Pend :=
  let l := s.entry e
  { path := .own, dest := 2044 + j, nth := t.nth
    hdr := s.dispHdr b t.desc
      { type := 2, prio := 1, entry := e, slot := j, inst := 0, rank := rank, weight := s.weightOne,
        home := LEntry.homeBlock l, off := LEntry.homeOff l, final := false, halfEnd := false, qnum := 2044 + j } }

/-- Packets join their pending lists. -/
def State.joinPend (s : State) (ps : List Pend) : State := { s with bellows := { s.bellows with pend := s.bellows.pend ++ ps } }

/-- Routed tokens of the share with a lower local index than an entry's (R182). -/
def State.sharedRank (s : State) (d : Desc) (b : Bool) (e : Nat) : Nat :=
  (List.range (e - entryOf b 0)).countP (fun i => s.wasRouted d (entryOf b i))

/-- A token's shared pairs. -/
def State.sharedPends (s : State) (b : Bool) (t : Step) (e : Nat) : List Pend :=
  (List.range (Desc.shared t.desc)).map (fun j => s.sharedPend b t e j (s.sharedRank t.desc b e))

/-! ### Early release (R127 to R130) -/

/-- Early dispatch is on. -/
def State.earlyOn (s : State) : Bool := s.flag Obj.RZ_EARLY_DISPATCH && !s.flag Obj.RZ_TIMING_REPEAT

/-- The whole shares of the first n members, whose counts are not known (R127). -/
def sharesBefore (d : Desc) (members : List Nat) (n : Nat) : Nat :=
  ((members.take n).map (fun m => if m % 2 = 0 then Desc.h d else Desc.n d - Desc.h d)).sum

/-- Released pairs of a step that await their rank (R128). -/
def State.heldOf (s : State) (k : Key) : Nat :=
  s.bellows.ctxs.countP (fun c => (match c.st with | .held => true | _ => false) && decide (DHdr.key c.hdr = k))

/-- A certain pair of a member that is not the group's first is released: it is held until the walk gives its rank. Beyond
RZ_EARLY_HOLD, or with no context free, it is not released. -/
def State.holdPair (s : State) (b : Bool) (t : Step) (e slot : Nat) : State :=
  if s.obj Obj.RZ_EARLY_HOLD ≤ s.heldOf (Step.key t) then s
  else
    match s.freeDispCtx with
    | none => s
    | some n =>
      let p := s.routedPend b t e slot 0 false false
      let s := s.setDispCtx { num := n, path := p.path, dest := p.dest, hdr := p.hdr, replays := 0, st := .held }
      (s.setRstate (Desc.k t.desc) e slot 2 0).count Obj.RZ_EARLY_RELEASED 1

/-- A certain pair of the group's first member: its rank is its local rank (R128). -/
def State.releaseFirst (s : State) (b : Bool) (t : Step) (e slot lr : Nat) : State :=
  let s := s.joinPend [s.routedPend b t e slot lr false false]
  (s.setRstate (Desc.k t.desc) e slot 2 0).count Obj.RZ_EARLY_RELEASED 1

/-- The bound of a pair at a primary that is not the group's first member, from its local rank (R127). -/
def primaryBound (t : Step) (lr : Nat) : Nat := lr + sharesBefore t.desc t.members t.pos

/-- The bound of a secondary's pair, from this primary's live count and its tokens scored so far (R127, R129). -/
def State.secondaryBound (s : State) (b : Bool) (t : Step) (i lr : Nat) : Nat :=
  lr + sharesBefore t.desc t.members t.pos + countOf (s.tables.hist.get b) i +
    (Desc.h t.desc - t.units * Desc.w t.desc)

/-- What early dispatch does with a token's new pairs, each (slot, instance, local rank): release, or ask the primary. -/
def State.releasePairs (s : State) (b : Bool) (t : Step) (e : Nat) (pairs : List (Nat × Nat × Nat)) : State :=
  if !s.earlyOn then s
  else
    let d := t.desc
    let low := pairs.filter (fun p => decide (p.2.2 < s.capMin d p.2.1))
    if t.pos = 0 then low.foldl (fun s p => s.releaseFirst b t e p.1 p.2.2) s
    else if s.primary then
      (low.filter (fun p => decide (primaryBound t p.2.2 < s.capMin d p.2.1))).foldl (fun s p => s.holdPair b t e p.1) s
    else if low.isEmpty then s
    else
      s.toPeer (.certaintyRequest (Desc.stepId d) (BitVec.ofNat 19 e)
        (low.map (fun p => (BitVec.ofNat 4 p.1, BitVec.ofNat 16 p.2.1, p.2.2))))

/-! ### The rows of the certainty test -/

/-- CERTAINTY_REQUEST: the primary answers with its counts as they stand (R129). -/
def execCertaintyRequest (stepId : BitVec 32) (entry : BitVec 19) (pairs : List (BitVec 4 × BitVec 16 × Nat)) (s : State) : Res :=
  .next (
    if !s.primary then s
    else
      match s.liveBanks.find? (fun b => match s.bankStep b with
          | some t => !t.cancelled && Desc.stepId t.desc == stepId
          | none => false) with
      | none => s
      | some b =>
        match s.bankStep b with
        | none => s
        | some t =>
          let sure (p : BitVec 4 × BitVec 16 × Nat) : Bool :=
            decide (s.secondaryBound b t p.2.1.toNat p.2.2 < s.capMin t.desc p.2.1.toNat)
          s.toPeer (.certaintyAnswer stepId entry (pairs.map (fun p => (p.1, sure p)))))

/-- CERTAINTY_ANSWER: the secondary releases the certain pairs that the walk has not reached. -/
def execCertaintyAnswer (stepId : BitVec 32) (entry : BitVec 19) (flags : List (BitVec 4 × Bool)) (s : State) : Res :=
  let e := entry.toNat
  let b := entryBank e
  .next (
    match s.bankStep b with
    | none => s
    | some t =>
      if t.cancelled || t.walked || Desc.stepId t.desc != stepId || s.primary || !s.earlyOn then s
      else
        (flags.filter (·.2)).foldl (fun s f =>
          let p := s.pos (Desc.k t.desc) e f.1.toNat
          if decide (f.1.toNat < Desc.k t.desc) && p.rstate == 1 && Position.pair p then s.holdPair b t e f.1.toNat else s) s)

/-! ### Rows gathered -/

/-- The input row of an entry's token. -/
def State.inputRow (s : State) (d : Desc) (b : Bool) (e : Nat) : Nat := Desc.firstToken d + s.stepIndex d (e - entryOf b 0)

/-- The gather of a token's row is issued: what of it lies on another package by LOADs (R16, R164). -/
def State.gather (s : State) (d : Desc) (b : Bool) (e : Nat) : State :=
  State.fetch { s with bellows := { s.bellows with gathers := s.bellows.gathers ++ [e] } } (.gather e)
    (s.farRanges (Desc.inTensor d) [s.inputRow d b e])

/-- ROW_GATHER_COMPLETE: a token's row is packed into the pack store, and its shared packets are issued (R164, R182); in
two-half mode those leave with its routed pairs (R183). The row's LOADs have all been answered. -/
def execRowGatherComplete (entry : BitVec 19) (s : State) : Res :=
  let e := entry.toNat
  let b := entryBank e
  .next (
    match s.bankStep b with
    | none => s
    | some t =>
      if !s.bellows.gathers.contains e || t.cancelled || !s.fetched (.gather e) then s
      else
        let d := t.desc
        let fmt := TRec.fmt (s.tensor (Desc.inTensor d))
        let arrs := s.readRow (s.fetchedBytes (.gather e)) (Desc.inTensor d) (s.inputRow d b e)
        let (row, c) := s.encodeRow (dispFmtCode (Desc.dispFmt d)) (s.decodeRow fmt (Desc.dim d) arrs).1
        let bs := zeroFill 64 row.flatten
        let s := ((s.dropFetch (.gather e)).writeMem (s.packAddr e (rowCells d)) bs).countEnc c
        let s := s.setEntry e (LEntry.setFrag (s.entry e) (bits (crc32 bs).toNat 15 0))
        let s : State := { s with bellows := { s.bellows with gathers := s.bellows.gathers.filter (· != e) } }
        let s := if s.flag Obj.RZ_TWO_HALF then s else s.joinPend (s.sharedPends b t e)
        s.dispatchProgress (Step.key t))

end Sys2Proof.Machine
end

