-- ==== Sys2Proof/Machine/Dictionary.lean ====
section
/-!
DEFINITION. The object dictionary's own commands: reads, domain transfers (R293, R301, R302, R305 to R308), the unlock and
the alert acknowledgement (R296, R314), and MCTP control (R302).
-/

namespace Sys2Proof.Machine

/-! ### Reads -/

/-- The status of a scalar read (R301). -/
def readStatus (r : OdReq) : Nat :=
  match odRow (odKey r) with
  | none => if badRequest r false then St.badRequest else St.noObject
  | some row =>
    firstFail [
      (badRequest r false, St.badRequest),
      (row.acc == .wo || !row.ty.isScalar, St.access),
      (badLength r row.ty.size false, St.length)]

/-- What a read changes: RZ_POOL_MIN_FREE is reset to the current count (Table 7-7). -/
def State.afterRead (s : State) (key : Nat) : State :=
  if key = Obj.RZ_POOL_MIN_FREE then s.setObj key s.poolFree else s

/-- A read request: the object's value, or a status. -/
def State.objectRead (s : State) (r : OdReq) : State :=
  s.onRequest r true (fun s =>
    let s := s.setPort r s.dict.oaData
    let st := readStatus r
    if st = St.ok then
      let key := odKey r
      (s.afterRead key).answer r 0x01 st (leBytes (odWidth key / 8) (s.readObj key))
    else s.answer r 0x01 st [])

/-! ### Segments -/

/-- The most a segment may carry: 1,024 B over MCTP (Table 12-7), 32,768 B through the mailbox, which carries at least 1
(Table 12-9). -/
def segLenOk (r : OdReq) : Bool :=
  if r.path = .mctp then decide (r.len.toNat ≤ 1024) else decide (1 ≤ r.len.toNat) && decide (r.len.toNat ≤ 32768)

/-- The end of a segment access: its answer on its path (R302, R306). -/
def State.segAnswer (s : State) (r : OdReq) (op st : Nat) (data : List Byte) : State :=
  let s := if st = St.ok then s else s.count Obj.RZ_OD_REFUSED 1
  if r.path = .mctp then s.respond r.tag op st data
  else
    let d := { s.dict with
      mbAddr := BitVec.ofNat 64 (r.rsv.toNat * 2 ^ 24 + odKey r), mbOffset := BitVec.ofNat 64 r.offset.toNat,
      mbLen := BitVec.ofNat 64 r.len.toNat, mbStatus := BitVec.ofNat 8 st
      mbUntil := s.core + 6 * (ceilDiv r.len.toNat 64 + 256) }
    let buf := if op = 0x03 then data else r.data
    { s with dict := if buf.isEmpty then d else { d with mbBuf := d.mbBuf.write 0 buf } }

/-- The status of a segment read (R301, R307). -/
def segReadStatus (s : State) (r : OdReq) : Nat :=
  match odRow (odKey r) with
  | none => if badRequest r true then St.badRequest else St.noObject
  | some row =>
    firstFail [
      (badRequest r true, St.badRequest),
      (row.ty.isScalar || row.acc == .wo, St.access),
      (!segLenOk r || decide (s.domainSize row < r.offset.toNat + r.len.toNat), St.length)]

/-- A segment read. -/
def State.segRead (s : State) (r : OdReq) : State :=
  s.onRequest r false (fun s =>
    let st := segReadStatus s r
    let data := if st = St.ok then s.domainRead (odKey r) r.offset.toNat r.len.toNat else []
    s.segAnswer r 0x03 st data)

/-- SEG_READ (R307). -/
def execSegRead (r : OdReq) (s : State) : Res := .next (s.segRead r)

/-- The open transfer, where a request belongs to it. -/
def State.ownXfer (s : State) (r : OdReq) : Option Transfer :=
  match s.dict.xfer with
  | some x => if x.path = r.path ∧ x.key = odKey r then some x else none
  | none => none

/-- A later segment that does not start where the previous one ended. -/
def State.wrongOffset (s : State) (r : OdReq) : Bool :=
  r.offset != 0 &&
  match s.ownXfer r with
  | some x => x.len != r.offset.toNat
  | none => true

/-- The bytes staged so far, this segment's last. -/
def State.stagedWith (s : State) (r : OdReq) : List Byte :=
  s.readMem (s.obj Obj.RZ_DOMAIN_STAGE) r.offset.toNat ++ r.data

/-- The total at the end is the domain's size; for RZ_PERSIST_EDIT the set's BYTES (R308). -/
def State.totalOk (s : State) (r : OdReq) (row : OdRow) : Bool :=
  let total := r.offset.toNat + r.len.toNat
  if row.key = Obj.RZ_PERSIST_EDIT then
    let h : BitVec 256 := ofBytes 256 ((s.stagedWith r).take 32)
    decide (32 ≤ total) && fld h 191 160 == total
  else total == s.domainSize row

/-- A supply of input class 0x02 is held (R38). -/
def State.rbankHeld (s : State) : Bool := s.seq.held.rbank.isSome || s.seq.held.wdigest.isSome

/-- The status of a segment of a domain write (R301, R308), but for the whole value's check. -/
def segWriteStatus (s : State) (r : OdReq) (ends : Bool) : Nat :=
  match odRow (odKey r) with
  | none => if badRequest r true then St.badRequest else St.noObject
  | some row =>
    let key := odKey r
    firstFail [
      (badRequest r true, St.badRequest),
      (row.ty.isScalar || row.acc == .ro || row.acc == .const, St.access),
      (!segLenOk r || decide (r.data.length ≠ r.len.toNat) || decide (s.domainSize row < r.offset.toNat + r.len.toNat) ||
        s.wrongOffset r || (ends && !s.totalOk r row), St.length),
      (s.log.replay && replayInputs.contains key, St.replay),
      (odExpert key && !s.unlocked r.path, St.locked),
      (!s.accepts row.acc key, St.state),
      ((row.acc == .rws && s.seq.checking) ||
        (match s.dict.xfer with | some x => x.path != r.path | none => false) ||
        (key == Obj.RZ_EXPERT_WDIGEST && s.mode == .running && s.rbankHeld), St.busy),
      (s.obj Obj.RZ_DOMAIN_STAGE == 0, St.noStage)]

/-- A segment reaches a transfer that was abandoned (R301, R308). -/
def State.reachesAbandoned (s : State) (r : OdReq) : Bool :=
  r.offset != 0 && s.dict.abandoned.any (fun x => x.path == r.path && x.key == odKey r)

/-- An object's abandoned transfer over a path has been answered for, or replaced by a new one. -/
def Dict.forget (d : Dict) (p : Path) (key : Nat) : Dict :=
  { d with abandoned := d.abandoned.filter (fun x => !(x.path == p && x.key == key)) }

/-- The answer to it: TIMEOUT; an END of an RWS domain in a state that does not take its write has STATE (Table 12-10). -/
def State.abandonedStatus (s : State) (r : OdReq) (ends : Bool) : Nat :=
  match odRow (odKey r) with
  | some row => if ends ∧ row.acc = .rws ∧ s.accepts row.acc row.key = false then St.state else St.timeout
  | none => St.timeout

/-- A segment of a domain write is taken: staged, and at the end the whole value applied or refused (R308). -/
def State.stageSegment (s : State) (r : OdReq) (op : Nat) (ends : Bool) : State :=
  let bytes := s.stagedWith r
  let s := s.writeMem (s.obj Obj.RZ_DOMAIN_STAGE + r.offset.toNat) r.data
  if ends then
    let (s, ok) := State.takeDomain { s with dict := { s.dict.forget r.path (odKey r) with xfer := none } } (odKey r) bytes
    s.segAnswer r op (if ok then St.ok else St.value) []
  else
    let x : Transfer := { path := r.path, key := odKey r, len := r.offset.toNat + r.len.toNat }
    State.segAnswer { s with dict := { s.dict.forget r.path (odKey r) with xfer := some x } } r op St.ok []

/-- What a refused segment makes of the open transfer: one at another offset abandons it; an END whose total does not match
ends it (R308). -/
def State.afterLength (s : State) (r : OdReq) (ends : Bool) : State :=
  if (s.ownXfer r).isNone then s
  else if s.wrongOffset r then s.abandonXfer
  else if ends then { s with dict := { s.dict with xfer := none } }
  else s

/-- A segment of a domain write (R301, R308). -/
def State.segWrite (s : State) (r : OdReq) (op : Nat) (ends : Bool) : State :=
  s.onRequest r false (fun s =>
    if s.reachesAbandoned r then
      State.segAnswer { s with dict := s.dict.forget r.path (odKey r) } r op (s.abandonedStatus r ends) []
    else
      let st := segWriteStatus s r ends
      if st = St.ok then s.stageSegment r op ends
      else (if st = St.length then s.afterLength r ends else s).segAnswer r op st [])

/-- SEG_WRITE. -/
def execSegWrite (r : OdReq) (s : State) : Res := .next (s.segWrite r 0x04 false)

/-- SEG_WRITE_END. -/
def execSegWriteEnd (r : OdReq) (s : State) : Res := .next (s.segWrite r 0x05 true)

/-- DOMAIN_TRANSFER_TIMEOUT (R308): the open transfer is abandoned. -/
def execDomainTransferTimeout (s : State) : Res :=
  .next (if s.dict.xfer.isSome then s.abandonXfer else s)

/-- EXPERT_WDIGEST_WRITE (R287): the digest's domain write, whole in one segment that ends its transfer. -/
def execExpertWdigestWrite (r : OdReq) (s : State) : Res :=
  .next (
    if odKey r = Obj.RZ_EXPERT_WDIGEST then s.segWrite r 0x05 true else s)

/-! ### Unlock and alerts -/

/-- The unlock value (R296). -/
def unlockValue : Nat := 0x4F50454E

/-- A write of RZ_EXPERT_UNLOCK over a path (R296). -/
def State.unlock (path : Path) (v : Nat) (s : State) : State :=
  let open_ := v == unlockValue
  let s := if v = unlockValue ∨ v = 0 then s else s.count Obj.RZ_UNLOCK_FAIL 1
  { s with dict := if path = .mctp then { s.dict with unlockMctp := open_ } else { s.dict with unlockBand := open_ } }

/-- EXPERT_UNLOCK. -/
def execExpertUnlock (path : Path) (tag : ReqTag) (v : BitVec 32) (s : State) : Res :=
  .next (odWrite s (scalarReq path tag Obj.RZ_EXPERT_UNLOCK v.toNat) .plain (State.unlock path v.toNat))

/-- Ones clear the matching causes (R314). -/
def State.ackAlerts (v : Nat) (s : State) : State :=
  let c := s.obj Obj.RZ_ALERT_CAUSE
  s.setObj Obj.RZ_ALERT_CAUSE (c - (c &&& v))

/-- ALERT_ACK. -/
def execAlertAck (path : Path) (tag : ReqTag) (v : BitVec 32) (s : State) : Res :=
  .next (odWrite s (scalarReq path tag Obj.RZ_ALERT_ACK v.toNat) .plain (State.ackAlerts v.toNat))

/-! ### MCTP control (R302) -/

/-- A control response as DSP0236 lays it out (log entry 10, PRESUMED): message type 0, instance, command, completion code,
data. -/
def State.control (s : State) (inst : ReqTag) (cmd cc : Nat) (data : List Byte) : State :=
  if s.mode = .off then s
  else s.emit (.mctp (mctpPackets inst.mtag ([0x00, inst.tag &&& 0x1F, BitVec.ofNat 8 cmd, BitVec.ofNat 8 cc] ++ data)))

/-- Completion codes of DSP0236. -/
abbrev ccInvalidData : Nat := 0x02
abbrev ccUnsupported : Nat := 0x05
abbrev ccNoType : Nat := 0x80

/-- SET_ENDPOINT_ID: operations 0 and 1 assign an ID from 8 to 254. -/
def execSetEndpointId (inst : ReqTag) (op eid : Byte) (s : State) : Res :=
  .next (
    if s.mode = .off then s
    else if op.toNat % 4 ≤ 1 ∧ 8 ≤ eid.toNat ∧ eid.toNat ≤ 254 then
      (s.setObj Obj.RZ_MCTP_EID eid.toNat).control inst 0x01 0 [0, eid, 0]
    else s.control inst 0x01 ccInvalidData [])

/-- GET_ENDPOINT_ID. -/
def execGetEndpointId (inst : ReqTag) (s : State) : Res :=
  .next (s.control inst 0x02 0 [BitVec.ofNat 8 (s.obj Obj.RZ_MCTP_EID), 0, 0])

/-- GET_ENDPOINT_UUID. -/
def execGetEndpointUuid (inst : ReqTag) (s : State) : Res :=
  .next (s.control inst 0x03 0 ((List.range 16).map Config.endpointUuid))

/-- GET_MCTP_VERSION_SUPPORT: version 1.3 of the base protocol and of control messages. -/
def execGetMctpVersionSupport (inst : ReqTag) (msgType : Byte) (s : State) : Res :=
  .next (
    if msgType = 0xFF ∨ msgType = 0x00 then s.control inst 0x04 0 [1, 0xF1, 0xF3, 0xFF, 0x00]
    else s.control inst 0x04 ccNoType [])

/-- GET_MESSAGE_TYPE_SUPPORT: the vendor-defined IANA type. -/
def execGetMessageTypeSupport (inst : ReqTag) (s : State) : Res := .next (s.control inst 0x05 0 [1, 0x7F])

/-- GET_VENDOR_DEFINED_MESSAGE_SUPPORT: one set, under the vendor's enterprise number; its version is a free value. -/
def execGetVendorDefinedMessageSupport (inst : ReqTag) (selector : Byte) (s : State) : Res :=
  .next (
    if selector = 0 then
      let (v, s) := s.takeFree
      s.control inst 0x06 0 ([0xFF, 0x01] ++ beBytes 4 (Config.partConst Obj.RZ_VENDOR_IANA) ++ beBytes 2 v.toNat)
    else s.control inst 0x06 ccInvalidData [])

/-- ERROR_UNSUPPORTED_CMD: any other control command. -/
def execErrorUnsupportedCmd (inst : ReqTag) (cmd : Byte) (s : State) : Res := .next (s.control inst cmd.toNat ccUnsupported [])

/-- DYNAMIC_ADDRESS_ASSIGNED. -/
def execDynamicAddressAssigned (addr : Byte) (s : State) : Res :=
  .next (if s.mode = .off then s else s.setObj Obj.RZ_I3C_DYN_ADDR addr.toNat)

end Sys2Proof.Machine
end

