-- ==== Sys2Proof/Machine/JobRows.lean ====
section
/-!
DEFINITION. The rows of layout jobs (R153 to R157, R160): the descriptor's fields, what each row's job writes, what LOADs it
needs, and a job that an uncorrectable error ended.
-/

namespace Sys2Proof.Machine

/-! ### Job descriptors (Table 6-5) -/

abbrev LJob := BitVec 512

namespace LJob
def op (j : LJob) : Nat := fld j 511 508
def smode (j : LJob) : Nat := fld j 507 506
def wrap (j : LJob) : Bool := bit j 505
def srcT (j : LJob) : Nat := fld j 503 496
def dstT (j : LJob) : Nat := fld j 495 488
def rows (j : LJob) : Nat := fld j 487 468
def cols (j : LJob) : Nat := fld j 467 448
def srcFirst (j : LJob) : Nat := fld j 447 421
def dstFirst (j : LJob) : Nat := fld j 420 394
def idxRows (j : LJob) : Nat := fld j 393 374
def tes (j : LJob) : Nat := fld j 373 372
def idxAddr (j : LJob) : Nat := fld j 367 320
def srcAddr (j : LJob) : Nat := fld j 319 272
def dstAddr (j : LJob) : Nat := fld j 271 224
def srcStride (j : LJob) : Nat := fld j 223 200
def dstStride (j : LJob) : Nat := fld j 199 176
def fill (j : LJob) : F32 := BitVec.ofNat 32 (fld j 175 144)
def reservedOk (j : LJob) : Bool := !bit j 504 && fld j 371 368 == 0 && fld j 111 16 == 0 && fld j 7 0 == 0
/-- es of R152. -/
def es (j : LJob) : Nat := 2 ^ tes j

def idxOps (j : LJob) : Bool := op j == 2 || op j == 3
def copies (j : LJob) : Bool := inRange 1 3 (op j)

/-- Fields that the op does not name are 0. -/
def unnamedOk (j : LJob) : Bool :=
  let t := op j == 4
  (op j == 3 || smode j == 0) && (idxOps j || !wrap j) && (copies j || srcT j == 0) && (!t || dstT j == 0) &&
  (t || cols j == 0) && (copies j || srcFirst j == 0) && (!t || dstFirst j == 0) && (idxOps j || idxRows j == 0) &&
  (t || tes j == 0) && (idxOps j || idxAddr j == 0) && (t || (srcAddr j == 0 && dstAddr j == 0)) &&
  (t || (srcStride j == 0 && dstStride j == 0)) && (op j == 2 || op j == 5 || fld j 175 144 == 0)

/-- Positions of a job: its rows or indices; of a transpose, the rows of the result. -/
def count (j : LJob) : Nat := if op j = 4 then cols j else rows j

/-- Rows of the destination that the job may touch: first, count. -/
def dstRange (j : LJob) : Nat × Nat := (dstFirst j, if op j = 3 then idxRows j else rows j)
def srcRange (j : LJob) : Nat × Nat := (srcFirst j, if op j = 2 then idxRows j else rows j)

/-- Extents of a transpose (R155): start, end. -/
def srcExtent (j : LJob) : Nat × Nat := (srcAddr j, srcAddr j + (rows j - 1) * srcStride j + cols j * es j)
def dstExtent (j : LJob) : Nat × Nat := (dstAddr j, dstAddr j + (cols j - 1) * dstStride j + rows j * es j)
end LJob

/-! ### Rows -/

/-- Bytes that a row of a tensor is given, through the remote bytes that the job has read; the remote copy follows. -/
def putRow (h t : Nat) (arrs : List (List Byte)) (x : State × Remote) : State × Remote :=
  let ws := x.1.rowWrites h t arrs
  let far := x.1.foreignWrites ws
  let told := far.flatMap (fun w => (w.2.zipIdx).map (fun b => ((w.1.node / 2 * 2, w.1.addr + b.2), b.1)))
  ((x.1.writeOwn ws).storePieces far 5 .job, told ++ x.2)

/-- A source row converted for the destination (R145, R146, R149); a ROUTE row goes as stored. -/
def State.convertRow (s : State) (rem : Remote) (j : LJob) (r : Nat) : List (List Byte) × State :=
  let src := s.tensor (LJob.srcT j)
  let arrs := s.readRow rem (LJob.srcT j) r
  if TRec.fmt src = 9 then (arrs, s)
  else
    let (v, n) := s.decodeRow (TRec.fmt src) (TRec.dim src) arrs
    let (out, c) := s.encodeRow (TRec.fmt (s.tensor (LJob.dstT j))) v
    (out, (s.countEnc c).count Obj.RZ_LAYOUT_SAT n)

/-- A row of FILL in every channel; what a ROUTE row then holds is not stated: free values. -/
def State.fillRow (s : State) (j : LJob) : List (List Byte) × State :=
  let dst := s.tensor (LJob.dstT j)
  if TRec.fmt dst = 9 then
    let (f, s) := s.takeFree
    ([(List.range (32 * TRec.rowUnits dst)).map (fun i => Config.freeByte (f.toNat * 65536 + i))], s)
  else
    let (out, c) := s.encodeRow (TRec.fmt dst) (List.replicate (TRec.dim dst) (LJob.fill j))
    (out, s.countEnc c)

/-- An index resolved (R154). -/
def LJob.resolve (j : LJob) (i : Int) : Option Nat :=
  let i := if i < 0 && LJob.wrap j then i + (LJob.idxRows j : Int) else i
  if 0 ≤ i ∧ i < (LJob.idxRows j : Int) then some i.toNat else none

def State.jobIndex (s : State) (j : LJob) (n : Nat) : Int :=
  i32 (s.readMemNat (LJob.idxAddr j + 4 * n) 4)

/-- The sum of R153, channel by channel. A sum beyond FP32 is an infinity, which an FP destination keeps under R149 and does not
count as saturated (log entry 36). -/
def State.accumulateRow (s : State) (rem : Remote) (j : LJob) (r t : Nat) : List (List Byte) × State :=
  let src := s.tensor (LJob.srcT j)
  let dst := s.tensor (LJob.dstT j)
  let (a, n) := s.decodeRow (TRec.fmt dst) (TRec.dim dst) (s.readRow rem (LJob.dstT j) t)
  let (b, m) := s.decodeRow (TRec.fmt src) (TRec.dim src) (s.readRow rem (LJob.srcT j) r)
  let (out, c) := s.encodeRow (TRec.fmt dst) (List.zipWith F32.add a b)
  (out, (s.countEnc c).count Obj.RZ_LAYOUT_SAT (n + m))

/-- The destination row of a position; none where its index is out of bounds in a SCATTER. -/
def State.jobDst (s : State) (j : LJob) (n : Nat) : Option Nat :=
  if LJob.op j = 3 then (LJob.resolve j (s.jobIndex j n)).map (LJob.dstFirst j + ·) else some (LJob.dstFirst j + n)

/-- The source row of a position, where it reads one. -/
def State.jobSrc (s : State) (j : LJob) (n : Nat) : Option Nat :=
  match LJob.op j with
  | 1 => some (LJob.srcFirst j + n)
  | 2 => (LJob.resolve j (s.jobIndex j n)).map (LJob.srcFirst j + ·)
  | 3 => (LJob.resolve j (s.jobIndex j n)).map (fun _ => LJob.srcFirst j + n)
  | _ => none

/-- What a tensor job must fetch of other packages: its source rows, and the destination rows of an accumulate (R139, R153). -/
def State.jobRanges (s : State) (j : LJob) : List (Nat × Nat × Nat) :=
  if LJob.op j = 4 then []
  else
    let ns := List.range (LJob.rows j)
    let src := s.farRanges (LJob.srcT j) ((ns.filterMap (s.jobSrc j)).eraseDups)
    let dst := if LJob.op j = 3 && LJob.smode j == 1 then s.farRanges (LJob.dstT j) ((ns.filterMap (s.jobDst j)).eraseDups) else []
    (src ++ dst).eraseDups

/-- Position n of a tensor job. -/
def jobRow (j : LJob) (x : State × Remote) (n : Nat) : State × Remote :=
  let (s, rem) := x
  match s.jobDst j n with
  | none => (s.count Obj.RZ_IDX_OOB 1, rem)
  | some t =>
    let (bs, s) := match s.jobSrc j n with
      | some r => if LJob.op j = 3 && LJob.smode j == 1 then s.accumulateRow rem j r t else s.convertRow rem j r
      | none => (if LJob.op j = 2 then s.count Obj.RZ_IDX_OOB 1 else s).fillRow j
    putRow (LJob.dstT j) t bs (s, rem)

/-- The register tile as a transpose of n rows leaves it: the rows of its last subtile, which is T × T elements (R155, R157). -/
def State.lastTile (s : State) (j : LJob) (n : Nat) : List (List Byte) :=
  let es := LJob.es j
  let inPlace := LJob.srcAddr j == LJob.dstAddr j
  let t := if inPlace && es == 4 then 16 else 32
  let last (k : Nat) : Nat := (k - 1) / t * t
  let r0 := last (LJob.rows j)
  let c0 := last n
  (List.range (min t (LJob.rows j - r0))).map (fun r =>
    s.readMem (LJob.srcAddr j + (r0 + r) * LJob.srcStride j + c0 * es) (min t (n - c0) * es))

/-- The first n rows of a transpose's result (R155, R157). -/
def State.transpose (s : State) (j : LJob) (n : Nat) : State :=
  let es := LJob.es j
  let row (c : Nat) : List Byte :=
    (List.range (LJob.rows j)).flatMap (fun r => s.readMem (LJob.srcAddr j + r * LJob.srcStride j + c * es) es)
  let rows := (List.range n).map row
  let s := { s with stores := { s.stores with tile := if n = 0 then s.stores.tile else s.lastTile j n } }
  (rows.zipIdx).foldl (fun s r => s.writeMem (LJob.dstAddr j + r.2 * LJob.dstStride j) r.1) s

/-- The first n positions of a job, in order. -/
def State.jobRows (s : State) (j : LJob) (rem : Remote) (n : Nat) : State :=
  if LJob.op j = 4 then s.transpose j n else ((List.range n).foldl (jobRow j) (s, rem)).1

/-- The destination rows of the positions from n on hold unspecified content (R160), by a free value. -/
def State.spoilRows (s : State) (j : LJob) (n f : Nat) : State :=
  let junk (a k : Nat) : List Byte := (List.range k).map (fun i => Config.freeByte (f * 2 ^ 48 + a + i))
  let ns := (List.range (LJob.count j)).drop n
  if LJob.op j = 4 then
    ns.foldl (fun s c =>
      let a := LJob.dstAddr j + c * LJob.dstStride j
      s.writeMem a (junk a (LJob.rows j * LJob.es j))) s
  else
    ((ns.filterMap (s.jobDst j)).eraseDups).foldl (fun s t =>
      let ws := ((s.rowPieces (LJob.dstT j) t).flatten).map (fun p => (p, junk p.addr p.len))
      (s.writeOwn ws).storePieces (s.foreignWrites ws) 5 .job) s

/-- The job has all it reads: its rows are written. Where an error ended it, those it had completed are, a free number of
them, and the rest of the rows it addresses hold unspecified content (R160). -/
def State.runJob (s : State) : State :=
  match s.job with
  | none => s
  | some w =>
    if !w.reading then s
    else
      let j := w.desc
      let rem := s.fetchedBytes .job
      let s := State.dropFetch { s with job := some { w with reading := false } } .job
      if w.status = 0 then s.jobRows j rem (LJob.count j)
      else
        let (f, s) := s.takeFree
        let n := f.toNat % (LJob.count j + 1)
        (s.jobRows j rem n).spoilRows j n f.toNat

end Sys2Proof.Machine
end

