-- ==== Sys2Proof/Machine/Fabric.lean ====
section
/-!
DEFINITION. The requester's side of the rack fabric (R189, R194, R195, R199 to R203): replies, unknown outcomes, retries,
re-routes, ports up and down.
-/

namespace Sys2Proof.Machine

/-! ### What an operation served -/

/-- An operation waits out RZ_BUSY_BACKOFF, to be sent as a new one (Table 8-4). -/
def State.resendLater (s : State) (o : FabOp) : State :=
  let w : FabWait := { dst := o.dst, hdr := o.hdr, body := o.body, serve := o.serve, members := o.members }
  { s with fabric := { s.fabric with resend := s.fabric.resend ++ [(s.core, w)] } }

/-- An operation is sent as a new one at once. -/
def State.resendNow (s : State) (o : FabOp) : State :=
  s.request { dst := o.dst, hdr := o.hdr, body := o.body, serve := o.serve, members := o.members }

/-- The scoring engine and key that a packet's header names (R195). -/
def packetOwner (h : BitVec 256) : Nat × Key :=
  if 5 ≤ DHdr.type h then (RHdr.dstNode h, RHdr.key h) else (DHdr.srcNode h, DHdr.key h)

/-- The position of a node in a group; 0xFFF where it has none. -/
def State.silentPos (s : State) (g node : Nat) : Nat := (s.posIn g node).getD 0xFFF

/-- The key of this engine's step that an operation serves, where it serves one. -/
def State.serveKey (s : State) (x : Serve) : Option Key :=
  let of (b : Bool) : Option Key := (s.bankStep b).map Step.key
  match x with
  | .dispatch _ k => some k
  | .flue _ k => some k
  | .home e => of (entryBank e)
  | .reduce _ k _ => some k
  | .load (.unit b _) _ => of b
  | .load (.gather e) _ => of (entryBank e)
  | .scan k _ => some k
  | .notice k => k
  | .receipt k => some k
  | .rerun k => some k
  | _ => none

/-- The timing of the step that an operation serves is broken, by a retry or by a busy reply or a replay; a collective's operation
concerns every live step (R275). -/
def State.breakServed (s : State) (x : Serve) (fab resend : Bool) : State :=
  match x with
  | .coll _ _ => s.breakLive fab resend
  | _ =>
    match s.serveKey x with
    | some k => s.breakTiming k fab resend
    | none => s

/-- An operation of a collective failed: it fails where it is still in progress, and is recorded where it has ended (R251). -/
def State.collOpFailed (s : State) (group program dst : Nat) : State :=
  let pos := s.silentPos group dst
  match s.colls.now with
  | some c => if c.group = group ∧ c.program = program then s.collFail c pos else s.collRecord group program pos
  | none => s.collRecord group program pos

/-- An operation of a step's scan failed: the scan fails, or, where the step has left its bank, the failure is counted, recorded
and entered (R251). -/
def State.scanOpFailed (s : State) (k : Key) (group dst : Nat) : State :=
  match s.bankOf k with
  | some b => s.scanFail b (s.silentPos group dst)
  | none => s.collRecord group 0 (s.silentPos group dst)

/-- A layout job one of whose remote reads or writes failed ends with the error of its status (R159). -/
def State.jobFailed (s : State) : State :=
  { s with job := s.job.map (fun j => if j.status = 0 then { j with status := 6 } else j) }

/-- The layout job runs once every LOAD of it has been answered. -/
def State.jobReady (s : State) : State := if s.fetched .job then s.runJob else s

/-- A LOAD failed: what its bytes were for fails with it. One that nothing waits for any more writes its entry alone. -/
def State.loadFailed (s : State) (use : FetchUse) (id : Nat) (ev : SootEv) : State :=
  if !s.fabric.fetches.any (fun f => f.id == id) then s.soot_ ev
  else
    match use with
    | .unit b _ => (s.dropFetch use).mark b ev
    | .gather e => (s.dropFetch use).poisonToken e ev
    | .job => ((s.soot_ ev).jobFailed.takeLoad id 0 0 []).jobReady
    | .digest =>
      let s := (s.soot_ ev).dropFetch use
      { s with digests := { s.digests with phase2 := 3 } }

/-- A step of this engine is marked for a failed notice of its own; a notice about another engine's step is only entered. -/
def State.noticeFailed (s : State) (k : Key) (ev : SootEv) : State :=
  match s.bankOf k with
  | some b => s.mark b ev
  | none => s.soot_ { ev with step := some k }

/-- What an operation served has failed: an unknown outcome (R195), or a status that only inconsistent tables give (R189).
The value is poisoned and the step marked, or its scoring engine told; the soot entry is written. -/
def State.serveFailed (s : State) (o : FabOp) (ev : SootEv) : State :=
  match o.serve with
  | .dispatch n k =>
    match s.dispCtx n with
    | some c => if DHdr.key c.hdr = k then (s.dropDispCtx n).poisonPair c.hdr ev else s.soot_ { ev with step := some k }
    | none => s.soot_ { ev with step := some k }
  | .flue n k => (s.dropSent n k).failStep (RHdr.dstNode o.body.packet.hdr) k ev
  | .home e =>
    let b := entryBank e
    match s.writeCtx e with
    | some (n, _) => (s.dropFlueCtx n).poisonToken e ev
    | none =>
      State.mark { s with flue := { s.flue with
        zeros := s.flue.zeros.filter (fun z => z.1 != e), zeroing := s.flue.zeroing.filter (· != e) } } b ev
  | .reduce n k scorer => (s.failStep scorer k ev).reduceDone n k true
  | .load use id => s.loadFailed use id ev
  | .job => (s.soot_ ev).jobFailed
  | .coll g p => (s.soot_ ev).collOpFailed g p o.dst
  | .scan k g => (s.soot_ { ev with step := some k }).scanOpFailed k g o.dst
  | .notice (some k) => s.noticeFailed k ev
  | .notice none => s.soot_ ev
  | .rerun k => s.noticeFailed k ev
  | .receipt k => s.failStep o.dst k ev
  | .forward slot =>
    let (scorer, key) := packetOwner o.body.packet.hdr
    (s.failStep scorer key ev).landDone slot

/-- Fences whose set the operation belongs to complete with a failure flag (R203). -/
def State.failFences (s : State) (o : FabOp) : State :=
  { s with fabric := { s.fabric with fences := s.fabric.fences.map (fun f => if f.has o then { f with failed := true } else f) } }

/-- An outcome is declared unknown (R195): counted, its value poisoned, the fences that wait for it failed. -/
def State.declareUnknown (s : State) (o : FabOp) : State :=
  let ev : SootEv :=
    { code := 0x51, sev := 2, action := 1, loc := b2n o.port * 1024 + o.tag, detail := FHdr.op o.hdr, node := some o.dst }
  let s := ((s.count Obj.RZ_FAB_UNKNOWN 1).failFences o).closeOp o
  (s.serveFailed o ev).checkFences

/-! ### Replies -/

/-- An operation has its effect: what it served goes on. `data`: what a LOAD's reply brings. -/
def State.serveDone (s : State) (o : FabOp) (data : List Byte) : State :=
  match o.serve with
  | .dispatch n _ => s.ackDispatch n
  | .flue n k => s.dropSent n k
  | .home e => s.finishHome e
  | .reduce n k _ => s.reduceDone n k false
  | .load .job id => (s.takeLoad id o.dst (FHdr.addr o.hdr) data).jobReady
  | .load _ id => s.takeLoad id o.dst (FHdr.addr o.hdr) data
  | .forward slot => s.landDone slot
  | _ => s

/-- A REPLAY answer: the packet again as a new operation; a landing engine relays it to the packet's sender (R168, R207,
R221). -/
def State.serveReplay (s : State) (o : FabOp) : State :=
  match o.serve with
  | .dispatch n _ => s.replayDispatch n
  | .flue n k => s.replayReturn n k
  | .forward slot => (s.relayReplay o.body.packet.hdr).landDone slot
  | x => (s.breakServed x false true).resendNow o

/-- A BUSY or RETRY_LATER answer. -/
def State.serveBusy (s : State) (o : FabOp) : State :=
  match o.serve with
  | .dispatch n _ => s.busyDispatch n
  | x => (s.breakServed x false true).resendLater o

/-- The open operation that a reply answers: equal PORT, TAG, GEN and ORIG_T (R194). -/
def State.openFor (s : State) (h : BitVec 256) : Option FabOp :=
  s.fabric.ops.find? (fun o =>
    o.port == FHdr.port h && o.tag == FHdr.tag h && o.gen == FHdr.gen h && o.origT == FHdr.replyOrigT h)

/-- A reply's own form (Table 8-3): OP, reserved fields, a status of Table 8-4, addressed to this engine. The manual does not
say what becomes of another one that carries an open operation's PORT, TAG, GEN and ORIG_T: it is an orphan too (log entry
37). -/
def State.replyFormed (s : State) (h : BitVec 256) : Bool :=
  FHdr.op h == 0x20 && fld h 172 144 == 0 && fld h 63 0 == 0 && decide (FHdr.status h ≤ 7) && FHdr.dstNode h == s.node

/-- An operation completes by a reply's status. -/
def State.completeOp (s : State) (o : FabOp) (st : Nat) (data : List Byte) : State :=
  let ev : SootEv := { code := 0x50, sev := 2, action := 1, loc := st, detail := FHdr.op o.hdr, node := some o.dst }
  match st with
  | 0 => ((s.closeOp o).serveDone o data).checkFences
  | 1 => ((s.closeOp o).serveReplay o).checkFences
  | 2 => ((s.closeOp o).serveBusy o).checkFences
  | 3 => ((s.closeOp o).serveBusy o).checkFences
  | 7 => s.declareUnknown o
  | _ => ((s.closeOp o).serveFailed o ev).checkFences

/-- A fabric reply: its operation completes, an MSTORE once every member has replied (R205); one that matches no open
operation is an orphan. -/
def State.takeReply (s : State) (h : BitVec 256) (data : List Byte) : State :=
  if !s.replyFormed h then s.count Obj.RZ_REPLY_ORPHAN 1
  else
    match s.openFor h with
    | none => s.count Obj.RZ_REPLY_ORPHAN 1
    | some o =>
      let rest := o.members.filter (· != FHdr.srcNode h)
      if FHdr.op o.hdr = 0x03 && FHdr.status h == 0 && !rest.isEmpty then s.updateOp { o with members := rest }
      else s.completeOp o (FHdr.status h) data

/-- An answer to a packet over the peer path, by the packet's header: this engine's own (R168, R221), or one that it forwarded
as the landing engine (R207). -/
def State.packetAnswer (s : State) (h : BitVec 256) (st : Nat) : State :=
  if 5 ≤ DHdr.type h then
    match s.sendCtx h with
    | some n => if st = Rs.replay then s.replayReturn n (RHdr.key h) else s.dropSent n (RHdr.key h)
    | none => s.landedAnswer h st
  else
    match s.sentCtx h with
    | some n => if st = Rs.replay then s.replayDispatch n else if st = Rs.busy then s.busyDispatch n else s.ackDispatch n
    | none => s.landedAnswer h st

/-- A return goes again in a bulk of its own (R169). -/
def State.resendFar (s : State) (p : Packet) : State :=
  s.copyFar { rack := nodeRack (RHdr.dstNode p.hdr), packet := p, ctx := none, alone := true }

/-- A replay request for a return whose bulk has been acknowledged: the packet unchanged, eight times, each counted; the ninth
rewind, and a packet that is no longer kept, a receipt with POISON (R221, log entry 24). -/
def State.replayKept (s : State) (h : BitVec 256) : State :=
  let k := RHdr.key h
  let poisoned := receiptOf { hdr := h, payload := [] } true
  match s.flue.farKept.find? (fun x => decide (x.1.hdr = h)) with
  | none => s.resendFar poisoned
  | some (p, r) =>
    let s := s.breakTiming k false true
    if r < 8 then
      let kept := s.flue.farKept.map (fun x => if x.1.hdr = h then (x.1, r + 1) else x)
      (State.count { s with flue := { s.flue with farKept := kept } } Obj.RZ_RET_REPLAY 1).resendFar p
    else
      let s := { s with flue := { s.flue with farKept := s.flue.farKept.filter (fun x => decide (x.1.hdr ≠ h)) } }
      (s.soot_ { replayLimit h (RHdr.dstNode h) with loc := RHdr.entry h, detail := RHdr.slot h, step := some k }).resendFar poisoned

/-- A replay request that the gateway brings, for a dispatch packet or a return (R168, R221). -/
def State.farReplay (s : State) (h : BitVec 256) : State :=
  if DHdr.type h < 5 then s.replayFar h
  else
    match s.sendCtx h with
    | some n => s.replayReturn n (RHdr.key h)
    | none =>
      if RHdr.expNode h = s.node then s.replayKept h else s

/-- REPLY. -/
def execReply (via : ReplyVia) (s : State) : Res :=
  .next (
    if !s.active then s
    else
      match via with
      | .fab h data => if s.fabUp false || s.fabUp true then s.takeReply h data else s
      | .peer h st => s.packetAnswer h st.toNat
      | .gate h st => if st.toNat = Rs.replay then s.farReplay h else s)

/-! ### Retries (R195) -/

/-- A retry leaves on a port; the step it serves has its timing broken (R195, R275). -/
def State.retryOn (s : State) (o : FabOp) (port : Bool) : State := (s.breakServed o.serve true false).nextAttempt o port

/-- The lost attempts of every operation that meets a test are retried on a port; where the limits forbid a retry its outcome is
unknown. No attempt of a new operation leaves before the last retry (R202). -/
def State.retryWhere (s : State) (p : FabOp → Bool) (port : Bool) : State :=
  let lost := s.fabric.ops.filter p
  let may := lost.filter (fun o => o.mayRetry s.core)
  let never := lost.filter (fun o => !o.mayRetry s.core)
  let s := if may.isEmpty then s else s.countFlows port (may.map (·.toFabWait))
  let s := may.foldl (fun s o => s.retryOn o port) s
  never.foldl (fun s o => if s.fabric.ops.contains o then s.declareUnknown o else s) s

/-- An open operation of a port's tag space. -/
def State.opAt (s : State) (port : Bool) (tag : BitVec 10) : Option FabOp :=
  s.fabric.ops.find? (fun o => o.port == port && o.tag == tag.toNat)

/-- Interval of the timed attempts, 200 µs. -/
def retryCycles : Nat := 240000

/-- FABRIC_RETRY_TIMER: the next timed attempt leaves on its destination's port. -/
def execFabricRetryTimer (port : Bool) (tag : BitVec 10) (s : State) : Res :=
  .next (
    match s.opAt port tag with
    | none => s
    | some o =>
      if s.core < o.lastAt + retryCycles || !o.mayRetry s.core then s
      else
        match portFor s.fabUp o.dst with
        | some p => (s.countFlows p [o.toFabWait]).retryOn o p
        | none => s)

/-- FABRIC_UNKNOWN: 1.8 ms after attempt 0, or 200 µs after attempt 8. -/
def execFabricUnknown (port : Bool) (tag : BitVec 10) (s : State) : Res :=
  .next (
    match s.opAt port tag with
    | none => s
    | some o =>
      if o.firstAt + 2160000 ≤ s.core || (o.attempt == 8 && decide (o.lastAt + retryCycles ≤ s.core)) then s.declareUnknown o
      else s)

/-! ### Re-routes (R201, R202) -/

/-- The latest attempt went on a port with an epoch. -/
def FabOp.onEpoch (o : FabOp) (port : Bool) (epoch : Nat) : Bool := o.lastPort == port && o.epoch == epoch

/-- DRAIN: every operation whose latest attempt carries the drained epoch is lost. -/
def execDrain (port : Bool) (epoch : BitVec 4) (s : State) : Res :=
  .next (if s.active && s.fabUp port then s.retryWhere (fun o => o.onEpoch port epoch.toNat) port else s)

def State.setEpoch (s : State) (port : Bool) (epoch : Nat) : State :=
  { s with fabric := { s.fabric with
      ports := s.fabric.ports.set port { s.fabric.ports.get port with epoch := epoch } } }

/-- ROUTE_CHANGE: the port takes the epoch; open attempts of a reused epoch are lost at once. -/
def execRouteChange (port : Bool) (epoch : BitVec 4) (s : State) : Res :=
  let e := epoch.toNat
  .next (
    if !(s.active && s.fabUp port) then s
    else
      let reused := s.fabric.ops.any (fun o => o.onEpoch port e)
      let s := (s.count Obj.RZ_ROUTE_CHANGE 1).setEpoch port e
      if reused then
        let s := (s.count Obj.RZ_EPOCH_WRAP_LOSS 1).soot_ { code := 0x52, sev := 1, action := 0, loc := b2n port, detail := e }
        s.retryWhere (fun o => o.onEpoch port e) port
      else s)

/-! ### Ports -/

/-- A port goes down (R200): operations last sent on it go on the other port at once; with both down they run on. -/
def State.portDown (s : State) (port : Bool) : State :=
  let p := s.fabric.ports.get port
  let s := { s with fabric := { s.fabric with ports := s.fabric.ports.set port { p with up := false } } }
  if s.fabUp (!port) then s.retryWhere (fun o => o.lastPort == port) (!port) else s

/-- FAB_PORT_DOWN. -/
def execFabPortDown (port : Bool) (s : State) : Res :=
  .next (
    if !(s.active && s.fabUp port) then s
    else (s.soot_ { code := 0x55, sev := 3, action := 4, loc := b2n port }).portDown port)

/-- RZ_RCACHE_BASE holds a non-zero multiple of 4,096 (R199). -/
def State.rcacheSet (s : State) : Bool :=
  let b := s.obj Obj.RZ_RCACHE_BASE
  b != 0 && b % 4096 == 0

/-- A port comes up with the epoch that the switch gives; one whose clock was lost stays down (R201, Table 14-2). -/
def FabPort.raise (p : FabPort) (epoch : Option (BitVec 4)) : FabPort :=
  match epoch with
  | some e => if p.up || p.lost then p else { p with up := true, epoch := e.toNat }
  | none => p

/-- The first time after kindling that ports come up, the cache region is cleared and the send hold begins (R199); what is
applied later is in the cache as long as R198 needs it. -/
def State.clearCache (s : State) : State :=
  if s.fabric.rcReady then s
  else
    { s with
      mem := Tabs.clearRun s.mem (s.obj Obj.RZ_RCACHE_BASE) (32 * s.obj Obj.RZ_RCACHE_ENTRIES)
      fabric := { s.fabric with rcache := [], hold := true, rcReady := true } }

/-- FABRIC_PORTS_UP: each port that is given an epoch comes up, and GATE where the flag says so; what waits is issued
(R199, R200, R201). -/
def execFabricPortsUp (epoch0 epoch1 : Option (BitVec 4)) (gateUp : Bool) (s : State) : Res :=
  .next (
    if !s.active || !s.rcacheSet then s
    else
      let s := s.clearCache
      let f := s.fabric
      let s := { s with fabric := { f with
        ports := { b0 := f.ports.b0.raise epoch0, b1 := f.ports.b1.raise epoch1 }, gateUp := f.gateUp || gateUp } }
      s.pumpFab.pumpBulks)

/-- FABRIC_SEND_HOLD_END: 2 ms after the ports came up; what waited is issued. -/
def execFabricSendHoldEnd (s : State) : Res :=
  .next (
    if s.active && s.fabric.hold && (s.fabric.ports.b0.up || s.fabric.ports.b1.up) then
      State.pumpFab { s with fabric := { s.fabric with hold := false } }
    else s)

end Sys2Proof.Machine
end

