-- ==== Sys2Proof/Machine/Forward.lean ====
section
/-!
DEFINITION. Host inputs that the primary forwards (R38, R60, R62, R115).
-/

namespace Sys2Proof.Machine

/-- A verdict whose time ran out at the primary (R62): the secondary takes the same outcome. -/
def State.peerTimeout (s : State) (stepId : BitVec 32) (batch : BitVec 12) : State :=
  let k : Key := { stepId := stepId, batch := batch }
  s.orHold (.timeout k) [8] (fun s => s.timeoutOf k)

/-- HOST_INPUT_FORWARD: only a secondary takes one, while its peer path carries inputs; none in KINDLING, so that no mask is
held when it ends (R137). -/
def execHostInputForward (i : PeerInput) (s : State) : Res :=
  .next (
    if s.primary || !s.active then s
    else
      match i with
      | .verdict w timely => s.supplyVerdict w timely
      | .verdictTimeout stepId batch => s.peerTimeout stepId batch
      | .cancel w => s.supplyCancel w
      | .seed v => s.supplySeed v
      | .mask addr len => s.supplyMask addr.toNat len.toNat)

end Sys2Proof.Machine
end

