-- ==== Sys2Proof/Machine/Hearth.lean ====
section
/-!
DEFINITION. The rows of the hearth pool (R172 to R184): arrivals, waiting packets, sweeps, die ports, cancel notices.
-/

namespace Sys2Proof.Machine

/-! ### Arrivals -/

/-- A cancel notice is taken (R181, R231, R233); one whose key is listed already changes nothing. -/
def State.takeNotice (s : State) (n : Notice) (chk : Arrival) : State :=
  let k : Key := { stepId := n.stepId, batch := n.batch }
  if s.pool.cancelled.contains k then s
  else
    let held := (s.pool.lists.find? (fun p => p.2.any (fun x => decide (DHdr.key x.hdr = k)))).map (fun p => (p.1 / 4, p.1 % 4))
    let s := match s.keyStep k with
      | some (b, _) => s.cancelStep b
      | none => (s.cancelPool k n.place.toNat n.e.toNat).frontCancel k n.place.toNat n.group
    if held.isSome then s.pointerCheck chk held else s

/-- LEN of a packet or marker (R190): a marker has no cells, whatever its CELLS says. -/
def poolLen (h : BitVec 256) : Nat := if DHdr.type h = 4 then 0 else 64 * DHdr.cells h

/-- POOL_STORE: a packet, marker or cancel notice arrives and is answered (R168, R172 to R174). The manual does not say whether a
LEN that R190 forbids is looked up in the reply cache: it is answered ALIGN ahead of it (log entry 37). -/
def execPoolStore (via : PoolVia) (chk : Arrival) (s : State) : Res :=
  .next (
    if !s.active then s
    else
      match via with
      | .own =>
        match s.bellows.ownPath with
        | [] => s
        | p :: rest =>
          let s := { s with bellows := { s.bellows with ownPath := rest } }
          match s.poolTake p chk false with
          | none => { s with pool := { s.pool with waiting := s.pool.waiting ++ [(.own, p)] } }
          | some (st, s) => s.ownAnswer p.hdr st
      | .peer p =>
        match s.poolTake p chk true with
        | none => (s.count Obj.RZ_POOL_BUSY 1).toPeer (.packetReply p.hdr Rs.busy)
        | some (st, s) => s.toPeer (.packetReply p.hdr st)
      | .fab req p err =>
        let apply (s : State) : State × Nat × BitVec 64 :=
          match s.poolTake p chk true with
          | none => (s.count Obj.RZ_POOL_BUSY 1, Rs.busy, 0)
          | some (st, s) => (s, st, 0)
        s.accept req 0x04 (fun s =>
          if FHdr.len req = 32 + poolLen p.hdr ∧ FHdr.len req ≤ 32800 ∧ p.payload.length = poolLen p.hdr then
            s.exactlyOnce req err apply
          else s.reply req Rs.align false [] 0)
      | .fabNotice req n err =>
        s.accept req 0x04 (fun s => s.exactlyOnce req err (fun s => (s.takeNotice n chk, Rs.done, 0))))

/-- CANCEL_NOTICE: as it came by multicast store, from the gateway or from the peer (R181). `chk`: what the pointers' copies
show as the key's packets leave their lists and their cells return (R175). -/
def execCancelNotice (n : Notice) (chk : Arrival) (s : State) : Res := .next (if s.active then s.takeNotice n chk else s)

/-! ### Waiting packets (R172) -/

/-- What admitting a waiting packet does; none while there is no space for it. -/
def State.admitWaiting (s : State) (w : PoolFrom × Packet) (chk : Arrival) : Option State :=
  match w.1 with
  | .own => (s.poolTake w.2 chk false).map (fun r => r.2.ownAnswer w.2.hdr r.1)
  | .bulk slot =>
    match s.land slot with
    | none => some s
    | some l =>
      (s.placeLanded l w.2 chk).map (fun s =>
        match s.land slot with
        | some l =>
          pumpLand l.packets.length slot (s.setLand { l with packets := l.packets.drop 1, chks := l.chks.drop 1 })
        | none => s)

/-- The first packet that can be admitted. -/
def State.admitFirst (s : State) (chk : Arrival) : List (PoolFrom × Packet) → State
  | [] => s
  | w :: ws =>
    match State.admitWaiting { s with pool := { s.pool with waiting := s.pool.waiting.erase w } } w chk with
    | some s => s
    | none => s.admitFirst chk ws

/-- POOL_WAITING_PACKET_ADMIT. -/
def execPoolWaitingPacketAdmit (chk : Arrival) (s : State) : Res := .next (s.admitFirst chk s.pool.waiting)

/-! ### Sweeps (R175) -/

/-- A list is reset: its cells are free, each open step of the queue closes with CANCELLED, its first sender is told. -/
def State.resetList (s : State) (q c : Nat) : State :=
  let gone := s.poolList q c
  let s := { s with pool := { s.pool with differ := s.pool.differ.filter (fun x => decide (x ≠ .list q c)) } }
  let s := (gone.foldl (fun s p => State.giveCells s p.cells) s).setPoolList q c []
  let s := s.count Obj.RZ_QUEUE_RESET 1
  let open_ := s.slotsOf q
  let s := open_.foldl (fun s x => s.cancelSlot q x.key x.placeEpoch) s
  s.slotFaults [] open_ { code := 0x42, sev := 2, action := 3, loc := q * 16 + c }

/-- Runs of the cells not held by any packet, close record or die, in ascending order. -/
def runsOf : List Nat → List (Nat × Nat)
  | [] => []
  | a :: l =>
    match runsOf l with
    | (b, n) :: rs => if b = a + 1 then (a, n + 1) :: rs else (a, 1) :: (b, n) :: rs
    | [] => [(a, 1)]

/-- The free list is rebuilt from the owner array: the same cells, in ascending order, none lost. -/
def State.rebuildFree (s : State) : State :=
  let lt (a b : Nat × Nat) : Bool := decide (a.1 < b.1)
  let insert (l : List (Nat × Nat)) (r : Nat × Nat) : List (Nat × Nat) := l.takeWhile (lt · r) ++ [r] ++ l.dropWhile (lt · r)
  let sorted := s.pool.free.foldl insert []
  let s := State.feedCloses { s with pool := { s.pool with
    free := sorted, differ := s.pool.differ.filter (fun x => decide (x ≠ .free)) } }
  (s.count Obj.RZ_QUEUE_RESET 1).soot_ { code := 0x43, sev := 1, action := 2, detail := s.poolFree }

/-- QUEUE_RESET_SWEEP_DONE. -/
def execQueueResetSweepDone (s : State) : Res :=
  .next (
    match s.pool.sweeps with
    | [] => s
    | w :: rest =>
      let s := { s with pool := { s.pool with sweeps := rest } }
      match w with
      | .list q c => s.resetList q c
      | .free => s.rebuildFree)

/-! ### Die ports (R176, R177) -/

/-- The die port of a queue at a placement epoch. -/
def State.queueDie (s : State) (placeEpoch q : Nat) : Nat := QEntry.die (s.queueEntry (placeEpoch % 2 == 1) q)

/-- Units a port may still have out: credits of R177. -/
def dieCredits : Nat := 512

/-- A close record of a class that a port can deliver: it holds its cell, its range has been delivered, and its queue is the
port's at its placement (R176, R179). -/
def State.dueClose (s : State) (port c q : Nat) : Option PClose :=
  (s.closesOf q).find? (fun x => !x.starved && fld x.hdr 251 250 == c && s.queueDie (fld x.hdr 235 220) q == port &&
    (match s.slotOf q x.key with
     | some y => decide (x.need ≤ y.delivered)
     | none => true))

/-- The head of a class's list that a port can deliver: no close record of the queue stands ahead of it. -/
def State.headPacket (s : State) (port c q : Nat) : Option PoolPkt :=
  if s.pool.sweeps.contains (.list q c) || (s.closesOf q).any (fun x => x.ahead.getD c 0 == 0) then none
  else (s.poolList q c).head?.filter (fun p => s.queueDie (DHdr.placeEpoch p.hdr) q == port)

/-- Queues of a port that hold something of a class to deliver. -/
def State.servable (s : State) (port c : Nat) : List Nat :=
  let lists := (s.pool.lists.filter (fun p => p.1 % 4 == c)).map (fun p => p.1 / 4)
  let closes := s.pool.closes.map (·.1)
  ((lists ++ closes).eraseDups).filter (fun q => (s.headPacket port c q).isSome || (s.dueClose port c q).isSome)

/-- The next queue of a class, round-robin in ascending order. -/
def nextQueue (qs : List Nat) (last : Nat) : Option Nat :=
  (leastOf (fun q => decide (last < q)) qs).or (leastOf (fun _ => true) qs)

/-- Runs of cells, one by one. -/
def runCells (runs : List (Nat × Nat)) : List Nat := runs.flatMap (fun r => (List.range r.2).map (r.1 + ·))

/-- A port begins to deliver. -/
def State.startDie (s : State) (port c q : Nat) (m : Sending) : State :=
  let d := s.dieAt port
  s.setDie port { d with sending := some m, served := d.served.set c q }

/-- A close record leaves its queue; the last one ends its slot. -/
def State.takeClose (s : State) (port c q : Nat) (x : PClose) : State :=
  let s := s.setCloses q ((s.closesOf q).erase x)
  let s := if x.last then s.dropSlot q x.key else s
  s.startDie port c q { hdr := x.hdr, payload := [], units := runCells x.cells, slot := none }

/-- A packet leaves its list. -/
def State.takePacket (s : State) (port c q : Nat) (p : PoolPkt) (chk : Arrival) : State :=
  let s := s.setPoolList q c (s.poolList q c).tail
  let s := s.setCloses q ((s.closesOf q).map (fun x =>
    { x with ahead := x.ahead.mapIdx (fun i n => if i = c then n - 1 else n) }))
  (s.startDie port c q
    { hdr := p.hdr, payload := p.payload, units := runCells p.cells, slot := some (q, DHdr.key p.hdr) }).pointerCheck chk (some (q, c))

/-- What a port delivers goes out unit by unit while it holds credits; with its last unit it has been delivered (R177). -/
def State.sendUnits (s : State) (port : Nat) : State :=
  let d := s.dieAt port
  match d.sending with
  | none => s
  | some m =>
    let out := d.out ++ m.units.take d.credits
    let left := m.units.drop d.credits
    let s := s.setDie port { d with
      out := out
      credits := dieCredits - out.length
      lastCredit := if d.out.isEmpty then s.core else d.lastCredit
      sending := if left.isEmpty then none else some { m with units := left } }
    if left.isEmpty then
      let s := match m.slot with
        | some (q, k) => s.onSlot q k (fun x => { x with delivered := x.delivered + 1 })
        | none => s
      s.emit (.die port m.hdr m.payload)
    else s

/-- What a port delivers next: of the highest class that holds a packet or a deliverable record, a queue's deliverable record
ahead of its packets (R176). -/
def State.pickDie (s : State) (port : Nat) (chk : Arrival) : State :=
  match [0, 1, 2, 3].find? (fun c => !(s.servable port c).isEmpty) with
  | none => s
  | some c =>
    match nextQueue (s.servable port c) ((s.dieAt port).served.getD c 2047) with
    | none => s
    | some q =>
      match s.dueClose port c q, s.headPacket port c q with
      | some x, _ => s.takeClose port c q x
      | none, some p => s.takePacket port c q p chk
      | none, none => s

/-- DIE_DELIVERY_TURN: the port goes on with what it is delivering, or begins the next. -/
def execDieDeliveryTurn (port : BitVec 3) (chk : Arrival) (s : State) : Res :=
  let n := port.toNat
  let d := s.dieAt n
  .next (
    if !s.diePresent n || d.credits = 0 then s
    else (if d.sending.isNone then s.pickDie n chk else s).sendUnits n)

/-- DIE_CREDIT_RETURN: the cell of the unit consumed is free, and the port sends on while it holds credits and the die is
present (R368). -/
def execDieCreditReturn (port : BitVec 3) (chk : Arrival) (s : State) : Res :=
  let n := port.toNat
  let d := s.dieAt n
  .next (
    match d.out with
    | [] => s
    | c :: out =>
      let s := s.setDie n { d with out := out, credits := dieCredits - out.length, lastCredit := s.core }
      let s := (s.giveCells [(c, 1)]).pointerCheck chk none
      if s.diePresent n then s.sendUnits n else s)

/-- A die is out of service until kindling (Table 14-4, INVALID): every open step of its queues, and steps of this engine's own
beside, are marked, or their senders told (R184, Table 14-2); the event's soot entry is written. For a die that stalls, that it
stays out of service is the model's reading of its ACTION (log entry 37). -/
def State.dieOut (s : State) (port : Nat) (own : List Bool) (ev : SootEv) : State :=
  let s := s.setDie port { s.dieAt port with lost := true }
  let xs := s.pool.slots.flatMap (fun p => p.2.filter (fun x => s.queueDie x.placeEpoch p.1 == port))
  let firsts := xs.foldl (fun l x => if l.any (fun y => decide (y.key = x.key ∧ y.sender = x.sender)) then l else l ++ [x])
    ([] : List PSlot)
  s.slotFaults own firsts ev

/-- DIE_STALL: no credit for RZ_DRAIN_LIMIT cycles while the die holds some. -/
def execDieStall (port : BitVec 3) (s : State) : Res :=
  let n := port.toNat
  let d := s.dieAt n
  .next (
    if !s.diePresent n || d.out.isEmpty || s.core < d.lastCredit + s.obj Obj.RZ_DRAIN_LIMIT then s
    else s.dieOut n [] { code := 0x46, sev := 3, action := 5, loc := n, detail := min dieCredits d.out.length })

end Sys2Proof.Machine
end

