-- ==== Sys2Proof/Machine/Inputs.lean ====
section
/-!
DEFINITION. The input digest's commands (R288).
-/

namespace Sys2Proof.Machine

/-- What RZ_DIGEST_CTRL's own rules say of a value: READY only. -/
def digestRules (s : State) (v : Nat) : OwnRules :=
  { state := s.mode == .ready, busy := false, value := v == 1 || v == 2 }

/-- Phase 2 asks the owning packages for their block digests. -/
def State.beginPhase2 (s : State) : State :=
  State.fetch { s.dropFetch .digest with digests := { s.digests with phase2 := 1 } } .digest s.digestRanges

/-- A phase starts, or ends at once where its inputs are unusable (R288). -/
def State.digestStart (v : Nat) (s : State) : State :=
  if v = 1 then { s with digests := { s.digests with phase1 := if s.phase1Ok then 1 else 3 } }
  else if s.phase2Ok then s.beginPhase2
  else { s.dropFetch .digest with digests := { s.digests with phase2 := 3 } }

/-- DIGEST_PHASE1. -/
def execDigestPhase1 (path : Path) (tag : ReqTag) (s : State) : Res :=
  .next (odWrite s (scalarReq path tag Obj.RZ_DIGEST_CTRL 1) (digestRules s 1) (State.digestStart 1))

/-- DIGEST_PHASE2. -/
def execDigestPhase2 (path : Path) (tag : ReqTag) (s : State) : Res :=
  .next (odWrite s (scalarReq path tag Obj.RZ_DIGEST_CTRL 2) (digestRules s 2) (State.digestStart 2))

/-- The second phase ends. -/
def State.endPhase2 (s : State) (readError : Bool) : State :=
  let d := if readError then s.digests else { s.digests.formed s.inputDigest with input := s.inputDigest }
  { s.dropFetch .digest with digests := { d with phase2 := if readError then 3 else 2 } }

/-- DIGEST_PHASE_DONE: the running phase ends, phase 1 first; an uncorrectable read, or a digest lost to parity errors (R290),
fails it. Phase 2 has all its LOADs back. -/
def execDigestPhaseDone (readError : Bool) (s : State) : Res :=
  let bad := readError || s.digestLost
  .next (
    if s.digests.phase1 = 1 then
      let s := if bad then s else s.formBlocks
      State.digestEnd { s with digests := { s.digests with phase1 := if bad then 3 else 2 } }
    else if s.digests.phase2 = 1 ∧ s.fetched .digest = true then (s.endPhase2 bad).digestEnd
    else s)

end Sys2Proof.Machine
end

