-- ==== Sys2Proof/Machine/Program.lean ====
section
/-!
DEFINITION. The sequencer's rows: START and its checks (R36, R279, R285), the host's commands (R48), the instructions of Table
2-2, the placement commit (R256), the barrier at a step's start (R31 to R33), notices and rewinds (R357 to R360).
-/

namespace Sys2Proof.Machine

/-! ### RZ_SEQ_CMD -/

/-- What each command asks: START of READY with no START open, the others of a halt (R48, R358). -/
def seqCmdRules (s : State) (cmd : Nat) : OwnRules :=
  if cmd = 1 then { state := s.mode == .ready, busy := s.seq.checking || s.seq.startPending, value := true }
  else if inRange 2 4 cmd then { state := s.haltedAt.isSome, busy := false, value := cmd != 3 || s.retryOk }
  else { state := true, busy := s.seq.checking, value := false }

/-- A START waits until every layout job has ended (R151); its checks then run. -/
def State.pollStart (s : State) : State :=
  if s.seq.startPending && s.obj Obj.RZ_LJOB_HEAD == s.obj Obj.RZ_LJOB_TAIL then
    { s with seq := { s.seq with startPending := false, checking := true } }
  else s

/-- The effect of a command. -/
def State.seqCmd (cmd : Nat) (s : State) : State :=
  if cmd = 1 then State.pollStart { s with seq := { s.seq with startPending := true } }
  else s.orHold (.command cmd) [8] (fun s => (s.seqCommand cmd).pollBarrier)

/-- START. -/
def execStart (path : Path) (tag : ReqTag) (s : State) : Res :=
  .next (odWrite s (scalarReq path tag Obj.RZ_SEQ_CMD 1) (seqCmdRules s 1) (State.seqCmd 1))

/-- SKIP. -/
def execSkip (path : Path) (tag : ReqTag) (s : State) : Res :=
  .next (odWrite s (scalarReq path tag Obj.RZ_SEQ_CMD 2) (seqCmdRules s 2) (State.seqCmd 2))

/-- RETRY. -/
def execRetry (path : Path) (tag : ReqTag) (s : State) : Res :=
  .next (odWrite s (scalarReq path tag Obj.RZ_SEQ_CMD 3) (seqCmdRules s 3) (State.seqCmd 3))

/-- ABORT. -/
def execAbort (path : Path) (tag : ReqTag) (s : State) : Res :=
  .next (odWrite s (scalarReq path tag Obj.RZ_SEQ_CMD 4) (seqCmdRules s 4) (State.seqCmd 4))

/-! ### The checks' end -/

/-- The START record's payload (Table 11-5). -/
def State.startPayload (s : State) : List Byte :=
  let conf := s.configRec (s.members (s.obj Obj.RZ_PLACE_GROUP)).length
  let img := ImgHdr.digest s.imgHdr
  conf ++ img ++ sha256 (img ++ conf) ++ s.digests.input

/-- The log's START record agrees in CONFIG_REC, IMG_DIGEST and D_in (R285). -/
def startAgrees (own log : List Byte) : Bool :=
  decide (own.take 96 = log.take 96) && decide (slice own 128 32 = slice log 128 32)

/-- START has passed: the record, D_prog, RUNNING at ENTRY (R36, R287, Table 12-12). -/
def State.startRun (s : State) : State :=
  let payload := s.startPayload
  let s := { s with digests := { s.digests.formed (slice payload 96 32) with prog := slice payload 96 32 }, log := { s.log with ord := some 0 } }
  let s := s.logFree 0x01 payload
  let entry := ImgHdr.entry s.imgHdr
  let b : Barrier := { Barrier.cleared with
    peer := s.seq.barrier.peer, packages := s.seq.barrier.packages, startDue := s.flag Obj.RZ_START_GROUP }
  let q : Seq := { Seq.cleared with
    wait := .fetch, pc := entry, furthest := (entry, [], [0, 0, 0, 0]), held := s.seq.held, mask := s.seq.mask,
    refuse := s.seq.refuse, barrier := b }
  (State.setObj { s with seq := q } Obj.RZ_SEQ_STATE 1).enter .running 2

/-- START_CHECKS_DONE. -/
def execStartChecksDone (s : State) : Res :=
  .next (
    if !s.seq.checking || s.mode != .ready || !s.logReady [160] then s
    else
      let code := if s.digestLost && s.startCode != 3 then 4 else s.startCode
      let s := State.digestEnd { s with seq := { s.seq with checking := false } }
      if code != 0 then s.setObj Obj.RZ_SEQ_STATE code
      else if !s.flag Obj.RZ_REPLAY_EN then s.startRun
      else
        let recs := s.replayRecs
        match recs.find? (fun r => r.ty == 0x01) with
        | none => s.setObj Obj.RZ_REPLAY_STATE 3
        | some r =>
          if startAgrees s.startPayload r.payload && recs.all (·.good) then
            let s := s.startRun
            { s with log := { s.log with
              replay := true, taken := (recs.filter (fun x => decide (x.idx ≤ r.idx))).map (·.idx) } }
          else s.setObj Obj.RZ_REPLAY_STATE 3)

/-! ### Instructions -/

/-- STEP: the descriptor is fetched and patched, the arrival reported (R33, R34, R39). -/
def execStep (s : State) : Res :=
  .next (
    if s.atOp 0x01 && s.stepReachable then
      let s := s.reachStep s.seq.steps
      State.pollBarrier { s with seq := { s.seq with steps := s.seq.steps + 1 } }
    else s)

/-- LOOP: its body runs COUNT times, with LREG from 0 to COUNT - 1 (Table 2-2). -/
def execLoop (s : State) : Res :=
  .next (
    if !s.atOp 0x02 then s
    else
      let i := s.instr
      let q := s.seq
      let n := SInstr.count i
      let r := SInstr.lreg i
      if n = 0 then s.goTo (unwind (q.pc + 8 + 8 * SInstr.body i) q.frames q.regs)
      else if SInstr.body i = 0 then s.goTo (unwind (q.pc + 8) q.frames (q.regs.set r (BitVec.ofNat 20 (n - 1))))
      else
        let f : Frame := { first := q.pc + 8, last := q.pc + 8 + 8 * SInstr.body i, reg := r, left := n - 1 }
        s.goTo (q.pc + 8, f :: q.frames, q.regs.set r 0))

/-- MARK: a marker record carrying VALUE, with no phase failing, no variant applied and no deadline (Tables 2-2, 2-7). Which
STEP_ID and BATCH_EPOCH a record of no step holds is not stated: free values. -/
def execMark (s : State) : Res :=
  .next (
    if !s.atOp 0x05 then s
    else
      let (f, s) := s.takeFree
      (s.postStatus (statusRecord (bits f.toNat 31 0) 0x20 0 7 15 (bits f.toNat 55 44) (SInstr.value s.instr) 0)).advance)

/-- HALT: the schedule ends. In a replay a command of the log that met no halt diverges (R285). -/
def execHalt (s : State) : Res := .next (if s.atOp 0x06 then (s.endSchedule 3).unmetCommand else s)

/-- HALT_RETIRED: READY, when both in-flight steps have retired (R37, R48); a replay that ran so far has ended. -/
def execHaltRetired (s : State) : Res :=
  .next (
    if s.mode = .running ∧ s.seq.wait = .ending ∧ s.inFlight = false then
      let s := s.endReplay.leaveRunning.stopSeq
      State.enter s .ready s.seq.reason
    else s)

/-- A COLL of a group that this engine is in begins; in any other it completes at once (R243). A program other than 0x81
forbids an automatic rewind (R358). -/
def State.collAt (s : State) (start : Nat → State → State) : State :=
  let g := SInstr.group s.instr
  let p := SInstr.program s.instr
  let s := if p = 0x81 then s else s.blockRewind
  match s.posIn g s.node with
  | none => s.advance
  | some pos => start pos (s.beginOp (.coll g p))

/-- COLL_BARRIER. -/
def execCollBarrier (s : State) : Res :=
  .next (
    if s.atColl 1 && s.colls.now.isNone then
      s.collAt (fun pos s' => s'.collBegin (SInstr.group s.instr) 1 pos (some .arrive))
    else s)

/-- COLL_FUSED_BARRIER: it completes with the scan of the step before it; after a refused step it runs unfused (R244). -/
def execCollFusedBarrier (s : State) : Res :=
  .next (
    if s.atColl 0x81 && (!s.seq.refused || s.colls.now.isNone) then
      s.collAt (fun pos s' =>
        if s.seq.refused then s'.collBegin (SInstr.group s.instr) 0x81 pos (some .arrive)
        else
          let b := s.lastBank
          let s' := { s' with seq := { s'.seq with fusedBank := b } }
          if s.scanDone b then s'.advance else s')
    else s)

/-- COLL_STATS: reached; it begins when every step before it has retired (R259). -/
def execCollStats (s : State) : Res :=
  .next (if s.atColl 2 && s.colls.now.isNone then s.collAt (fun _ s' => s') else s)

/-- STATS_BEGIN: the rewind records are released, LOCAL is contributed and cleared (R259). -/
def execStatsBegin (s : State) : Res :=
  .next (
    match s.seq.wait with
    | .coll g 2 =>
      if s.colls.now.isSome || s.inFlight then s
      else
        match s.posIn g s.node with
        | none => s
        | some pos =>
          let s := s.releaseBoth
          let own := s.localStats
          let s := s.writeMem (s.obj Obj.RZ_STATS_BASE) (List.replicate statBytes 0)
          s.collBegin g 2 pos (some (.stats own))
    | _ => s)

/-- COLL_ROUTE_GATHER. -/
def execCollRouteGather (s : State) : Res :=
  .next (
    if s.atColl 3 && s.colls.now.isNone then
      s.collAt (fun pos s' => s'.collBegin (SInstr.group s.instr) 3 pos none)
    else s)

/-- COLL_ROUTE_RESTORE. -/
def execCollRouteRestore (s : State) : Res :=
  .next (
    if s.atColl 4 && s.colls.now.isNone then
      s.collAt (fun pos s' => s'.collBegin (SInstr.group s.instr) 4 pos none)
    else s)

/-! ### The placement commit (R256) -/

/-- RZ_PLACE_CTRL: reserved bits; in RUNNING one GO held at a time, whether or not a commit runs (R38, R256); elsewhere one commit
at a time. -/
def placeRules (s : State) (v : Nat) : OwnRules :=
  { state := true, value := bits v 6 0 == 0
    busy := v.testBit 7 && (s.seq.held.place || (s.mode != .running && s.colls.commit.isSome)) }

/-- A commit waits to begin. -/
def State.startCommitOf (s : State) (input : Bool) : State :=
  let c : PCommit := { input := input, begun := false, image := [], code := 0, crc := 0 }
  { s with colls := { s.colls with commit := some c } }

/-- GO to RZ_PLACE_CTRL: held in RUNNING. -/
def State.placeGo (v : Nat) (s : State) : State :=
  if !v.testBit 7 then s
  else if s.mode = .running then { s with seq := { s.seq with held := { s.seq.held with place := true } } }
  else (s.setObj Obj.RZ_PLACE_STATE 2).startCommitOf false

/-- PLACE_GO. -/
def execPlaceGo (path : Path) (tag : ReqTag) (ctrl : Byte) (s : State) : Res :=
  let v := 0x80 + bits ctrl.toNat 6 0
  .next (odWrite s (scalarReq path tag Obj.RZ_PLACE_CTRL v) (placeRules s v) (State.placeGo v))

/-- INPUT_PLACEMENT_COMMIT: a held GO is applied; in a replay the log's next commit is. -/
def execInputPlacementCommit (s : State) : Res :=
  .next (
    if !s.atInput 1 || s.colls.commit.isSome then s
    else
      let begin_ (s : State) : State := ((s.blockRewind.beginOp .commit).setObj Obj.RZ_PLACE_STATE 2).startCommitOf true
      if s.log.replay then
        match s.nextRec 0x0A (fun _ => true) with
        | some _ => begin_ s
        | none => s.noRecord
      else if s.seq.held.place then
        begin_ { s with seq := { s.seq with held := { s.seq.held with place := false } } }
      else s)

/-- No in-flight step at another epoch, no scan and no collective in progress (R256). -/
def State.commitMay (s : State) : Bool :=
  s.colls.now.isNone &&
  s.liveBanks.all (fun b =>
    match s.steps.get b with
    | some t => decide (Desc.placeEpoch t.desc = s.obj Obj.RZ_PLACE_EPOCH) &&
        (t.cancelled || s.role == 2 || t.scan.offs.isSome)
    | none => true)

/-- PLACE_COMMIT_BEGIN: the image is loaded and checked (R255), and this member votes. -/
def execPlaceCommitBegin (s : State) : Res :=
  .next (
    match s.colls.commit with
    | none => s
    | some c =>
      if c.begun || !s.commitMay || !s.loads then s
      else
        let len := s.obj Obj.RZ_PLACE_LEN
        let img := s.readMem (s.obj Obj.RZ_PLACE_SRC) (min len plMax)
        let code := plCheck len (s.obj Obj.RZ_PLACE_EPOCH) img
        let crc : BitVec 32 := BitVec.ofNat 32 (PlHdr.bodyCrc (plHdr img))
        let s := if code = 1 then s.loadPlacement img else s.setObj Obj.RZ_PLACE_STATE code
        let c := { c with begun := true, image := img, code := code, crc := crc }
        let s := { s with colls := { s.colls with commit := some c } }
        let g := s.obj Obj.RZ_PLACE_GROUP
        match s.posIn g s.node with
        | some pos => s.collBegin g 0x80 pos (some (.vote (code == 1) crc))
        | none => (s.collRecord g 0x80 0).decide_ false)

/-- PLACE_DECISION: the root's decision comes down the tree. -/
def execPlaceDecision (commit : Bool) (s : State) : Res :=
  .next (
    match s.colls.now with
    | some c =>
      if c.program = 0x80 ∧ 0 < c.pos ∧ c.sentUp = true then (s.collDown c (.decision commit)).pollStartGroup else s
    | none => s)

/-! ### The barrier at a step's start -/

/-- BARRIER_ARRIVAL: the peer's, or at the tray master another package's (R31, R33). -/
def execBarrierArrival (src : ArrivalFrom) (s : State) : Res :=
  .next (
    if !s.active then s
    else
      let b := s.seq.barrier
      let b := match src with
        | .peer => { b with peer := true }
        | .package p => { b with packages := (b.packages ++ [p.toNat]).eraseDups }
      State.pollBarrier { s with seq := { s.seq with barrier := b } })

/-- START_BARRIER_RELEASE: FTIME has reached the release time (R279). -/
def execStartBarrierRelease (s : State) : Res :=
  .next (
    match s.seq.barrier.release with
    | some t =>
      if t ≤ s.ftime.value.toNat then
        State.pollPulse { s with seq := { s.seq with
          barrier := { s.seq.barrier with release := none, needRelease := false } } }
      else s
    | none => s)

/-- STEP_START_PULSE (Table 15-4): it fixes t0 of the step that waits for it (R32). -/
def execStepStartPulse (high : Nat) (ownDriven : Bool) (s : State) : Res :=
  .next (
    let s := s.syncPulse high
    if s.readsSync && inRange 4 16 high then
      let s := s.count Obj.RZ_SYNC_PULSES 1
      if s.foreignEdge ownDriven then s.trayFault 0
      else
        match s.seq.wait, s.seq.fetched with
        | .step, some f =>
          if s.seq.barrier.own && f.t0.isNone then
            let b := { Barrier.cleared with
              release := s.seq.barrier.release, needRelease := s.seq.barrier.needRelease, startDue := s.seq.barrier.startDue }
            { s with seq := { s.seq with fetched := some { f with t0 := some s.core, pulse := true }, barrier := b } }
          else s
        | _, _ => s
    else s)

/-! ### Notices and rewinds -/

/-- RERUN_NOTICE: a step of one of the two latest keys is marked with code 0x71 (R357). -/
def execRerunNotice (stepId : BitVec 32) (batch : BitVec 12) (code : Byte) (origin : BitVec 17) (s : State) : Res :=
  .next (
    match s.bankOf { stepId := stepId, batch := batch } with
    | none => s
    | some b =>
      match s.steps.get b with
      | some t =>
        if t.marked || t.ended == .rewound then s
        else
          s.markWith b { code := 0x71, sev := 2, action := 1, detail := code.toNat, node := some origin.toNat } code
            origin true
      | none => s)

/-- Both records name one group (R358). -/
def State.sameGroups (s : State) (r : Rewind) : Bool :=
  [false, true].all (fun b =>
    match s.steps.get b with
    | some t => (match t.rewind with | some x => x.group == r.group | none => true)
    | none => true)

/-- REWIND: no step is in flight after a marking (R359, R360). -/
def execRewind (s : State) : Res :=
  .next (
    if s.mode ≠ .running ∨ s.seq.wait ≠ .rewind ∨ s.inFlight = true then s
    else
      match s.markedBanks with
      | [] => s
      | b :: _ =>
        match s.steps.get b with
        | none => s
        | some t =>
          match t.rewind with
          | none => s.haltFor 8 Alert.seqHalt
          | some r =>
            let n := s.rerunsOf r
            let spent := decide (s.obj Obj.RZ_RERUN_LIMIT ≤ n)
            let s := if spent then
                s.soot_ { code := 0x82, sev := 3, action := 0, loc := r.offset, detail := n, step := some (Step.key t) }
              else s
            if s.flag Obj.RZ_RERUN_AUTO && !spent && s.sameGroups r && r.blocks.isEmpty then s.runRewind t r true
            else (s.standAt r).haltFor 8 Alert.seqHalt)

/-- LOCKSTEP_MISMATCH: the two cores of the sequencer differ (R345). -/
def execLockstepMismatch (s : State) : Res :=
  .next (
    if !s.clocked then s
    else
      let t := (s.soot_ { code := 0x20, sev := 4, action := 8, loc := s.seq.pc }).faultEntry 9 0x20
      { t with seq := { t.seq with lockstep := false } })

end Sys2Proof.Machine
end

