-- ==== Sys2Proof/Machine/Jobs.lean ====
section
/-!
DEFINITION. Loading the layout tables (R143, R144) and layout jobs (R150 to R161).
-/

namespace Sys2Proof.Machine

/-! ### The commit's checks (R143) -/

/-- Valid tensor records, by handle, and valid owner entries, by index. -/
def State.validTensors (s : State) : List (Nat × TRec) := s.tables.tensor.filter (fun p => TRec.valid p.2)

def State.validOwners (s : State) : List (Nat × OEnt) := s.tables.owner.filter (fun p => OEnt.valid p.2)

/-- Check 1 of a tensor record. -/
def tensorFieldOk (t : TRec) : Bool :=
  TRec.reservedOk t && fmtOk (TRec.fmt t) && inRange 2 (if TRec.fmt t = 9 then 10 else 128) (TRec.rowUnits t)

/-- Check 1 of an owner entry. ROUTE under a blocked layout is reported at the owner entry, by the FMT of the record that
HANDLE names, be that record valid or not (log entry 36). -/
def State.ownerFieldOk (s : State) (o : OEnt) : Bool :=
  OEnt.reservedOk o && decide (OEnt.kind o ≤ 1) && decide (OEnt.phLog o ≤ 8) &&
  (OEnt.kind o == 0 || (!OEnt.order o && OEnt.phLog o == 0)) &&
  !(TRec.fmt (s.tensor (OEnt.handle o)) == 9 && OEnt.kind o == 0)

/-- Check 2. It fails an NBLK outside Table 6-1's 1 to 16,384 too, which no check names (log entry 36). -/
def tensorRangeOk (t : TRec) : Bool :=
  let n := TRec.nblk t
  inRange 1 16384 n && decide (TRec.firstBlock t + n ≤ 16384) &&
  decide ((n - 1) * 4096 < TRec.tokens t) && decide (TRec.tokens t ≤ n * 4096) &&
  (TRec.scaleOff t != 0) == isMx (TRec.fmt t) && (TRec.planeOff t != 0) == (TRec.fmt t == 5)

/-- Check 3 of the entry at an index. -/
def State.ownerOk (s : State) (ts : List (Nat × TRec)) (i : Nat) : Bool :=
  let o := s.ownerEnt i
  let cover := ts.filter (fun p => decide (TRec.firstBlock p.2 ≤ i) && decide (i < TRec.firstBlock p.2 + TRec.nblk p.2))
  cover.all (fun p => OEnt.valid o && OEnt.handle o == p.1) &&
  (!OEnt.valid o || (!cover.isEmpty && nodeRack (OEnt.owner o) == nodeRack s.node))

/-- The extents of one block lie in memory and share no byte. -/
def extentsOk : List (Nat × Nat × Nat) → Bool
  | [] => true
  | x :: xs => decide (x.2.2 ≤ memEnd) && !xs.any (extentsMeet x) && extentsOk xs

/-- Check 4: the first failing entry, over entries in ascending order; `seen` are the extents of those before. -/
def State.overlapAt (s : State) : List Nat → List (Nat × Nat × Nat) → Option Nat
  | [], _ => none
  | i :: is, seen =>
    let xs := s.blockExtents i
    if !extentsOk xs || xs.any (fun x => seen.any (extentsMeet x)) then some i else s.overlapAt is (xs ++ seen)

/-- The state code of a commit, and the failing table and index. -/
def State.layoutCheck (s : State) : Nat × Nat × Nat :=
  let ts := s.validTensors
  let os := s.validOwners
  match ts.find? (fun p => !tensorFieldOk p.2) with
  | some p => (3, 0, p.1)
  | none =>
    match os.find? (fun p => !s.ownerFieldOk p.2) with
    | some p => (3, 1, p.1)
    | none =>
      match ts.find? (fun p => !tensorRangeOk p.2) with
      | some p => (4, 0, p.1)
      | none =>
        match (List.range 16384).find? (fun i => !s.ownerOk ts i) with
        | some i => (5, 1, i)
        | none =>
          match s.overlapAt (os.map (·.1)) [] with
          | some i => (6, 1, i)
          | none => (1, 0, 0)

/-- RZ_LAYOUT_CRC: both tables as stored. -/
def State.layoutCrc (s : State) : BitVec 32 :=
  crc32 ((List.range 256).flatMap (fun h => toBytes (s.tensor h)) ++ (List.range 16384).flatMap (fun i => toBytes (s.ownerEnt i)))

def layoutCommitRules (v : Nat) : OwnRules := { state := true, busy := false, value := v == 1 }

/-- A commit of the tables: checked, and where it passes, its CRC sent to the peer. In BANKED the peer path is not present
(R368): the report is lost and not made up for after UNBANK (log entry 36). -/
def State.layoutGo (s : State) : State :=
  let (code, tab, idx) := s.layoutCheck
  let s := s.setObj Obj.RZ_LAYOUT_STATE code
  if code = 1 then
    let crc := s.layoutCrc
    (s.setObj Obj.RZ_LAYOUT_CRC crc.toNat).toPeer (.layoutCrc crc)
  else s.setObj Obj.RZ_LAYOUT_LAST_FAIL (pack [(8, code), (8, tab), (16, idx)])

/-- LAYOUT_COMMIT. -/
def execLayoutCommit (path : Path) (tag : ReqTag) (v : Byte) (s : State) : Res :=
  .next (odWrite s (scalarReq path tag Obj.RZ_LAYOUT_COMMIT v.toNat) (layoutCommitRules v.toNat) State.layoutGo)

/-- PEER_LAYOUT_CRC. -/
def execPeerLayoutCrc (crc : BitVec 32) (s : State) : Res :=
  .next (if !s.clocked then s else { s with tables := { s.tables with peerCrc := some crc } })

/-! ### Checks (R151, R152, R156) -/

/-- LJ_FIELD. -/
def State.ljFieldBad (s : State) (j : LJob) : Bool :=
  let sf := TRec.fmt (s.tensor (LJob.srcT j))
  let df := TRec.fmt (s.tensor (LJob.dstT j))
  !inRange 1 5 (LJob.op j) || !LJob.reservedOk j || !LJob.unnamedOk j || decide (1 < LJob.smode j) || LJob.tes j == 3 ||
  LJob.idxAddr j % 4 != 0 || (LJob.wrap j && !s.flag Obj.RZ_IDX_WRAP) ||
  (LJob.smode j == 1 && !decide (df ≤ 2)) || (LJob.copies j && (sf == 9) != (df == 9)) || !F32.isFinite (LJob.fill j)

/-- LJ_TABLE. -/
def State.ljTableBad (s : State) (j : LJob) : Bool :=
  s.obj Obj.RZ_LAYOUT_STATE != 1 || (LJob.copies j && !TRec.valid (s.tensor (LJob.srcT j))) ||
  (LJob.op j != 4 && !TRec.valid (s.tensor (LJob.dstT j)))

def badCount (n : Nat) : Bool := n == 0 || n == 0xFFFFF

/-- LJ_LENGTH. -/
def ljLengthBad (j : LJob) : Bool :=
  badCount (LJob.rows j) || (LJob.op j == 4 && badCount (LJob.cols j)) || (LJob.idxOps j && badCount (LJob.idxRows j))

/-- LJ_BOUNDS. -/
def State.ljBoundsBad (s : State) (j : LJob) : Bool :=
  let src := s.tensor (LJob.srcT j)
  let dst := s.tensor (LJob.dstT j)
  let out (r : Nat × Nat) (t : TRec) : Bool := decide (TRec.tokens t < r.1 + r.2)
  (LJob.copies j && TRec.rowUnits src != TRec.rowUnits dst) || (LJob.copies j && out (LJob.srcRange j) src) ||
  (LJob.op j != 4 && out (LJob.dstRange j) dst) ||
  (LJob.idxOps j && decide (memEnd < LJob.idxAddr j + 4 * LJob.rows j)) ||
  (LJob.op j == 4 && (decide (LJob.srcStride j < LJob.cols j * LJob.es j) || decide (LJob.dstStride j < LJob.rows j * LJob.es j) ||
    decide (memEnd < (LJob.srcExtent j).2) || decide (memEnd < (LJob.dstExtent j).2)))

/-- Extents of the blocks that rows of a tensor touch. -/
def State.rangeExtents (s : State) (h : Nat) (r : Nat × Nat) : List (Nat × Nat × Nat) :=
  let b := TRec.firstBlock (s.tensor h)
  let lo := r.1 / 4096
  let hi := (r.1 + r.2 - 1) / 4096
  (List.range (hi + 1 - lo)).flatMap (fun i => s.blockExtents (b + lo + i))

/-- LJ_OVERLAP. -/
def State.ljOverlapBad (s : State) (j : LJob) : Bool :=
  if LJob.op j = 4 then
    let a := LJob.srcExtent j
    let b := LJob.dstExtent j
    let inPlace := LJob.rows j == LJob.cols j && LJob.srcAddr j == LJob.dstAddr j && LJob.srcStride j == LJob.dstStride j
    decide (a.1 < b.2) && decide (b.1 < a.2) && !inPlace
  else if LJob.copies j then
    let dst := s.rangeExtents (LJob.dstT j) (LJob.dstRange j)
    let src := s.rangeExtents (LJob.srcT j) (LJob.srcRange j)
    let idx : Nat × Nat × Nat := (s.node, LJob.idxAddr j, LJob.idxAddr j + 4 * LJob.rows j)
    src.any (fun x => dst.any (extentsMeet x)) || (LJob.idxOps j && dst.any (extentsMeet idx))
  else false

/-- The job's status code: 0 where every check passes. -/
def State.jobCheck (s : State) (j : LJob) : Nat :=
  if s.ljFieldBad j then 1 else if s.ljTableBad j then 2 else if ljLengthBad j then 3
  else if s.ljBoundsBad j then 4 else if s.ljOverlapBad j then 5 else 0

/-! ### The rows -/

/-- Where the ring's next descriptor lies. -/
def State.jobAddr (s : State) : Nat :=
  s.obj Obj.RZ_LJOB_RING + s.obj Obj.RZ_LJOB_HEAD % s.obj Obj.RZ_LJOB_RING_LEN * 64

/-- A job may be taken: READY, the ring not empty, no job open, none held by heat (R150, R330), no START check running. -/
def State.jobMay (s : State) : Bool :=
  s.mode == .ready && s.obj Obj.RZ_LJOB_HEAD != s.obj Obj.RZ_LJOB_TAIL && s.job.isNone && !s.therm.jobsHeld && !s.seq.checking

/-- STATUS is written, then the head advances; a START that waits goes on with an empty ring. -/
def State.endJob (s : State) (addr st : Nat) : State :=
  ((s.writeMem (addr + 1) [BitVec.ofNat 8 st]).count Obj.RZ_LJOB_HEAD 1).pollStart

/-- The ring's next job, where its op is the row's; a reserved op fails LJ_FIELD under any row. What it reads of other
packages is fetched by LOADs, and its rows run once that has come (R139). `readError`: a read over the NOC or fabric is
uncorrectable, or the register tile's parity fails, at an address whose low 32 bits ÷ 64 these are; both are entered as 0x1D
with detail 6, which the manual gives the read alone (log entry 36). -/
def State.takeJob (s : State) (op : Nat) (readError : Option (BitVec 32)) : State :=
  if !s.jobMay then s
  else
    let addr := s.jobAddr
    let j : LJob := ofBytes 512 (s.readMem addr 64)
    if LJob.op j != op && inRange 1 5 (LJob.op j) then s
    else
      let code := s.jobCheck j
      if code != 0 then (s.count Obj.RZ_LJOB_REFUSED 1).endJob addr code
      else
        let s := match readError with
          | some a => s.soot_ { code := 0x1D, sev := 2, action := 1, loc := a.toNat, detail := 6 }
          | none => s
        let s := { s with job := some { addr := addr, desc := j, status := if readError.isSome then 6 else 0, reading := true } }
        let far := s.jobRanges j
        if far.isEmpty then s.runJob else s.fetch .job far

/-- LJOB_COPY. -/
def execLjobCopy (readError : Option (BitVec 32)) (s : State) : Res := .next (s.takeJob 1 readError)

/-- LJOB_GATHER. -/
def execLjobGather (readError : Option (BitVec 32)) (s : State) : Res := .next (s.takeJob 2 readError)

/-- LJOB_SCATTER. -/
def execLjobScatter (readError : Option (BitVec 32)) (s : State) : Res := .next (s.takeJob 3 readError)

/-- LJOB_TRANSPOSE. -/
def execLjobTranspose (readError : Option (BitVec 32)) (s : State) : Res := .next (s.takeJob 4 readError)

/-- LJOB_FILL. -/
def execLjobFill (readError : Option (BitVec 32)) (s : State) : Res := .next (s.takeJob 5 readError)

/-- Remote writes of the open job are not all acknowledged. -/
def State.jobOps (s : State) : Bool :=
  let is (x : Serve) : Bool := match x with | .job => true | _ => false
  s.fabric.ops.any (fun o => is o.serve) || s.fabric.waitQ.any (fun w => is w.serve) ||
  s.fabric.resend.any (fun w => is w.2.serve)

/-- LJOB_COMPLETE: every write of the job is acknowledged (R150). -/
def execLjobComplete (s : State) : Res :=
  .next (
    match s.job with
    | none => s
    | some j => if j.reading || s.jobOps then s else State.endJob { s with job := none } j.addr j.status)

end Sys2Proof.Machine
end

