-- ==== Sys2Proof/Machine/Returns.lean ====
section
/-!
DEFINITION. The rows of returns and combine: die returns, arrivals at the scoring engine, the combine unit, write
acknowledgements, the cancel fence (R219 to R235).
-/

namespace Sys2Proof.Machine

/-! ### Die returns -/

/-- The return packet of a die return: the die's own POISON and RET_FMT stand in the copy's [35] and [33:32] (R219). -/
def State.formReturn (s : State) (p : Packet) : Packet :=
  { hdr := returnHdr s.node p.hdr 5 (bit p.hdr 35) (fld p.hdr 33 32) (p.payload.length / 64)
      (if p.payload.isEmpty then 0 else (crc32 p.payload).toNat)
    payload := p.payload }

/-- Units of a die's return that wait at the port hold so many of its return credits (R219). -/
def State.holdRet (s : State) (port units : Nat) : State := s.setDie port { s.dieAt port with ret := 512 - min 512 units }

/-- A return's units have been taken: their credits go back to the die. -/
def State.giveRet (s : State) (port units : Nat) : State :=
  (s.setDie port { s.dieAt port with ret := 512 }).emit (.dieCredit port units)

/-- DIE_RETURN: a return of a cancelled key is discarded (R233); one that finds no context or no stash cell waits at the
die (R221). Under arrival combine a pair of this rack is reduced here (R228); any other return is sent on. -/
def execDieReturn (port : BitVec 3) (p : Packet) (s : State) : Res :=
  let units := 1 + p.payload.length / 64
  let h := p.hdr
  .next (
    if !s.active || !s.diePresent port.toNat then s
    else if s.pool.cancelled.contains (DHdr.key h) then (s.count Obj.RZ_STALE_RETURN 1).giveRet port.toNat units
    else
      match s.freeFlueCtx with
      | none => s.holdRet port.toNat units
      | some n =>
        if s.stashFree < p.payload.length / 64 then s.holdRet port.toNat units
        else
          let s := s.giveRet port.toNat units
          let q := s.formReturn p
          if DHdr.arrival h && s.route (DHdr.srcNode h) != .far then
            if RHdr.poison q.hdr then
              let r := receiptOf q true
              (s.addFlueCtx n (.send r 0)).sendReturn n r false
            else
              let w := if DHdr.type h = 2 then f32One else weightVal (DHdr.wfmt h) (DHdr.weight h)
              s.reduceRow n q w (DHdr.homeBlock h) (DHdr.homeOff h)
          else (s.addFlueCtx n (.send q 0)).sendReturn n q false)

/-- NOC_REDUCTION_ACK: a piece over the NOC is done; the receipt or the drain it held up may go (R228, R233). -/
def execNocReductionAck (p : PairRef) (s : State) : Res :=
  let key : Key := { stepId := p.stepId, batch := p.batch }
  .next (
    match s.flue.nocReds.find? (fun r => r.scorer == p.scorer.toNat && decide (r.key = key) && r.entry == p.entry.toNat &&
        r.pos == p.pos.toNat) with
    | none => s
    | some r =>
      let s := { s with flue := { s.flue with nocReds := s.flue.nocReds.erase r } }
      (s.reduceDone r.ctx key false).checkFences)

/-! ### Arrivals at the scoring engine -/

/-- FLUE_STORE: applied once through the reply cache; its status is the flue's (R197). One that must wait for a context is
answered BUSY; a LEN that R190 forbids is answered ALIGN ahead of the cache (log entry 37). -/
def execFlueStore (req : BitVec 256) (p : Packet) (chk : Arrival) (cacheReadError : Bool) (s : State) : Res :=
  let apply (s : State) : State × Nat × BitVec 64 :=
    match s.takeReturn p chk with
    | some (st, s) => (s, st, 0)
    | none => (s.breakTiming (RHdr.key p.hdr) false true, Rs.busy, 0)
  .next (s.accept req 0x05 (fun s =>
    if FHdr.len req = 32 + 64 * RHdr.cells p.hdr ∧ FHdr.len req ≤ 65568 ∧ p.payload.length = 64 * RHdr.cells p.hdr then
      s.exactlyOnce req cacheReadError apply
    else s.reply req Rs.align false [] 0))

/-- A return or receipt of one TYPE arrives over a path that is no fabric request, and is answered on it (R221, R222). -/
def State.arriveReturn (s : State) (via : FlueVia) (chk : Arrival) (ty : Nat) : State :=
  if !s.active then s
  else
    match via with
    | .own =>
      match s.flue.ownPath with
      | [] => s
      | p :: rest =>
        if RHdr.type p.hdr ≠ ty then s
        else
          match State.takeReturn { s with flue := { s.flue with ownPath := rest } } p chk with
          | none => s
          | some (st, s) =>
            match s.sendCtx p.hdr with
            | none => s
            | some n => if st = Rs.replay then s.replayReturn n (RHdr.key p.hdr) else s.dropSent n (RHdr.key p.hdr)
    | .peer p =>
      if RHdr.type p.hdr ≠ ty then s
      else
        match s.takeReturn p chk with
        | none => s
        | some (st, s) => s.toPeer (.packetReply p.hdr st)
    | .gate p =>
      if RHdr.type p.hdr ≠ ty then s
      else
        match s.takeReturn p chk with
        | none => s
        | some (st, s) => if st = Rs.replay then s.toGate (nodeRack (RHdr.expNode p.hdr)) (.packetReply p.hdr st) else s

/-- RETURN_PACKET: a TYPE 0x5 return. -/
def execReturnPacket (via : FlueVia) (chk : Arrival) (s : State) : Res := .next (s.arriveReturn via chk 5)

/-- ARRIVAL_RECEIPT: a TYPE 0x7 receipt. -/
def execArrivalReceipt (via : FlueVia) (chk : Arrival) (s : State) : Res := .next (s.arriveReturn via chk 7)

/-- DRAIN_RECEIPT: taken by an open cancel fence of its key, or discarded (R234). -/
def execDrainReceipt (p : Packet) (s : State) : Res := .next (s.takeDrain p)

/-- STAGING_WRITE_ACK: the position becomes 5 (R223). -/
def execStagingWriteAck (entry : BitVec 19) (pos : BitVec 5) (s : State) : Res :=
  let e := entry.toNat
  let p := pos.toNat
  .next (
    if !s.flue.staging.contains (e, p) then s
    else
      let s := { s with flue := { s.flue with staging := s.flue.staging.filter (· != (e, p)) } }
      match s.bankStep (entryBank e) with
      | none => s
      | some t =>
        let k := Desc.k t.desc
        if LEntry.state (s.entry e) = 2 && (s.pos k e p).rstate == 3 then (s.setRstate k e p 5 0).settleToken e else s)

/-! ### The combine unit -/

/-- The row of a settled position: from its context, or from the staging area. -/
def State.positionRow (s : State) (d : Desc) (e p : Nat) : List F32 :=
  let bytes := match s.rowCtx e p with
    | some (_, bs) => bs
    | none => s.readMem (s.stageAddr e p) (64 * retCells (Desc.retFmt d) (Desc.dim d))
  retRow (Desc.retFmt d) (Desc.dim d) bytes

/-- ordered_combine of R225: one fused, rounded term for each position that is not CLOSED, in position order. -/
def State.combineRow (s : State) (d : Desc) (e : Nat) : List F32 :=
  (List.range (Desc.positions d)).foldl (fun acc p =>
    let q := s.pos (Desc.k d) e p
    if q.rstate = 6 then acc
    else
      let w := if p < Desc.k d then weightVal (s.flag Obj.RZ_WEIGHT_FMT) q.weight else f32One
      List.zipWith (fun a o => F32.fma w o a) acc (s.positionRow d e p))
    (List.replicate (Desc.dim d) f32Zero)

/-- OUT_FMT's format and element size. -/
def outElem (d : Desc) : Fmt × Nat :=
  match Desc.outFmt d with
  | 0 => (Fmt.bf16, 2)
  | 1 => (Fmt.fp16, 2)
  | _ => (Fmt.fp32, 4)

/-- The first staged position of an entry. -/
def State.stagedPos (s : State) (d : Desc) (e : Nat) : Option Nat :=
  (List.range (Desc.positions d)).find? (fun p => (s.pos (Desc.k d) e p).rstate == 5)

/-- The context that a combined row takes: the first of its own rows', or a free one. -/
def State.combineCtx (s : State) (d : Desc) (e : Nat) : Option Nat :=
  match (List.range (Desc.positions d)).findSome? (fun p => (s.rowCtx e p).map (·.1)) with
  | some n => some n
  | none => s.freeFlueCtx

/-- A token's row is formed and leaves for its home (R225, R226). -/
def State.combineToken (s : State) (d : Desc) (e n : Nat) : State :=
  let (f, size) := outElem d
  let (bs, sat) := encodeElems f size (s.combineRow d e)
  let s := s.dropRows (· != e)
  let s := (s.count Obj.RZ_LAYOUT_SAT sat).addOutFp (entryBank e) (s.tokenRow d e) bs
  let (s, left) := s.writeHome d e bs
  s.addFlueCtx n (.write e left)

/-- A dropped token: every position is CLOSED and none is a shared one (R227). -/
def State.dropped (s : State) (t : Step) (e : Nat) : Bool :=
  Desc.shared t.desc == 0 && (s.positionsOf t e).all (fun p => p.rstate == 6)

/-- ORDERED_COMBINE: the token at the head of the combine queue; of a dropped one a zero row, or no write (Table 9-7). An
uncorrectable read of the staging area or of an
extension record poisons it (R240). -/
def execOrderedCombine (readError : Bool) (s : State) : Res :=
  .next (
    match s.flue.combineQ with
    | [] => s
    | e :: rest =>
      match s.bankStep (entryBank e) with
      | none => s
      | some t =>
        let d := t.desc
        let ext : Option (Nat × Nat) :=
          match s.stagedPos d e with
          | some p => some (s.stageAddr e p, 1)
          | none => if 9 ≤ Desc.k d then some (s.extAddr e, 2) else none
        match readError, ext with
        | true, some (a, detail) =>
          s.poisonToken e { code := 0x1D, sev := 2, action := 1, loc := a / 64 % 2 ^ 32, detail := detail }
        | _, _ =>
          if s.dropped t e then
            State.resolveZero { s with flue := { s.flue with combineQ := rest } } (entryBank e) d e
          else
          match s.combineCtx d e with
          | none => s
          | some n => State.combineToken { s with flue := { s.flue with combineQ := rest } } d e n)

/-- HOME_WRITE_ACK: a row's write over the NOC is acknowledged (R226, R227, R236). -/
def execHomeWriteAck (entry : BitVec 19) (s : State) : Res :=
  let e := entry.toNat
  let due := match s.writeCtx e with
    | some (_, left) => decide (0 < left)
    | none => s.flue.zeros.any (fun z => z.1 == e && decide (0 < z.2))
  .next (if due then s.homeAcked e else s)

/-- ARRIVAL_ZERO_WRITE_ACK: the token's packets may leave (R228). -/
def execArrivalZeroWriteAck (entry : BitVec 19) (s : State) : Res :=
  .next (
    if s.homeOpen entry.toNat then s
    else { s with flue := { s.flue with zeroing := s.flue.zeroing.filter (· != entry.toNat) } })

/-! ### The cancel fence (R234) -/

/-- Engines of the rack whose receipts an arrival-combine fence needs: those that front an instance, and this one. -/
def State.fronts (s : State) (d : Desc) : List Nat :=
  (s.node :: (s.hosts (Desc.placeEpoch d)).filter (fun n => nodeRack n == nodeRack s.node)).eraseDups

/-- Receipts a fence still misses. -/
def State.missingReceipts (s : State) (t : Step) (f : CFence) : Nat :=
  if Desc.arrival t.desc then (s.fronts t.desc).countP (fun n => !f.receipts.contains n) else 0

/-- Every write and reduction that this member issued for the bank's key has ended, and no context holds a row of it. -/
def State.ownWritesDone (s : State) (b : Bool) (k : Key) : Bool :=
  let mine (e : Nat) : Bool := entryBank e == b
  !s.homeOps b &&
  !s.flue.ctxs.any (fun c => match c.use with
    | .row e _ _ _ => mine e
    | .write e _ => mine e
    | _ => false) &&
  !s.flue.staging.any (fun x => mine x.1) && !s.flue.zeroing.any mine && !s.flue.zeros.any (fun x => mine x.1) &&
  !s.flue.nocReds.any (fun r => decide (r.key = k)) && !s.fabric.ops.any (fun o => o.serve.reduces k)

/-- The bound of the fence: 7,200,000 CORE cycles. -/
def fenceBound : Nat := 7200000

/-- CANCEL_FENCE_COMPLETE: the longest fence is kept and the sweep of the bank begins. -/
def execCancelFenceComplete (bank : Bool) (s : State) : Res :=
  .next (
    match s.steps.get bank with
    | none => s
    | some t =>
      match t.fence with
      | none => s
      | some f =>
        if f.swept || f.poison || s.missingReceipts t f != 0 || !s.ownWritesDone bank (Step.key t) then s
        else
          let s := s.setObj Obj.RZ_CANCEL_FENCE_MAX (max (s.obj Obj.RZ_CANCEL_FENCE_MAX) (min 0xFFFFFFFF (s.core - f.since)))
          s.setStep bank { t with fence := some { f with swept := true } })

/-- BANK_SWEEP_DONE: every CANCELLED entry retires with its blocks' tags, and the bank is free (R23, R238). -/
def execBankSweepDone (bank : Bool) (s : State) : Res :=
  .next (
    match s.steps.get bank with
    | none => s
    | some t =>
      match t.fence with
      | none => s
      | some f =>
        if !f.swept then s
        else
          let s := (s.tagCancelled bank).sweepBank bank
          (s.onStep bank (fun t => { t with retired := true, fence := none })).commitFreed)

/-- CANCEL_FENCE_TIMEOUT: at the bound with a receipt missing, or on a receipt with POISON, the bank stays held and the
engine enters FAULTED (R234, Table 14-6). -/
def execCancelFenceTimeout (bank : Bool) (s : State) : Res :=
  .next (
    match s.steps.get bank with
    | none => s
    | some t =>
      match t.fence with
      | none => s
      | some f =>
        let missing := s.missingReceipts t f
        if f.swept || !(f.poison || (decide (fenceBound ≤ s.core - f.since) && missing != 0)) then s
        else
          let ev : SootEv := { code := 0x61, sev := 4, action := 8, loc := b2n bank, detail := missing, step := some (Step.key t) }
          (s.soot_ ev).faultEntry 9 ev.code)

end Sys2Proof.Machine
end

