-- ==== Sys2Proof/Machine/Score.lean ====
section
/-!
DEFINITION. The score phase (R20, R24, R73, R104, R105, R114 to R121, R135, R163 to R165, R227, R228, R263, R284, R346): its
begin, and one scored unit.
-/

namespace Sys2Proof.Machine

/-! ### The step that scores -/

/-- The step whose scoring is next to begin or under way: the earliest live, uncancelled one not yet scored (R24). -/
def State.scoring (s : State) : Option (Bool × Step) :=
  s.liveBanks.findSome? (fun b =>
    match s.bankStep b with
    | some t => if t.cancelled || t.grateEnd.isSome then none else some (b, t)
    | none => none)

/-- The step's score phase ends with its last unit's selection: counts are final (R121), the shared queues get theirs (R182),
the secondary's counts go to the primary (R58), the scan may go on (R249). -/
def State.endScoring (s : State) (b : Bool) : State :=
  let s := s.onStep b (fun t => { t with grateEnd := some s.core, scan := { t.scan with sentAt := s.core } })
  let s :=
    if s.role ≠ 0 then s
    else
      let s := s.sealShared b
      let s := match s.steps.get b with
        | some t => if s.primary then s else s.toPeer (.counts (Desc.stepId t.desc) false (s.tables.hist.get b))
        | none => s
      s.scanTry b
  s.tryComplete b

/-! ### The per-step constant (R346) -/

/-- Compare mode is on for every pipe (R90). -/
def State.comparing (s : State) : Bool := s.flag Obj.RZ_FN_COMPARE

/-- The function pipe and lookup stage that a step tests, by its number since START; the stages' records follow the pipes'. -/
def testedPipe (t : Step) : Nat := t.ord.toNat % 64
def testedStage (t : Step) : Nat := t.ord.toNat % 16

/-- What a step tests, as its record's index. -/
def testedUnit (t : Step) (stage : Bool) : Nat := if stage then 64 + testedStage t else testedPipe t

/-- A pipe or stage runs in compare mode (R90, R346): its rotation test is not made. -/
def State.compares (s : State) (i : Nat) : Bool := s.comparing || s.seq.compare.contains i

/-- A pair's elements are compared: that of a failing pipe, in either half, or of a lookup stage. -/
def State.comparesPair (s : State) (pair : BitVec 16) (stage : Bool) : Bool :=
  let x := pair.toNat
  if stage then s.compares (64 + bits x 15 8) || s.compares (64 + bits x 7 0)
  else s.compares (bits x 15 8) || s.compares (bits x 7 0)

/-- The rotation test of a step finds a mismatch: `stage` says that a lookup stage failed, not a pipe. The STEP_ID of the last
passing step is a free value where there is none. -/
def State.rotationFails (s : State) (t : Step) (partner : BitVec 8) (stage : Bool) : State :=
  let n := if stage then testedStage t else testedPipe t
  let i := testedUnit t stage
  let (v, s) := s.takeFree
  let last := ((s.seq.passed.lookup i).map BitVec.toNat).getD (bits v.toNat 31 0)
  let ev : SootEv := { code := 0x23, sev := 2, action := 1, loc := n * 256 + partner.toNat, detail := last }
  let s := s.markBoth ev
  { s with seq := { s.seq with compare := s.seq.compare ++ [i] } }

/-- The pipe and the stage that a step tested passed. -/
def State.rotationPasses (s : State) (t : Step) : State :=
  let id := Desc.stepId t.desc
  let put (l : Tab (BitVec 32)) (i : Nat) : Tab (BitVec 32) :=
    if s.compares i then l else Tabs.set (fun _ => 0) l i id
  { s with seq := { s.seq with passed := put (put s.seq.passed (testedUnit t false)) (testedUnit t true) } }

/-! ### SCORE_PHASE_BEGIN -/

/-- The counts of the step's histogram set start at 0, and in the denoise role its weight-mass area is cleared (R121, R259). -/
def State.clearHist (s : State) (b : Bool) : State :=
  let s := { s with tables := { s.tables with hist := s.tables.hist.set b [] } }
  if s.role = 0 then { s with mem := Tabs.clearRun s.mem (s.statAddr (massOff b) 0) 262144 } else s

/-- The step's mask keeps a package-step index (R115, R116). -/
def State.keeps (s : State) (t : Step) (p : Nat) : Bool :=
  match t.mask with
  | some m => (s.maskBytes m).getD (p / 8) 0 |>.getLsbD (p % 8)
  | none => true

/-- Local indices of the members of a unit. -/
def unitMembers (d : Desc) (u : Nat) : List Nat := (List.range (Desc.w d)).map (fun m => u * Desc.w d + m)

/-- What of the rows of a bank's next unit lies on another package is fetched by LOADs (R16); nothing of a unit that the mask
removes. -/
def State.fetchUnit (s : State) (b : Bool) : State :=
  match s.bankStep b with
  | none => s
  | some t =>
    let d := t.desc
    let ms := unitMembers d t.units
    if t.cancelled || s.unitsOf d ≤ t.units || ms.all (fun i => !s.keeps t (s.stepIndex d i)) then s
    else s.fetch (.unit b t.units) (s.farRanges (Desc.inTensor d) (ms.map (fun i => Desc.firstToken d + s.stepIndex d i)))

/-- The step's score phase begins: its first grate cycle, its timestep terms (R24, R81). -/
def State.beginScoring (s : State) (b : Bool) (t : Step) : State :=
  let d := t.desc
  let img := s.bankBytes (Desc.routerBank d)
  let row := if Desc.timeEn d then timeTerms (s.fnMode d) (s.bankHdr (Desc.routerBank d)) img else []
  let s := s.clearHist b
  let s := s.onStep b (fun t => { t with grateAt := some s.core, timeRow := row })
  if s.unitsOf d = 0 then s.endScoring b else s.fetchUnit b

/-- SCORE_PHASE_BEGIN. `mismatch` is what the rotation test found: the pair's partner, and whether it is a lookup stage. -/
def execScorePhaseBegin (mismatch : Option (BitVec 8 × Bool)) (s : State) : Res :=
  .next (
    match s.scoring with
    | none => s
    | some (b, t) =>
      if t.grateAt.isSome then s
      else if s.comparing then s.beginScoring b t
      else
        match mismatch with
        | some (p, stage) =>
          if s.compares (testedUnit t stage) then (s.rotationPasses t).beginScoring b t
          else s.rotationFails t p stage
        | none => (s.rotationPasses t).beginScoring b t)

/-! ### Route memory (R261 to R265) -/

/-- A route record as its K expert fields. -/
def routeFields (k : Nat) (bs : List Byte) : List Nat := (List.range k).map (fun i => bits (leNat bs) (12 * i + 11) (12 * i))

/-- A route record's bytes. -/
def routeBytes (r : RMap) (xs : List Nat) : List Byte :=
  leBytes (RMap.rb r) ((xs.zip (List.range xs.length)).map (fun p => p.1 % 4096 * 2 ^ (12 * p.2))).sum

/-- The route-map entry of a matched step. -/
def State.lineOf (s : State) (t : Step) : Option RMap := t.line.map (fun i => Tabs.get noRoute s.tables.routeMap i)

/-- The previous record of a local index: the line's half CUR, while VALIDH is 1 and it could be read (R263, R267). -/
def State.prevRoute (s : State) (t : Step) (i : Nat) : Option (List Nat) :=
  match s.lineOf t with
  | some r =>
    if RMap.validH r && !t.badRoutes.contains i then
      some (routeFields (RMap.k r) (s.lp.read (s.halfAddr r (RMap.cur r) + i * RMap.rb r) (RMap.rb r)))
    else none
  | none => none

/-- A token's record is written into half CUR xor 1. -/
def State.writeRoute (s : State) (t : Step) (i : Nat) (xs : List Nat) : State :=
  match s.lineOf t with
  | some r => s.writeLp (s.halfAddr r (!RMap.cur r) + i * RMap.rb r) (routeBytes r xs)
  | none => s

/-- Drift of a routed token (R263). -/
def State.countDrift (s : State) (b : Bool) (prev : Option (List Nat)) (xs : List Nat) : State :=
  match prev with
  | none => s
  | some old =>
    let used := xs.filter (· != 0xFFF)
    s.onStep b (fun t => { t with
      slotsCmp := t.slotsCmp + used.length
      slotsChg := t.slotsChg + used.countP (fun x => !old.contains x) })

/-- The incumbents of a unit: non-null experts below E in the previous record of its first member (R265). -/
def State.incumbents (s : State) (t : Step) (i : Nat) : List Nat :=
  if s.flag Obj.RZ_HYST_EN then
    ((s.prevRoute t i).getD []).filter (fun x => x != 0xFFF && decide (x < Desc.e t.desc))
  else []

/-! ### Entries (R215, R216) -/

/-- The entry of a token as selection leaves it: its home, epochs, K slots, and the state of its shared positions. The manual does
not say which state a shared position has before its packet is issued: it is 1 (log entry 37). -/
def State.newEntry (s : State) (d : Desc) (e row st : Nat) (slots : List Position) (sharedState : Nat) : State :=
  let home := TRec.firstBlock (s.tensor (Desc.outTensor d)) + row / 4096
  let l : LEntry := packed 512 [(4, st), (14, home), (12, row % 4096), (12, (Desc.batch d).toNat), (16, Desc.placeEpoch d), (454, 0)]
  let s := s.setEntry e l
  let s := if 9 ≤ Desc.k d then s.writeMem (s.extAddr e) (List.replicate 64 0) else s
  let s := (slots.zip (List.range slots.length)).foldl (fun s x => s.setPos (Desc.k d) e x.2 x.1) s
  (List.range (Desc.shared d)).foldl (fun s j => s.setRstate (Desc.k d) e (Desc.k d + j) sharedState 0) s

/-- A slot of a token from its expert and stored weight. -/
def State.slotOf_ (s : State) (d : Desc) (p : Nat) (x : Nat × Nat) : Position :=
  if x.1 = 0xFFF then { inst := nullInst, weight := x.2, rstate := 6, ctx := 0 }
  else { inst := s.instOf d x.1 p, weight := x.2, rstate := 1, ctx := 0 }

/-- Slot words of R135, 32 bits each: the K selected, or all sixteen. -/
def slotWords (n : Nat) (slots : List (Nat × Nat)) : List Byte :=
  (List.range n).flatMap (fun i => leBytes 4 (match slots[i]? with
    | some x => x.1 * 2 ^ 20 + x.2
    | none => 0xFFF * 2 ^ 20))

/-- ROUTE_FP takes a token that reached selection (R284). -/
def State.addRouteFp (s : State) (b : Bool) (p : Nat) (slots : List (Nat × Nat)) : State :=
  s.onStep b (fun t => { t with
    routeFp := t.routeFp + BitVec.ofNat 64 (p * 2 ^ 32 + (crc32 (slotWords slots.length slots)).toNat) })

/-! ### Tokens in the denoise role -/

/-- A skipped token (R117, R227). -/
def State.skipToken (s : State) (b : Bool) (t : Step) (i : Nat) : State :=
  let d := t.desc
  let e := entryOf b i
  let s := s.newEntry d e (Desc.firstToken d + s.stepIndex d i) 3 (List.replicate (Desc.k d) { inst := 0, weight := 0, rstate := 0, ctx := 0 }) 0
  let s := s.writeRoute t i (List.replicate (Desc.k d) 0xFFF)
  s.resolveZero b d e

/-- A bad token: its ash record, every slot closed (R73, R105, R132, R133, R227). -/
def State.badToken (s : State) (b : Bool) (t : Step) (i reason : Nat) : State :=
  let d := t.desc
  let e := entryOf b i
  let p := s.stepIndex d i
  let s := s.newEntry d e (Desc.firstToken d + p) 4 (List.replicate (Desc.k d) { inst := nullInst, weight := 0, rstate := 6, ctx := 0 }) 0
  let s := s.postAsh (ashRecord reason 0xF 0xFFF 0 p 0)
  let s := s.writeRoute t i (List.replicate (Desc.k d) 0xFFF)
  s.resolveZero b d e

/-- The local rank of each pair of a token, whose counts then advance (R121): (slot, instance, rank). -/
def State.rankPairs (s : State) (b : Bool) (slots : List Position) : List (Nat × Nat × Nat) × State :=
  let h := s.tables.hist.get b
  let pairs := ((slots.zip (List.range slots.length)).filter (fun x => Position.pair x.1)).map
    (fun x => (x.2, x.1.inst, countOf h x.1.inst))
  let h' := pairs.foldl (fun h p => Tabs.set zeroNat h p.2.1 (countOf h p.2.1 + 1)) h
  (pairs, { s with tables := { s.tables with hist := s.tables.hist.set b h' } })

/-- Under arrival combine the token's home is zeroed as its row is gathered; no packet of it leaves before (R228). -/
def State.zeroHome (s : State) (d : Desc) (e : Nat) : State :=
  if Desc.arrival d then
    let s := ((s.count Obj.RZ_ZERO_ROWS 1).writeHome d e (List.replicate (outBytes d) 0)).1
    { s with flue := { s.flue with zeroing := s.flue.zeroing ++ [e] } }
  else s

/-- A selected token (R104, R114, R118 to R121, R164, R284): routed, or wholly null. -/
def State.routeToken (s : State) (b : Bool) (t : Step) (i : Nat) (slots : List (Nat × Nat)) : State :=
  let d := t.desc
  let e := entryOf b i
  let p := s.stepIndex d i
  let xs := slots.map (·.1)
  let ps := slots.map (s.slotOf_ d p)
  let prev := s.prevRoute t i
  let s := s.count Obj.RZ_NULL_SLOTS (xs.countP (· == 0xFFF))
  let s := ((s.addRouteFp b p slots).writeRoute t i xs)
  if ps.any Position.pair then
    let s := (s.newEntry d e (Desc.firstToken d + p) 2 ps 1).countDrift b prev xs
    let (pairs, s) := s.rankPairs b ps
    let s := ((s.gather d b e).zeroHome d e).onStep b (fun t => { t with routedTokens := t.routedTokens + 1 })
    s.releasePairs b t e pairs
  else (s.newEntry d e (Desc.firstToken d + p) 5 ps 0).resolveZero b d e

/-! ### Tokens in the conditioning role (R135) -/

/-- A route row leaves for OUT_TENSOR; it is held as written until its NOC writes are acknowledged. -/
def State.writeRouteRow (s : State) (b : Bool) (d : Desc) (i : Nat) (slots : List (Nat × Nat)) (groups : List F32) : State :=
  let e := entryOf b i
  let bytes := slotWords 16 slots ++ (groups.map (fun g => leBytes 4 g.toNat)).flatten
  let ws := s.rowWrites (Desc.outTensor d) (Desc.firstToken d + s.stepIndex d i) [zeroFill 32 bytes]
  let foreign := s.foreignWrites ws
  let s := (s.writeOwn ws).storePieces foreign 1 (.home e)
  if foreign.isEmpty then { s with flue := { s.flue with zeros := s.flue.zeros ++ [(e, 1)] } } else s

/-- Group values of a row that scoring formed none of (GATE_MODE 1): not stated, equal in runs that R270 makes equal. -/
def State.openGroups (s : State) (t : Step) (i : Nat) : List F32 :=
  let k := s.digests.prog ++ s.digests.wt.get (Desc.routerBank t.desc) ++ s.digests.input
  (List.range (Desc.hierGroups t.desc)).map (Config.routeGroup k t.ord.toNat (s.stepIndex t.desc i))

/-- A member of a unit in the conditioning role. -/
def State.condToken (s : State) (b : Bool) (t : Step) (i : Nat) (res : UnitRes) : State :=
  let d := t.desc
  let none_ : State :=
    if Desc.dropWrite d then s
    else s.writeRouteRow b d i [] (List.replicate (Desc.hierGroups d) f32Zero)
  match res with
  | .route slots _ groups _ =>
    let s := s.count Obj.RZ_NULL_SLOTS (slots.countP (fun x => x.1 == 0xFFF))
    let s := s.addRouteFp b (s.stepIndex d i) slots
    s.writeRouteRow b d i slots (if Desc.gateMode d = 1 then s.openGroups t i else groups)
  | .bad reason => none_.postAsh (ashRecord reason 0xF 0xFFF 0 (s.stepIndex d i) 0)
  | .skipped => none_

/-! ### SCORED_UNIT -/

/-- A member of a unit. -/
def State.takeMember (s : State) (b : Bool) (t : Step) (i : Nat) (res : UnitRes) : State :=
  if s.role = 2 then s.condToken b t i res
  else
    match res with
    | .skipped => s.skipToken b t i
    | .bad reason => s.badToken b t i reason
    | .route slots _ _ _ => s.routeToken b t i slots

/-- The counters of a unit's outcome, over w members (R73, R76, R80, R104, R105, R117, R132). -/
def State.countUnit (s : State) (w : Nat) (res : UnitRes) (sat : Bool) : State :=
  let s := s.count Obj.RZ_NORM_SAT (b2n sat)
  match res with
  | .skipped => s.count Obj.RZ_SKIPPED w
  | .route _ sats _ _ => s.count Obj.RZ_WEIGHT_SAT (sats * w)
  | .bad reason =>
    let key := match reason with
      | 2 => Obj.RZ_BAD_INPUT
      | 3 => Obj.RZ_BAD_LOGIT
      | 4 => Obj.RZ_ZERO_GATE
      | _ => Obj.RZ_BAD_GROUP
    (s.count key 1).count Obj.RZ_ASH_BAD w

/-- The row of a member in the input tensor. -/
def State.memberRow (s : State) (d : Desc) (i : Nat) : Nat := Desc.firstToken d + s.stepIndex d i

/-- The rows of a unit's members, decoded to FP32; none where the skip mask takes every member. -/
def State.unitRows (s : State) (t : Step) (members : List Nat) (remote : Remote) : List (List F32) :=
  let d := t.desc
  let h := Desc.inTensor d
  if members.all (fun i => !s.keeps t (s.stepIndex d i)) then []
  else members.map (fun i => (s.decodeRow (TRec.fmt (s.tensor h)) (Desc.dim d) (s.readRow remote h (s.memberRow d i))).1)

/-- One unit is scored from its rows: its outcome and its row's saturation (R73 to R82, R112 to R117). -/
def State.scoreUnit (s : State) (t : Step) (members : List Nat) (rows : List (List F32)) : UnitRes × Bool :=
  if rows.isEmpty then (.skipped, false)
  else
    let first := members.headD 0
    s.scoreRows t rows (s.incumbents t first) (s.memberRow t.desc first)

/-- What scoring a unit leaves in the norm unit's row buffer, which has four rows, and in the candidate buffer: the
selection key of each candidate (Table 1-1). -/
def State.keepUnit (s : State) (rows : List (List F32)) (res : UnitRes) : State :=
  let cands := match res with
    | .route _ _ _ keys => keys
    | _ => s.stores.candidates
  let rows := if rows.isEmpty then s.stores.normRows else rows.drop (rows.length - 4)
  { s with stores := { s.stores with normRows := rows, candidates := cands } }

/-- The unit's outcome reaches its members, and the unit is counted; the last one ends the step's scoring. -/
def State.takeUnit (s : State) (b : Bool) (t : Step) : State :=
  let members := unitMembers t.desc t.units
  let rows := s.unitRows t members (s.fetchedBytes (.unit b t.units))
  let (res, sat) := s.scoreUnit t members rows
  let s := s.keepUnit rows res
  let s := s.dropFetch (.unit b t.units)
  let s := members.foldl (fun s i => s.takeMember b t i res) (s.countUnit (Desc.w t.desc) res sat)
  let s := s.onStep b (fun t => { t with units := t.units + 1 })
  if s.unitsOf t.desc ≤ t.units + 1 then s.endScoring b else s.fetchUnit b

/-- SCORED_UNIT: the next unit of the step that scores. A mismatch of a pair in compare mode marks the step (R91): the
pair's two pipes, or stages, in [15:8] and [7:0], and which. The unit waits for the LOADs of its rows. -/
def execScoredUnit (mismatch : Option (BitVec 16 × Bool)) (s : State) : Res :=
  .next (
    match s.scoring with
    | none => s
    | some (b, t) =>
      if t.grateAt.isNone || !s.fetched (.unit b t.units) then s
      else
        match mismatch with
        | some (pair, stage) =>
          if s.comparesPair pair stage then
            (s.count Obj.RZ_FN_MISMATCH 1).mark b { code := 0x23, sev := 2, action := 1, loc := pair.toNat }
          else s.takeUnit b t
        | none => s.takeUnit b t)

end Sys2Proof.Machine
end

