-- ==== Sys2Proof/Machine/LogRoom.lean ====
section
/-!
DEFINITION. Room in the replay log (R280): records and inputs that waited for it.
-/

namespace Sys2Proof.Machine

/-- Payload lengths of the records that a waiting input writes. -/
def LogHeld.sizes : LogHeld → List Nat
  | .verdict _ _ => [8]
  | .timeout _ => [8]
  | .cancel _ => [8]
  | .command _ => [8]
  | .seed _ => [8]
  | .mask _ len => maskSizes (ceilDiv len 8)
  | .table _ _ len => [tableRead len]
  | .weights _ => [32, 32, 32]
  | .decision _ => [128]
  | .stream _ => [32]

/-- A waiting input is applied. -/
def State.applyHeld (s : State) : LogHeld → State
  | .verdict w timely => s.takeVerdict w timely
  | .timeout k => s.timeoutOf k
  | .cancel w => s.takeCancel w
  | .command cmd => (s.seqCommand cmd).pollBarrier
  | .seed v => s.applySeed v
  | .mask addr len => s.takeMask (maskOf addr len)
  | .table ctrl src len => s.startFload { ctrl := ctrl, src := src, len := len, image := none, input := false }
  | .weights bs => s.takeWdigest bs
  | .decision commit => s.applyDecision commit
  | .stream bs => s.applyStream bs

/-- Waiting inputs are applied in order, as far as there is room. -/
def drainHeld : List LogHeld → State → State
  | [], s => s
  | h :: hs, s =>
    if s.logReady h.sizes then drainHeld hs (s.applyHeld h)
    else { s with log := { s.log with held := h :: hs ++ s.log.held } }

/-- Space was released, or the log switched: what waited is written and applied. -/
def State.drainLog (s : State) : State :=
  let s := drainEntries s.log.waiting { s with log := { s.log with waiting := [] } }
  drainHeld s.log.held { s with log := { s.log with held := [] } }

end Sys2Proof.Machine
end

