-- ==== Sys2Proof/Machine/Storage.lean ====
section
/-!
DEFINITION. The persistence commands and the events of the xSPI part and its hold-up supply (R298, R299, R334 to R338, R367).
-/

namespace Sys2Proof.Machine

/-! ### RZ_PERSIST_CMD (R298) -/

/-- What RZ_PERSIST_CMD's own rules say of a value. -/
def persistRules (s : State) (v : Nat) : OwnRules :=
  let calm := s.mode == .ready || s.mode == .banked
  { state := match v with
      | 1 => calm
      | 3 => calm || s.mode == .kindling || s.mode == .faulted
      | _ => true
    busy := s.xOpen || s.seq.checking
    value := inRange 1 3 v }

def persistCmd (v : Nat) : XCmd := match v with | 1 => .save | 2 => .edit | _ => .clear

/-- SAVE. -/
def execSave (path : Path) (tag : ReqTag) (s : State) : Res :=
  .next (odWrite s (scalarReq path tag Obj.RZ_PERSIST_CMD 1) (persistRules s 1) (State.takeXCmd (persistCmd 1)))

/-- EDIT. -/
def execEdit (path : Path) (tag : ReqTag) (s : State) : Res :=
  .next (odWrite s (scalarReq path tag Obj.RZ_PERSIST_CMD 2) (persistRules s 2) (State.takeXCmd (persistCmd 2)))

/-- CLEAR. -/
def execClear (path : Path) (tag : ReqTag) (s : State) : Res :=
  .next (odWrite s (scalarReq path tag Obj.RZ_PERSIST_CMD 3) (persistRules s 3) (State.takeXCmd (persistCmd 3)))

/-! ### RZ_XSPI_CMD (R334, R338, R339) -/

/-- What RZ_XSPI_CMD's own rules say of a value. -/
def xspiRules (s : State) (v : Nat) : OwnRules :=
  { state := true
    busy := s.xOpen || s.seq.checking
    value := match v with
      | 1 => s.mode == .ready || s.mode == .banked
      | 2 => s.mode == .ready
      | _ => inRange 3 6 v }

def xspiCmd (v : Nat) : XCmd :=
  match v with
  | 1 => .placeSave | 2 => .placeLoad | 3 => .sootSnap | 4 => .logRead | 5 => .logFree | _ => .sootRead

/-- PLACE_SAVE. -/
def execPlaceSave (path : Path) (tag : ReqTag) (s : State) : Res :=
  .next (odWrite s (scalarReq path tag Obj.RZ_XSPI_CMD 1) (xspiRules s 1) (State.takeXCmd (xspiCmd 1)))

/-- PLACE_LOAD. -/
def execPlaceLoad (path : Path) (tag : ReqTag) (s : State) : Res :=
  .next (odWrite s (scalarReq path tag Obj.RZ_XSPI_CMD 2) (xspiRules s 2) (State.takeXCmd (xspiCmd 2)))

/-- SOOT_SNAP. -/
def execSootSnap (path : Path) (tag : ReqTag) (s : State) : Res :=
  .next (odWrite s (scalarReq path tag Obj.RZ_XSPI_CMD 3) (xspiRules s 3) (State.takeXCmd (xspiCmd 3)))

/-- LOG_READ. -/
def execLogRead (path : Path) (tag : ReqTag) (s : State) : Res :=
  .next (odWrite s (scalarReq path tag Obj.RZ_XSPI_CMD 4) (xspiRules s 4) (State.takeXCmd (xspiCmd 4)))

/-- LOG_FREE. -/
def execLogFree (path : Path) (tag : ReqTag) (s : State) : Res :=
  .next (odWrite s (scalarReq path tag Obj.RZ_XSPI_CMD 5) (xspiRules s 5) (State.takeXCmd (xspiCmd 5)))

/-- SOOT_READ. -/
def execSootRead (path : Path) (tag : ReqTag) (s : State) : Res :=
  .next (odWrite s (scalarReq path tag Obj.RZ_XSPI_CMD 6) (xspiRules s 6) (State.takeXCmd (xspiCmd 6)))

/-! ### Events of the part -/

/-- LOG_SEGMENT_COMMIT: the oldest closed segment's automatic commit begins, in SEQ order (R334, R338); with no free slot it
is refused with state 7. -/
def execLogSegmentCommit (s : State) : Res :=
  .next (
    match s.mode, s.xspi.closed with
    | .off, _ => s
    | _, [] => s
    | _, start :: rest =>
      if s.xspi.commit.isSome || s.xspi.retry.any (fun c => c.kind == .log) then s
      else if s.logSlots ≤ s.xspi.logHeld then s.setObj Obj.RZ_XSPI_STATE 7
      else
        let seg := s.obj Obj.RZ_LOG_SEG
        let bytes := s.lp.read (s.obj Obj.RZ_LOG_BASE + start % s.obj Obj.RZ_LOG_LEN) seg
        State.startCommit { s with xspi := { s.xspi with closed := rest } } (mkCommit .log true bytes start))

/-- PERSIST_COMMIT_DONE: the commit ends (R336); a RESET it held runs, or the command it held (R334). -/
def execPersistCommitDone (writeOk : Bool) (failAddr : BitVec 32) (s : State) : Res :=
  .next (
    match s.mode, s.xspi.commit with
    | .off, _ => s
    | _, none => s
    | _, some c =>
      let s := (s.endCommit c writeOk failAddr).drainLog
      if s.xspi.heldReset then s.kindleEntry 7 else s.runHeldCmd)

/-- AUTO_COMMIT_RETRY: a refused automatic commit is tried again, the oldest first (R335). -/
def execAutoCommitRetry (s : State) : Res :=
  .next (
    match s.xspi.retry with
    | [] => s
    | c :: cs =>
      if s.xspi.commit.isSome then s
      else State.startCommit { s with xspi := { s.xspi with retry := cs } } c)

/-- HOLDUP_DROP: a deassertion is taken and counted (R367); during a commit all but the commit path is gated and the steps
are abandoned without fences (R336). -/
def execHoldupDrop (s : State) : Res :=
  .next (
    if s.readsPins && s.pins.holdup then
      let s := s.count Obj.RZ_HOLDUP_DROPS 1
      let s := { s with pins := { s.pins with holdup := false } }
      if s.xspi.commit.isSome then
        let s := (s.abandonSteps none).stopSeq.quiesce.portsDown
        { s with mode := .powerFail, pins := { s.pins with failMode := s.shown } }
      else s
    else s)

/-- HOLDUP_OK_RISE: HOLDUP_OK is taken as asserted (R367). -/
def execHoldupOkRise (s : State) : Res :=
  .next (if s.readsPins then { s with pins := { s.pins with holdup := true } } else s)

/-- XSPI_READ_DONE: a copy from the part ends (R338); a placement image's length goes to RZ_PLACE_LEN. -/
def execXspiReadDone (s : State) : Res :=
  .next (
    match s.xspi.read with
    | none => s
    | some r =>
      let s := { s with xspi := { s.xspi with read := none } }
      let s := s.writeMem r.dst r.bytes
      let s := if r.load then s.setObj Obj.RZ_PLACE_LEN r.bytes.length else s
      s.setObj Obj.RZ_XSPI_STATE 3)

end Sys2Proof.Machine
end

