-- ==== Sys2Proof/Machine/Walk.lean ====
section
/-!
DEFINITION. The step summaries (R58, R264) and the admission walk (R123 to R126, R132, R133, R179, R183, R218, R259).
-/

namespace Sys2Proof.Machine

/-! ### Summaries -/

/-- The package's count of each instance: this engine's and its peer's. -/
def packageCounts (own peer : List (Nat × Nat)) : Tab Nat := addCounts (tabOfCounts own) (tabOfCounts peer)

/-- Pairs that a variant would ash, by the package's counts. -/
def ashForecast (counts : Tab Nat) (c : Caps) : Nat := (counts.map (fun p => p.2 - c.at_ p.1)).sum

/-- The summary header (Table 2-11). -/
def State.summaryHdr (s : State) (d : Desc) (kind : Nat) (counts : Tab Nat) : BitVec 512 :=
  let ash (v : Nat) : Nat := if v < Desc.capVariants d then ashForecast counts (s.caps d v) else 0
  packed 512 ([(32, (Desc.stepId d).toNat), (12, (Desc.batch d).toNat), (16, Desc.placeEpoch d), (4, Desc.capVariants d),
    (20, Desc.n d), (4, kind), (8, 0)] ++ (List.range 8).map (fun v => (32, ash v)) ++
    [(32, (s.heldInsts d).countP (fun p => countOf counts p.1 == 0)), (32, (counts.map (·.2)).foldl max 0), (96, 0)])

/-- Bytes of a summary slot. -/
def summaryBytes : Nat := 262208

/-- The primary posts a summary, where RZ_SUMMARY_BASE is set; predicted ones have a count of their own (Table 10-10). -/
def State.postSummary (s : State) (b : Bool) (d : Desc) (kind : Nat) (counts : Tab Nat) : State :=
  let base := s.obj Obj.RZ_SUMMARY_BASE
  if base = 0 then s
  else
    let s := (s.writeMem (base + b2n b * summaryBytes) (toBytes (s.summaryHdr d kind counts) ++ walkBytes counts)).count
      Obj.RZ_SUMMARY_SEQ 1
    if kind = 1 then s.count Obj.RZ_PRED_POSTED 1 else s

/-- STEP_SUMMARY_POST: the primary's measured summary, once the step's counts are final; `peerCounts` came over the peer path.
-/
def execStepSummaryPost (bank : Bool) (peerCounts : List (Nat × Nat)) (s : State) : Res :=
  .next (
    match s.steps.get bank with
    | none => s
    | some t =>
      if !s.primary || s.role != 0 || t.posted || t.cancelled || t.grateEnd.isNone then s
      else
        (s.postSummary bank t.desc 0 (packageCounts (s.tables.hist.get bank) peerCounts)).onStep bank
          (fun t => { t with posted := true }))

/-- Whether a local index's window, or token, is kept by the step's mask (R117). -/
def State.keepsUnit (s : State) (t : Step) (i : Nat) : Bool :=
  let w := Desc.w t.desc
  (List.range w).any (fun m => s.keeps t (s.stepIndex t.desc (i / w * w + m)))

/-- This engine's forecast from half CUR (R264). -/
def State.forecast (s : State) (t : Step) : Tab Nat :=
  let d := t.desc
  (List.range (s.shareOf d).2).foldl (fun c i =>
    if s.keepsUnit t i then
      (((s.prevRoute t i).getD []).filter (fun x => x != 0xFFF && decide (x < Desc.e d))).foldl (fun c x =>
        let k := s.instOf d x (s.stepIndex d i)
        Tabs.set zeroNat c k (countOf c k + 1)) c
    else c) []

/-- PREDICTED_SUMMARY: the forecast is complete. The secondary's goes to the primary, which posts a KIND 1 summary before the
measured one; none while the line's VALIDH is 0. -/
def execPredictedSummary (bank : Bool) (peerCounts : List (Nat × Nat)) (s : State) : Res :=
  .next (
    match s.steps.get bank with
    | none => s
    | some t =>
      let valid : Bool := match s.lineOf t with
        | some r => RMap.validH r
        | none => false
      if !Desc.predSummary t.desc || !valid || t.predicted || t.posted || t.cancelled || t.retired then s
      else
        let own := s.forecast t
        let s := if s.primary then s.postSummary bank t.desc 1 (packageCounts own peerCounts)
          else s.toPeer (.counts (Desc.stepId t.desc) true own)
        s.onStep bank (fun t => { t with predicted := true }))

/-! ### The walk -/

/-- What a walk carries from pair to pair: the running counts, the held packets that got their rank, what else joins the
pending lists, entries that a closed slot may settle. -/
structure Walk where
  run : Tab Nat
  held : List Pend
  out : List Pend
  closed : List Nat
deriving DecidableEq, Repr

/-- What holds for the whole walk: capacities in force, the group's totals, a_0 of the first half in two-half mode. -/
structure WalkCtx where
  b : Bool
  t : Step
  caps : Caps
  hist : Tab Nat
  half : Bool
deriving DecidableEq, Repr

/-- A(i) of R126. -/
def WalkCtx.total (c : WalkCtx) (i : Nat) : Nat := min (countOf c.t.scan.totals i) (c.caps.at_ i)

/-- O_m(i). -/
def WalkCtx.offset (c : WalkCtx) (i : Nat) : Nat := countOf (c.t.scan.offs.getD []) i

/-- a_m(i) of R126. -/
def WalkCtx.sent (c : WalkCtx) (i : Nat) : Nat := min (countOf c.hist i) (c.caps.at_ i - c.offset i)

/-- The pair of a rank is the instance's last of the step, or the last of half 0 at the primary. -/
def WalkCtx.final (c : WalkCtx) (i g : Nat) : Bool := g + 1 == c.total i
def WalkCtx.lastOfHalf (c : WalkCtx) (i g : Nat) : Bool := c.half && g + 1 == c.sent i

/-- The weight of an admitted pair enters the step's weight-mass area (R259). -/
def State.addMass (s : State) (b : Bool) (i weight : Nat) : State :=
  let a := s.statAddr (massOff b) i
  let old : F32 := BitVec.ofNat 32 (s.readMemNat a 4)
  s.writeMemNat a 4 (F32.add old (weightVal (s.flag Obj.RZ_WEIGHT_FMT) weight)).toNat

/-- The counts that a pair closes whose packet has left already: markers in its place (R179, R183). -/
def State.walkMarkers (s : State) (c : WalkCtx) (i g : Nat) : List Pend × State :=
  let (h, s) := if c.lastOfHalf i g then
      let (m, s) := s.markerPend c.b c.t i (g + 1) false true
      ([m], s)
    else ([], s)
  if c.final i g then
    let (m, s) := s.markerPend c.b c.t i (g + 1) true false
    (h ++ [m], s)
  else (h, s)

/-- The header of a pair as the walk completes it: its rank, FINAL, HALF_END. -/
def WalkCtx.close (c : WalkCtx) (i g : Nat) (h : BitVec 256) : BitVec 256 :=
  setFld (setFld (setFld h 163 144 g) 48 48 (b2n (c.final i g))) 47 47 (b2n (c.lastOfHalf i g))

/-- An admitted pair (R123, R128, R179, R218): it joins its list, or gets its rank where it was released. -/
def State.admitPair (s : State) (c : WalkCtx) (w : Walk) (e slot g : Nat) (p : Position) : State × Walk :=
  let d := c.t.desc
  let i := p.inst
  let s := (s.addMass c.b i p.weight).onStep c.b (fun t => { t with
    admitted := t.admitted + 1, admits := Tabs.set zeroNat t.admits i (countOf t.admits i + 1) })
  let fresh := s.routedPend c.b c.t e slot g (c.final i g) (c.lastOfHalf i g)
  if p.rstate = 1 then (s.setRstate (Desc.k d) e slot 3 0, { w with out := w.out ++ [fresh] })
  else
    let same (h : BitVec 256) : Bool := samePair h fresh.hdr
    match s.bellows.ctxs.find? (fun x => (match x.st with | .held => true | _ => false) && same x.hdr) with
    | some x =>
      let h := c.close i g x.hdr
      let s := s.setDispCtx { x with hdr := h }
      (s.setRstate (Desc.k d) e slot 3 0, { w with held := w.held ++ [{ fresh with path := x.path, dest := x.dest, hdr := h }] })
    | none =>
      if s.bellows.pend.any (fun q => same q.hdr) then
        let mend (q : Pend) : Pend := if same q.hdr then { q with hdr := c.close i g q.hdr } else q
        let s := { s with bellows := { s.bellows with pend := s.bellows.pend.map mend } }
        (s.setRstate (Desc.k d) e slot 3 0, w)
      else
        let (ms, s) := s.walkMarkers c i g
        (s, { w with out := w.out ++ ms })

/-- An ashed pair (R123, R132, R133). -/
def State.ashPair (s : State) (c : WalkCtx) (w : Walk) (e slot g pidx : Nat) (p : Position) : State × Walk :=
  let s := (s.count Obj.RZ_ASH_CAP 1).postAsh (ashRecord 1 slot (p.inst / 16) (p.inst % 16) pidx (min g 0xFFFFE))
  let s := (s.setRstate (Desc.k c.t.desc) e slot 6 0).onStep c.b (fun t => { t with ashed := t.ashed + 1 })
  (s, { w with closed := w.closed ++ [e] })

/-- One pair of the walk. -/
def State.walkPair (s : State) (c : WalkCtx) (w : Walk) (i slot : Nat) : State × Walk :=
  let d := c.t.desc
  let e := entryOf c.b i
  let p := s.pos (Desc.k d) e slot
  if !Position.pair p then (s, w)
  else
    let g := countOf w.run p.inst
    let w := { w with run := Tabs.set zeroNat w.run p.inst (g + 1) }
    if g < c.caps.at_ p.inst then s.admitPair c w e slot g p else s.ashPair c w e slot g (s.stepIndex d i) p

/-- One token of the walk; in two-half mode its shared packets leave with its routed ones (R183). -/
def State.walkToken (s : State) (c : WalkCtx) (w : Walk) (i : Nat) : State × Walk :=
  let d := c.t.desc
  let e := entryOf c.b i
  let w := if s.flag Obj.RZ_TWO_HALF && s.wasRouted d e then { w with out := w.out ++ s.sharedPends c.b c.t e } else w
  (List.range (Desc.k d)).foldl (fun r slot => r.1.walkPair c r.2 i slot) (s, w)

/-- The markers of a walk's begin: at the first member for each instance whose group total is 0 (R179), at the primary in
two-half mode for each of which half 0 holds no rank (R183). -/
def State.emptyMarkers (s : State) (c : WalkCtx) (w : Walk) : State × Walk :=
  (s.stepInsts c.t.desc).foldl (fun r x =>
    let i := x.1
    let (s, w) := r
    let (s, w) := if c.half && c.sent i == 0 then
        let (m, s) := s.markerPend c.b c.t i 0 false true
        (s, { w with out := w.out ++ [m] })
      else (s, w)
    if c.t.pos = 0 ∧ c.total i = 0 then
      let (m, s) := s.markerPend c.b c.t i 0 true false
      (s, { w with out := w.out ++ [m] })
    else (s, w)) (s, w)

/-- Racks whose open buffer holds a packet of a key. -/
def State.racksOf (s : State) (k : Key) : List Nat :=
  (s.bellows.aggs.filter (fun a => a.hdrs.any (fun h => decide (DHdr.type h < 5 ∧ DHdr.key h = k)))).map (·.rack)

/-- The walk of a bank's step, under the variant in force. -/
def State.walk (s : State) (b : Bool) (t : Step) (v : Nat) : State :=
  let d := t.desc
  let c : WalkCtx :=
    { b := b, t := t, caps := s.caps d v, hist := s.tables.hist.get b, half := s.flag Obj.RZ_TWO_HALF && s.primary }
  let w : Walk := { run := t.scan.offs.getD [], held := [], out := [], closed := [] }
  let (s, w) := s.emptyMarkers c w
  let (s, w) := (List.range (s.shareOf d).2).foldl (fun r i => r.1.walkToken c r.2 i) (s, w)
  let s := (s.joinPend (w.held ++ w.out)).writeMem (s.walkAddr b) (walkBytes w.run)
  let s := s.onStep b (fun t => { t with walked := true, walkAt := s.since t.t0 })
  let s := (w.closed.eraseDups).foldl State.settleToken s
  let s := (s.racksOf (Step.key t)).foldl (fun s r => s.flushLast (Step.key t) r) s
  (s.dispatchProgress (Step.key t)).tryComplete b

/-- The step whose walk may begin (R124, R125): its scan is complete and a variant applied; while timing is repeatable, at
its modelled end of admission (R57). -/
def State.walkable (s : State) : Option (Bool × Step) :=
  if s.role ≠ 0 then none
  else
    s.liveBanks.findSome? (fun b =>
      match s.bankStep b with
      | some t =>
        if t.cancelled || t.walked || t.scan.offs.isNone || (t.variant.isNone && t.waitVerdict.isNone && !s.log.replay) ||
            (s.flag Obj.RZ_TIMING_REPEAT && decide (s.core < t.t0 + t.model.tAd)) then none
        else some (b, t)
      | none => none)

/-- ADMISSION_WALK. A verdict that waited for t_ad is applied first (R57), in a replay the log's (R285); a cancel leaves no
walk. -/
def execAdmissionWalk (s : State) : Res :=
  .next (
    match s.walkable with
    | none => s
    | some (b, t) =>
      let s := match t.waitVerdict with
        | some v => s.applyVariant b v
        | none => if t.variant.isNone then s.replayVerdicts b else s
      match s.bankStep b with
      | some t =>
        match t.variant with
        | some v => if t.cancelled then s else s.walk b t v
        | none => s
      | none => s)

end Sys2Proof.Machine
end

