-- ==== Sys2Proof/Machine/Wards.lean ====
section
/-!
DEFINITION. Faults that monitors find: the step watchdog (R56, R348), clock loss (R319, R347), datapath parity (R341, R342),
and errors of the protected arrays and external regions (R83, R109, R136, R160, R184, R213, R240, R267, R343).
-/

namespace Sys2Proof.Machine

/-! ### The watchdog -/

/-- A phase of Table 2-7 has ended. -/
def phaseEnded (t : Step) : Nat → Bool
  | 0 => t.grateEnd.isSome
  | 1 => t.walked
  | 2 => t.scan.own.isSome
  | 3 => t.dispatched.isSome
  | _ => false

/-- The watchdog's limit of a phase: 1.1 times its deadline, or its modelled end where that is 0, rounded up. -/
def phaseLimit (p : Nat × Nat × Nat) : Nat := ceilDiv (11 * (if p.2.2 = 0 then p.2.1 else p.2.2)) 10

/-- The phase that a step overruns first: its code and limit. -/
def overrunPhase (t : Step) (role since : Nat) : Option (Nat × Nat) :=
  let late := ((phaseEnds t.desc t.model role).filter (fun p => !phaseEnded t p.1)).map (fun p => (p.1, phaseLimit p))
  (late.filter (fun p => decide (p.2 ≤ since))).foldl (fun m p =>
    match m with
    | none => some p
    | some q => if p.2 < q.2 then some p else some q) none

/-- STEP_WATCHDOG. -/
def execStepWatchdog (bank : Bool) (s : State) : Res :=
  .next (
    match s.bankStep bank with
    | none => s
    | some t =>
      if t.cancelled || t.overrun then s
      else
        match overrunPhase t s.role (s.since t.t0) with
        | none => s
        | some (code, limit) =>
          let s := (s.count Obj.RZ_WATCHDOG 1).onStep bank (fun t => { t with overrun := true })
          s.mark bank { code := 0x22, sev := 2, action := 1, loc := code, detail := limit % 2 ^ 32 })

/-! ### Clock loss (Table 14-2) -/

/-- Bits of RZ_CLK_LOST, in Table 13-1's order. -/
inductive ClkKind where
  | fatal
  | ddl (n : Nat)
  | fab (port : Bool)
  | gate
  | xspi
  | dbg
  | none
deriving DecidableEq, Repr

def clkKind (n : Nat) : ClkKind :=
  if n < 3 then .fatal
  else if n < 11 then .ddl (n - 3)
  else if n < 13 then .fab (n == 12)
  else if n = 13 then .gate
  else if n < 21 then .fatal
  else if n = 21 then .dbg
  else if n = 22 then .xspi
  else if n = 23 then .fatal
  else .none

/-- The monitors watch the domain: it runs in this state, or its link is up (R319, Table 13-1). -/
def State.watched (s : State) (n : Nat) : Bool :=
  s.mode != .off && (s.mode != .powerFail || n == clkXspi) &&
  match clkKind n with
  | .ddl d => s.diePresent d
  | .fab p => s.fabUp p
  | .gate => s.gateOpen
  | .none => false
  | .fatal =>
    if n = 15 || n = 16 then
      s.lpc == .active
    else s.mode != .banked || n == 14 || n == 17 || n == 18 || n == 23
  | _ => true

/-- A step has an instance on a die of this engine's. -/
def State.onDie (s : State) (d : Desc) (die : Nat) : Bool :=
  (s.stepInsts d).any (fun p => PEntry.node p.2 == s.node && PEntry.die p.2 == die) || s.sharedOn d die != 0

/-- This engine's live steps that meet a test. -/
def State.stepsThat (s : State) (f : Step → Bool) : List Bool :=
  s.liveBanks.filter (fun b => match s.bankStep b with | some t => !t.cancelled && f t | none => false)

/-- A die port's clock is lost: the port is out until kindling, and every open step with an instance on the die is marked. -/
def State.loseDie (s : State) (n : Nat) (ev : SootEv) : State :=
  s.dieOut n (s.stepsThat (fun t => s.onDie t.desc n)) ev

/-- CLOCK_LOSS. -/
def execClockLoss (domain : BitVec 5) (s : State) : Res :=
  let n := domain.toNat
  .next (
    if !s.watched n || (s.obj Obj.RZ_CLK_LOST).testBit n then s
    else
      let s := s.setObj Obj.RZ_CLK_LOST (s.obj Obj.RZ_CLK_LOST ||| 2 ^ n)
      let ev (sev action : Nat) : SootEv := { code := 0x21, sev := sev, action := action, loc := n }
      match clkKind n with
      | .fatal => (s.soot_ (ev 4 8)).faultEntry 9 0x21
      | .ddl d => s.loseDie d (ev 3 5)
      | .fab p =>
        let s := s.soot_ (ev 3 4)
        let port := s.fabric.ports.get p
        State.portDown { s with fabric := { s.fabric with ports := s.fabric.ports.set p { port with lost := true } } } p
      | .gate => let s := s.soot_ (ev 3 4); { s with fabric := { s.fabric with gateLost := true } }
      | .xspi => s.soot_ (ev 3 4)
      | .dbg => s.soot_ (ev 0 0)
      | .none => s)

/-! ### Datapath parity -/

/-- DATAPATH_PARITY_ERROR: a word on a path, the second time in a row or not, and the bank of the step that owns it. A replay
delays the step as an event of R275 does. -/
def execDatapathParityError (path word : BitVec 32) (second : Bool) (owner : Option Bool) (s : State) : Res :=
  .next (
    if !s.clocked then s
    else if second then
      let ev : SootEv := { code := 0x11, sev := 2, action := 1, loc := path.toNat }
      match owner with
      | some b => if s.bankLive b then s.mark b ev else s.soot_ ev
      | none => s.soot_ ev
    else
      let step := (owner.bind s.bankStep).map Step.key
      let s := (s.count Obj.RZ_PARITY_REPLAY 1).soot_
        { code := 0x10, sev := 1, action := 0, loc := path.toNat, detail := word.toNat, step := step }
      match owner with
      | some b => if s.bankLive b then s.onStep b (fun t => { t with broken := true }) else s
      | none => s)

/-! ### Protected arrays -/

/-- Arrays under SECDED: a single-bit error is corrected (R343). The others carry parity, or are external memory. -/
def secded : ArrayId → Bool
  | .ledger | .stash | .pool | .poolLink | .hist | .routerBank | .ownerTable | .groupTable | .placement | .tagState
  | .sootLog | .candidates => true
  | _ => false

/-- Arrays under parity alone: every error is one that is not corrected (R109, R160, R267). -/
def parityOnly : ArrayId → Bool
  | .tensorTable | .tableStore | .hobContext | .collCore | .digestState | .poolPointer => true
  | _ => false

/-- The step whose scoring is under way. -/
def State.grating (s : State) : List Bool :=
  match s.scoring with
  | some (b, t) => if t.grateAt.isSome then [b] else []
  | none => []

/-- A ledger word: the step of the entry's bank is cancelled and marked; where the bank has none the entry is freed (R240,
R343). `index`: word number. -/
def State.ledgerDbe (s : State) (index syn : Nat) : State :=
  let e := index / 8
  let ev : SootEv := { code := 0x13, sev := 2, action := 1, loc := e, detail := index % 8 * 65536 + syn % 65536 }
  if s.bankLive (entryBank e) then s.mark (entryBank e) ev else (s.soot_ ev).setEntry e 0

/-- A return that a context holds has not left: it is taken back (R240). -/
def State.withdraw (s : State) (n : Nat) (p : Packet) : Option State :=
  let mine (w : FabWait) : Bool := match w.serve with | .flue m _ => m == n | _ => false
  let far (w : FarWait) : Bool := decide (w.ctx = some n)
  if s.flue.ownPath.contains p || s.fabric.waitQ.any mine || s.fabric.resend.any (fun w => mine w.2) || s.bellows.farWait.any far then
    some { s with
      flue := { s.flue with ownPath := s.flue.ownPath.erase p }
      fabric := { s.fabric with
        waitQ := s.fabric.waitQ.filter (fun w => !mine w), resend := s.fabric.resend.filter (fun w => !mine w.2) }
      bellows := { s.bellows with farWait := s.bellows.farWait.filter (fun w => !far w) } }
  else none

/-- A stash word, of a context's row: the position it serves becomes 7; a row in transit leaves as a poisoned receipt, where
it has not left yet or must leave again (R240). A combined row that awaits its acknowledgement serves no one position: the
token is poisoned and the step marked (log entry 37). `index`: the context times 2^22 plus the word. -/
def State.stashDbe (s : State) (index syn : Nat) : State :=
  let n := index / 4194304
  let ev : SootEv := { code := 0x14, sev := 2, action := 1, loc := index % 4194304 / 8, detail := syn }
  match s.flueUse n with
  | some (.row e p _ _) => s.poisonMark (entryBank e) e p ev
  | some (.write e _) => s.poisonToken e ev
  | some (.send p _) =>
    let q := receiptOf p true
    let s := (s.soot_ { ev with step := some (RHdr.key p.hdr) }).setFlueCtx n (.send q 0)
    match s.withdraw n p with
    | some s => s.sendReturn n q false
    | none => s
  | some (.reduce p left _) => (s.soot_ { ev with step := some (RHdr.key p.hdr) }).setFlueCtx n (.reduce p left true)
  | none => s.soot_ ev

/-- The list and header of the packet that holds a pool cell; list q * 4 + c is class c of queue q. -/
def State.packetAt (s : State) (cell : Nat) : Option (Nat × BitVec 256) :=
  s.pool.lists.findSome? (fun p =>
    (p.2.find? (fun x => x.cells.any (fun r => decide (r.1 ≤ cell) && decide (cell < r.1 + r.2)))).map (fun x => (p.1, x.hdr)))

/-- A word of a visible packet's cell: its pair is poisoned, its step marked, the slot closes with CANCELLED (R184). The
manual does not say what becomes of the slot's other packets that are not delivered: they are freed before the close (log
entry 37). `index`: word number. -/
def State.poolDbe (s : State) (index syn : Nat) : State :=
  let cell := index / 8
  let ev : SootEv := { code := 0x15, sev := 2, action := 1, loc := cell, detail := syn }
  match s.packetAt cell with
  | none => s.soot_ ev
  | some (l, h) =>
    let q := l / 4
    let k := DHdr.key h
    let ev := { ev with node := some (DHdr.srcNode h) }
    let s := (s.dropPackets q k).cancelSlot q k (DHdr.placeEpoch h)
    if DHdr.srcNode h = s.node then s.poisonPair h ev else s.failStep (DHdr.srcNode h) k ev

/-- A link or owner word of a pool cell: its list is reset as for a list pointer (R184); a cell in no packet's list is
linked in the free list, which is rebuilt. -/
def State.linkDbe (s : State) (cell : Nat) : State :=
  let w : Sweep := match s.packetAt cell with
    | some (l, _) => .list (l / 4) (l % 4)
    | none => .free
  { s with pool := { s.pool with sweeps := s.pool.sweeps ++ [w] } }

/-- A histogram count: bank and instance (R136). -/
def State.histDbe (s : State) (index : Nat) : State :=
  let b := index / 65536 % 2 == 1
  let i := index % 65536
  let ev : SootEv := { code := 0x16, sev := 2, action := 1, loc := i, detail := b2n b }
  if s.bankLive b then s.mark b ev
  else
    let s := s.soot_ ev
    { s with tables := { s.tables with hist := s.tables.hist.set b (Tabs.set zeroNat (s.tables.hist.get b) i 0) } }

/-- An entry of the top-k unit's candidate buffer: the step that scores (R136). LOC, which Table 14-6 gives as an instance, is a
free value. -/
def State.candidateDbe (s : State) : State :=
  let (v, s) := s.takeFree
  let b := (s.grating).head?
  let ev : SootEv := { code := 0x16, sev := 2, action := 1, loc := bits v.toNat 15 0, detail := b2n (b.getD false) }
  match b with
  | some b => s.mark b ev
  | none => s.soot_ ev

/-- A byte of a router bank: the bank is invalid and its digest is formed anew (R83, R287). The step that holds the word is
marked: an accepted step that names the bank and has not ended scoring, whether or not it has begun (log entry 38). -/
def State.rbankDbe (s : State) (index : Nat) : State :=
  let b := index / 4194304 % 2 == 1
  let ev : SootEv := { code := 0x17, sev := 3, action := 5, loc := b2n b, detail := index % 4194304 }
  ((s.setObj (rbankStateKey b) 8).formWt b).markSteps
    (s.stepsThat (fun t => Desc.routerBank t.desc == b && t.grateEnd.isNone)) ev

/-- A word of the owner table, or a record of the tensor table: the layout is invalid, steps that read it are marked (R160). -/
def State.layoutDbe (s : State) (index table : Nat) : State :=
  (s.setObj Obj.RZ_LAYOUT_STATE 8).markSteps (s.stepsThat (fun _ => true))
    { code := 0x18, sev := 3, action := 5, loc := index, detail := table }

/-- A group: invalid until a commit or a table write replaces it (R267). -/
def State.groupDbe (s : State) (index : Nat) : State :=
  let g := index / 4096
  let s := s.soot_ { code := 0x19, sev := 3, action := 4, loc := g, detail := index % 4096 }
  { s with tables := { s.tables with badGroups := (s.tables.badGroups ++ [g]).eraseDups } }

/-- A placement bank: RZ_PLACE_STATE is 8, in-flight steps at its epoch are marked, and later ones refused with ADMIT_EPOCH
until a commit passes (R267). -/
def State.placeDbe (s : State) (index : Nat) : State :=
  let b := index / 65536 % 2 == 1
  let s := s.setObj Obj.RZ_PLACE_STATE 8
  let s := if (s.obj Obj.RZ_PLACE_EPOCH % 2 == 1) = b then { s with tables := { s.tables with placed := false } } else s
  s.markSteps (s.stepsThat (fun t => (Desc.placeEpoch t.desc % 2 == 1) == b))
    { code := 0x1A, sev := 3, action := 5, loc := b2n b, detail := index % 65536 }

/-- The slots of the function-table store that a step's scoring reads: those of its gate mode (Table 4-11), the reciprocal
square root of its norm (R76), the activation of its hidden layer (R107), the functions of its codes (R81, R82), the
reciprocal in VG3 mode (R108). Sigmoid reads exp's coefficients too (R376). -/
def State.slotsUsed (s : State) (d : Desc) : List Nat :=
  let h := s.bankHdr (Desc.routerBank d)
  let fn := s.obj Obj.RZ_SCORE_FN
  let gate := if Desc.gateMode d ≤ 1 then [0] else if fn = 3 then [0, 3] else []
  let hidden := if BankHdr.h h = 0 then [] else [if BankHdr.hidAct h then 6 else 5]
  let time := if Desc.timeEn d && !BankHdr.timeArg h then [2] else []
  let codes := if Desc.timeEn d || Desc.posEn d then [7, 8] else []
  s.slotsRead d ++ gate ++ [10] ++ hidden ++ time ++ codes ++ (if Desc.vg3 d then [9] else [])

/-- The hob contexts that a step's scoring uses (Table 4-2). -/
def State.contextsUsed (s : State) (d : Desc) : List Nat :=
  let h := s.bankHdr (Desc.routerBank d)
  [Desc.gateMode d] ++ (if BankHdr.h h = 0 then [] else [if BankHdr.hidAct h then 5 else 4]) ++
  (if Desc.timeEn d || Desc.posEn d then [6] else [])

/-- The step that scores, where its scoring reads what a test of its descriptor tells. -/
def State.gratingThat (s : State) (f : Desc → Bool) : List Bool :=
  s.grating.filter (fun b => match s.bankStep b with | some t => f t.desc | none => false)

/-- A record of the function-table store: reloaded from ROM, or the loaded slot is invalid and D_wt formed anew; the step in
progress that reads the slot is marked (R109, R287). `index`: slot and record. -/
def State.tableParity (s : State) (index : Nat) : State :=
  let slot := index / 256
  let loaded := inRange 11 15 slot
  let bs := s.gratingThat (fun d => (s.slotsUsed d).contains slot)
  let s := if loaded then ((s.setObj (ftabStateKey slot) 8).formWt false).formWt true else s
  s.markSteps bs { code := 0x1B, sev := 2, action := if loaded then 5 else 3, loc := slot, detail := index % 256 }

/-- A hob context: reloaded from ROM; the step in progress that uses it is marked (R109). -/
def State.hobParity (s : State) (context : Nat) : State :=
  s.markSteps (s.gratingThat (fun d => (s.contextsUsed d).contains context))
    { code := 0x1B, sev := 2, action := 3, loc := 0x100 + context }

/-- Tag state: every operation of the tag ends as unknown (R213). -/
def State.tagDbe (s : State) (index : Nat) : State :=
  let s := s.soot_ { code := 0x1C, sev := 2, action := 1, loc := index % 2048 }
  (s.fabric.ops.filter (fun o => b2n o.port * 1024 + o.tag == index % 2048)).foldl State.declareUnknown s

/-- A soot entry reads as code 0xFF, SEV 3, with its SEQ (R351). `index`: word number, four to an entry. -/
def State.sootDbe (s : State) (index : Nat) : State :=
  let i := index / 4 % 1024
  let old := Tabs.get sootZero s.soot.ring i
  let new := packed 256 [(8, 0xFF), (3, 3), (213, 0), (32, fld old 31 0)]
  { s with soot := { s.soot with ring := Tabs.set sootZero s.soot.ring i new } }

/-- Collective-core memory: the running program, or a step's scan, fails; where none runs the error is entered alone (R267). -/
def State.collParity (s : State) : State :=
  match s.colls.now with
  | some c => s.collFail c c.pos
  | none =>
    match s.stepsThat (fun t => s.countsFinal t && t.scan.offs.isNone) with
    | b :: _ =>
      match s.bankStep b with
      | some t => s.scanFail b t.pos
      | none => s
    | [] => s.soot_ { code := 0x70, sev := 2, action := 1 }

/-- EXT_UNCORR of an address. -/
def extUncorr (addr detail : Nat) : SootEv :=
  { code := 0x1D, sev := 2, action := 1, loc := addr / 64 % 2 ^ 32, detail := detail }

/-- The walk counters of a bank's step (R136). -/
def State.walkUncorr (s : State) (index : Nat) : State :=
  let b := index / 65536 % 2 == 1
  let ev := extUncorr (s.walkAddr b + 4 * (index % 65536)) 3
  if s.bankLive b then s.mark b ev else s.soot_ ev

/-- A token whose staged return, or extension record, cannot be read (R240). A retired token's extension record is read by the walk
too (R123): its step is marked until the walk has ended. -/
def State.tokenUncorr (s : State) (e addr detail : Nat) : State :=
  let ev := extUncorr addr detail
  let walks := match s.bankStep (entryBank e) with
    | some t => !t.walked
    | none => false
  if LEntry.state (s.entry e) = 2 ∨ LEntry.state (s.entry e) = 6 then s.poisonToken e ev
  else if detail = 2 ∧ walks = true then s.mark (entryBank e) ev
  else s.soot_ ev

/-- Tokens of a step whose previous route records lie in a 64-byte word of route memory, by its address ÷ 64. -/
def State.routesAt (s : State) (t : Step) (word : Nat) : List Nat :=
  match s.lineOf t with
  | none => []
  | some r =>
    let base := s.halfAddr r (RMap.cur r)
    (List.range (Desc.n t.desc)).filter (fun i =>
      decide (base + i * RMap.rb r < 64 * word + 64) && decide (64 * word < base + (i + 1) * RMap.rb r))

/-- A route record cannot be read, by the scoring or the forecast of an accepted step whose it is: it is counted, its tokens have
no previous record, and under hysteresis the step is marked (R264, R267). `index`: the record's address ÷ 64. -/
def State.routeUncorr (s : State) (index : Nat) : State :=
  let bs := s.stepsThat (fun t => !(s.routesAt t index).isEmpty)
  let ev := { extUncorr (64 * index) 4 with step := (bs.head?.bind s.bankStep).map Step.key }
  let lose (s : State) (b : Bool) : State :=
    s.onStep b (fun t => { t with badRoutes := (t.badRoutes ++ s.routesAt t index).eraseDups })
  let s := bs.foldl lose (s.count Obj.RZ_ROUTE_BAD_RECORD 1)
  if s.flag Obj.RZ_HYST_EN then s.markSteps bs ev else s.soot_ ev

/-- A pool pointer's copies differ, until an update detects it (R175). -/
def State.pointerDiffers (s : State) (index : Nat) : State :=
  let w : Sweep := if index = 8192 then .free else .list (index / 4) (index % 4)
  if 8192 < index || s.pool.differ.contains w then s
  else { s with pool := { s.pool with differ := s.pool.differ ++ [w] } }

/-- The last record's LPDDR5X write has failed: it is written again at the next position under a new SEQ (R290). -/
def State.logFailed (s : State) : State :=
  match s.log.last with
  | none => s
  | some e => (s.soot_ { code := 0x90, sev := 1, action := 0, loc := (s.log.seq.toNat - 1) % 2 ^ 32 }).logRecord e

/-- What an error that is not corrected does, by the array's owner. -/
def State.arrayError (s : State) (array : ArrayId) (index syn : Nat) : State :=
  match array with
  | .ledger => s.ledgerDbe index syn
  | .stash => s.stashDbe index syn
  | .pool => s.poolDbe index syn
  | .poolLink => s.linkDbe index
  | .hist => s.histDbe index
  | .routerBank => s.rbankDbe index
  | .ownerTable => s.layoutDbe (index / 2) 0
  | .tensorTable => s.layoutDbe index 1
  | .groupTable => s.groupDbe index
  | .placement => s.placeDbe index
  | .tableStore => s.tableParity index
  | .hobContext => s.hobParity index
  | .tagState => s.tagDbe index
  | .sootLog => s.sootDbe index
  | .collCore => s.collParity
  | .walkCounters => s.walkUncorr index
  | .staging => s.tokenUncorr (index / s.obj Obj.RZ_STAGE_POS) (s.obj Obj.RZ_STAGE_BASE + index * s.obj Obj.RZ_STAGE_ROW) 1
  | .ledgerExt => s.tokenUncorr index (s.extAddr index) 2
  | .routeRecord => s.routeUncorr index
  | .replyCache => s
  | .candidates => s.candidateDbe
  | .logWrite => s.logFailed
  | .digestState => s.digestParity index
  | .poolPointer => s.pointerDiffers index

/-- The code that a double-bit error in a SECDED array carries (R355, Table 14-6). -/
def State.arrayCode (s : State) (array : ArrayId) (index : Nat) : Nat :=
  match array with
  | .ledger => 0x13
  | .stash => 0x14
  | .pool => 0x15
  | .poolLink => if (s.packetAt index).isSome then 0x42 else 0x43
  | .candidates => 0x16
  | .hist => 0x16
  | .routerBank => 0x17
  | .ownerTable => 0x18
  | .tensorTable => 0x18
  | .groupTable => 0x19
  | .placement => 0x1A
  | .tableStore => 0x1B
  | .hobContext => 0x1B
  | .tagState => 0x1C
  | .sootLog => 0xFF
  | .collCore => 0x70
  | .walkCounters => 0x1D
  | .staging => 0x1D
  | .ledgerExt => 0x1D
  | .routeRecord => 0x1D
  | .replyCache => 0x1D
  | .logWrite => 0x90
  | .digestState => 0x91
  | .poolPointer => if index = 8192 then 0x43 else 0x42

/-- The number of the 64-bit word that an index names, as code 0x12 gives it. -/
def wordIndex (array : ArrayId) (index : Nat) : Nat :=
  match array with
  | .stash => index % 4194304
  | .routerBank => index / 8
  | .groupTable => index / 2
  | _ => index

/-- An array holds something that can be read: from the end of kindling's phase 2 on; the soot log always (R343, R354). -/
def State.arrayLive (s : State) (array : ArrayId) : Bool :=
  s.clocked && (s.mode != .kindling || decide (2 < s.kindle.phase) || array == .sootLog)

/-- An error is found in a word of an array: a single-bit error under SECDED is corrected, counted and recorded with the
array's code (R343, R355); one in external memory is corrected by that memory's ECC. -/
def State.foundError (s : State) (e : ScrubError) : State :=
  if !s.arrayLive e.array then s
  else if secded e.array then
    if e.double then (s.count Obj.RZ_SECDED_UNCORR 1).arrayError e.array e.index e.syndrome.toNat
    else
      (s.count Obj.RZ_SECDED_CORR 1).soot_
        { code := 0x12, sev := 1, action := 0, detail := e.syndrome.toNat
          loc := s.arrayCode e.array e.index * 2 ^ 24 + wordIndex e.array e.index % 2 ^ 24 }
  else if e.double || parityOnly e.array then s.arrayError e.array e.index e.syndrome.toNat
  else s

/-- A scrub pass ends: RZ_SCRUB_LAST is the time since kindling began, in milliseconds (R344). -/
def State.endPass (s : State) : State :=
  if s.mode = .off then s else s.setObj Obj.RZ_SCRUB_LAST ((s.core - s.kindle.started) / 1200000 % 2 ^ 32)

/-- PATROL_SCRUB: an error that the scrubber, a parity check, or the NoC's report finds in a word of an array; or the word
that ends a pass; or both. -/
def execPatrolScrub (error : Option ScrubError) (passEnd : Bool) (s : State) : Res :=
  let s := match error with
    | some e => s.foundError e
    | none => s
  .next (if passEnd then s.endPass else s)

end Sys2Proof.Machine
end

