-- ==== Sys2Proof/Machine/Objects.lean ====
section
/-!
DEFINITION. A scalar write of any object (R301 to R306, Table 12-6). An object whose write is a command has the
rules and the effect of that command's own row, so that the two ways to give it cannot differ.
-/

namespace Sys2Proof.Machine

/-- An object's own rules for a value. -/
def State.ownRules (s : State) (key v : Nat) : OwnRules :=
  if key = Obj.RZ_STATE_CMD then stateCmdRules s v
  else if key = Obj.RZ_SEQ_CMD then seqCmdRules s v
  else if key = Obj.RZ_RBANK_CTRL then rbankRules s v
  else if key = Obj.RZ_FTAB_CTRL then ftabRules s v
  else if key = Obj.RZ_NOISE_SEED then seedRules s
  else if key = Obj.RZ_SKIP_CTRL then skipRules v
  else if key = Obj.RZ_PLACE_CTRL then placeRules s v
  else if key = Obj.RZ_DIGEST_CTRL then digestRules s v
  else if key = Obj.RZ_LAYOUT_COMMIT then layoutCommitRules v
  else if key = Obj.RZ_PERSIST_CMD then persistRules s v
  else if key = Obj.RZ_XSPI_CMD then xspiRules s v
  else if key = Obj.RZ_DOMAIN_STAGE then { OwnRules.plain with busy := s.dict.xfer.isSome }
  else OwnRules.plain

/-- The effect of a value an object takes. -/
def State.ownEffect (r : OdReq) (s : State) : State :=
  let key := odKey r
  let v := odVal r
  if key = Obj.RZ_STATE_CMD then s.stateCmd v
  else if key = Obj.RZ_SEQ_CMD then s.seqCmd v
  else if key = Obj.RZ_VERDICT then s.verdictWrite (BitVec.ofNat 64 v)
  else if key = Obj.RZ_CANCEL then s.cancelWrite (BitVec.ofNat 64 v)
  else if key = Obj.RZ_RBANK_CTRL then s.rbankGo v
  else if key = Obj.RZ_FTAB_CTRL then s.ftabGo v
  else if key = Obj.RZ_NOISE_SEED then s.seedWrite v
  else if key = Obj.RZ_SKIP_CTRL then s.skipGo v
  else if key = Obj.RZ_PLACE_CTRL then s.placeGo v
  else if key = Obj.RZ_DIGEST_CTRL then s.digestStart v
  else if key = Obj.RZ_LAYOUT_COMMIT then s.layoutGo
  else if key = Obj.RZ_FTIME_NEXT then s.armFtime v
  else if key = Obj.RZ_STOKE_EN then s.stokeWrite v
  else if key = Obj.RZ_EXPERT_UNLOCK then s.unlock r.path v
  else if key = Obj.RZ_ALERT_ACK then s.ackAlerts v
  else if key = Obj.RZ_PERSIST_CMD then s.takeXCmd (persistCmd v)
  else if key = Obj.RZ_XSPI_CMD then s.takeXCmd (xspiCmd v)
  else if key = Obj.RZ_LJOB_TAIL then (plainEffect r s).pollStart
  else if key = Obj.RZ_LOG_TAIL ∨ key = Obj.RZ_LOG_EN then (plainEffect r s).drainLog
  else plainEffect r s

/-- A write request. -/
def State.objectWrite (s : State) (r : OdReq) : State :=
  odWrite s r (s.ownRules (odKey r) (odVal r)) (State.ownEffect r)

end Sys2Proof.Machine
end

