-- ==== Sys2Proof/Machine/Window.lean ====
section
/-!
DEFINITION. The register window (R304 to R306, Table 12-9), register by register, and the rows READ and OBJECT_WRITE: a request
of the dictionary, or one access of a register of the window.
-/

namespace Sys2Proof.Machine

namespace Win
abbrev id : Nat := 0x0000
abbrev state : Nat := 0x0008
abbrev oaAddr : Nat := 0x0100
abbrev oaData : Nat := 0x0108
abbrev oaCmd : Nat := 0x0110
abbrev oaStatus : Nat := 0x0118
abbrev dbVerdict : Nat := 0x0200
abbrev dbCancel : Nat := 0x0208
abbrev dbSeqCmd : Nat := 0x0210
abbrev dbStatus : Nat := 0x0218
abbrev mbCmd : Nat := 0x1000
abbrev mbAddr : Nat := 0x1008
abbrev mbOffset : Nat := 0x1010
abbrev mbLen : Nat := 0x1018
abbrev mbStatus : Nat := 0x1020
abbrev mbBuf : Nat := 0x8000
end Win

/-- Registers that are only written; what a read of one returns is not stated. -/
def winWriteOnly : List Nat := [Win.oaCmd, Win.dbVerdict, Win.dbCancel, Win.dbSeqCmd, Win.mbCmd]

/-- A status register shows BUSY: the access may be under way until a cycle, and `busy` says that it is (log entry 38). -/
def State.shows (s : State) (busy : Bool) (until_ : Nat) : Nat := if busy ∧ s.core < until_ then 256 else 0

/-- The register at an offset that is a multiple of 8; an offset that Table 12-9 does not name reads as 0, and so do the reserved
bits of OA_ADDR and MB_ADDR (R12), which make the request of a command a bad one while they are set. `f` is what a
write-only register reads as. -/
def State.winReg (s : State) (busy : Bool) (f : Nat) (o : Nat) : Nat :=
  let d := s.dict
  if o = Win.id then 0x4F440003
  else if o = Win.state then s.obj Obj.RZ_ALERT_CAUSE * 2 ^ 32 + s.shown.code
  else if o = Win.oaAddr then fld d.oaAddr 23 0
  else if o = Win.oaData then d.oaData.toNat
  else if o = Win.oaStatus then d.oaCount.toNat * 2 ^ 16 + s.shows busy d.oaUntil + d.oaStatus.toNat
  else if o = Win.dbStatus then d.dbLast.toNat * 256 + d.dbStatus.toNat
  else if o = Win.mbAddr then fld d.mbAddr 23 0
  else if o = Win.mbOffset then d.mbOffset.toNat
  else if o = Win.mbLen then d.mbLen.toNat
  else if o = Win.mbStatus then s.shows busy d.mbUntil + d.mbStatus.toNat
  else if Win.mbBuf ≤ o ∧ o < 0x10000 then d.mbBuf.readNat (o - Win.mbBuf) 8
  else if winWriteOnly.contains o then f
  else 0

/-- A byte of the window: of the aligned register that it lies in. -/
def State.winByte (s : State) (busy : Bool) (f : Nat) (a : Nat) : Byte :=
  (leBytes 8 (s.winReg busy f (a - a % 8))).getD (a % 8) 0

/-- A read of the window: the addressed bytes; in OFF every offset reads as 0 (R304). -/
def State.windowRead (s : State) (r : OdReq) : State :=
  let a := r.offset.toNat
  let n := min 8 r.len.toNat
  if s.mode = .off then s.emit (.window (List.replicate n 0))
  else if winWriteOnly.contains (a - a % 8) then
    let (f, s) := s.takeFree
    s.emit (.window ((List.range n).map (fun i => s.winByte r.tag.busy f.toNat (a + i))))
  else s.emit (.window ((List.range n).map (fun i => s.winByte r.tag.busy 0 (a + i))))

/-- The request that OA_CMD or MB_CMD starts, from ADDR: other bits than index and subindex are reserved. -/
def winReq (tag : ReqTag) (addr : BitVec 64) (len offset : Nat) (data : List Byte) : OdReq :=
  { scalarReq .port tag (fld addr 23 0) 0 with
    rsv := if fld addr 63 24 = 0 then 0 else 1
    len := BitVec.ofNat 16 len, offset := BitVec.ofNat 32 offset, data := data }

/-- An access that a register of the window starts leaves ADDR, OFFSET and LEN as the host wrote them, and OA_DATA on a write.
-/
def State.keepPort (s t : State) (keepData : Bool) : State :=
  { t with dict := { t.dict with
      oaAddr := s.dict.oaAddr, oaData := if keepData then s.dict.oaData else t.dict.oaData
      mbAddr := s.dict.mbAddr, mbOffset := s.dict.mbOffset, mbLen := s.dict.mbLen } }

/-- OA_CMD: 1 READ, 2 WRITE; other values are ignored and counted (Table 12-9). -/
def State.winOaCmd (s : State) (tag : ReqTag) (v : Nat) : State :=
  let r := winReq tag s.dict.oaAddr 0 0 (toBytes s.dict.oaData)
  if v = 1 then s.keepPort (s.objectRead r) false
  else if v = 2 then s.keepPort (s.objectWrite r) true
  else s.count Obj.RZ_OD_REFUSED 1

/-- MB_CMD: the OPs of segments; another is a reserved command (Tables 12-6, 12-9). -/
def State.winMbCmd (s : State) (tag : ReqTag) (op : Nat) : State :=
  let d := s.dict
  let len := if d.mbLen.toNat ≤ 32768 then d.mbLen.toNat else 0
  let r := winReq tag d.mbAddr len (min d.mbOffset.toNat 0xFFFFFFFF) (d.mbBuf.read 0 len)
  let t :=
    if op = 3 then s.segRead { r with data := [] }
    else if op = 4 then s.segWrite r 4 false
    else if op = 5 then s.segWrite r 5 true
    else
      let s := s.count Obj.RZ_OD_REFUSED 1
      { s with dict := { s.dict with mbStatus := BitVec.ofNat 8 St.badRequest } }
  s.keepPort t true

/-- A doorbell: one object write (R305). -/
def State.winDoorbell (s : State) (tag : ReqTag) (key : Nat) (data : List Byte) : State :=
  s.objectWrite { scalarReq .doorbell tag key 0 with data := data }

/-- A write of the window: 8 bytes to a register; a narrower one is ignored and counted, one to an offset that Table 12-9 does
not name or to a read-only register is ignored (R304). -/
def State.windowWrite (s : State) (r : OdReq) : State :=
  let o := r.offset.toNat
  let v := leNat r.data
  let w : BitVec 64 := BitVec.ofNat 64 v
  if s.mode = .off then s
  else if r.data.length < 8 then s.count Obj.RZ_OD_REFUSED 1
  else if o = Win.oaAddr then { s with dict := { s.dict with oaAddr := w } }
  else if o = Win.oaData then { s with dict := { s.dict with oaData := w } }
  else if o = Win.oaCmd then
    if s.portBusy { r with path := .port } then s.count Obj.RZ_OD_REFUSED 1 else s.winOaCmd r.tag v
  else if o = Win.dbVerdict then s.winDoorbell r.tag Obj.RZ_VERDICT r.data
  else if o = Win.dbCancel then s.winDoorbell r.tag Obj.RZ_CANCEL r.data
  else if o = Win.dbSeqCmd then s.winDoorbell r.tag Obj.RZ_SEQ_CMD r.data
  else if o = Win.mbCmd then s.winMbCmd r.tag (v % 256)
  else if o = Win.mbAddr then { s with dict := { s.dict with mbAddr := w } }
  else if o = Win.mbOffset then { s with dict := { s.dict with mbOffset := w } }
  else if o = Win.mbLen then { s with dict := { s.dict with mbLen := w } }
  else if Win.mbBuf ≤ o ∧ o < 0x10000 then
    { s with dict := { s.dict with mbBuf := s.dict.mbBuf.write (o - Win.mbBuf) (r.data.take 8) } }
  else s

/-- READ. -/
def execRead (r : OdReq) (s : State) : Res := .next (if r.path = .window then s.windowRead r else s.objectRead r)

/-- OBJECT_WRITE. -/
def execObjectWrite (r : OdReq) (s : State) : Res := .next (if r.path = .window then s.windowWrite r else s.objectWrite r)

end Sys2Proof.Machine
end

