-- ==== Sys2Proof/Machine/Dispatch.lean ====
section
/-!
DEFINITION. The command that exec runs: one arm for each constructor, each one direct call of the command's meaning.
-/

namespace Sys2Proof.Machine

def exec (i : Instr) (s : State) : Host.Outcome State Fault Refusal :=
  match i with
  -- power, reset and kindling
  | .powerGood location eng grade14 => Sys2Proof.Machine.execPowerGood location eng grade14 s
  | .powerRemoved => Sys2Proof.Machine.execPowerRemoved s
  | .packageReset => Sys2Proof.Machine.execPackageReset s
  | .referenceCheck fail => Sys2Proof.Machine.execReferenceCheck fail s
  | .nodeIdFormed lockstepFail => Sys2Proof.Machine.execNodeIdFormed lockstepFail s
  | .marchTest fail => Sys2Proof.Machine.execMarchTest fail s
  | .romLoads fail => Sys2Proof.Machine.execRomLoads fail s
  | .unitSelfTests fail pipePair => Sys2Proof.Machine.execUnitSelfTests fail pipePair s
  | .persistRestore => Sys2Proof.Machine.execPersistRestore s
  | .dieLinkTraining fail => Sys2Proof.Machine.execDieLinkTraining fail s
  | .lpddrTraining fail => Sys2Proof.Machine.execLpddrTraining fail s
  | .packageBarrier peerRole => Sys2Proof.Machine.execPackageBarrier peerRole s
  | .packageBarrierTimeout => Sys2Proof.Machine.execPackageBarrierTimeout s
  | .trayMasterListenEnd => Sys2Proof.Machine.execTrayMasterListenEnd s
  | .presencePulseTimer nearStep => Sys2Proof.Machine.execPresencePulseTimer nearStep s
  | .presencePulse high ownDriven => Sys2Proof.Machine.execPresencePulse high ownDriven s
  | .trayBarrierTimeout => Sys2Proof.Machine.execTrayBarrierTimeout s
  | .bank path tag => Sys2Proof.Machine.execBank path tag s
  | .unbank path tag => Sys2Proof.Machine.execUnbank path tag s
  | .unbankReady => Sys2Proof.Machine.execUnbankReady s
  | .reset path tag => Sys2Proof.Machine.execReset path tag s
  -- the sequencer
  | .start path tag => Sys2Proof.Machine.execStart path tag s
  | .startBarrierRelease => Sys2Proof.Machine.execStartBarrierRelease s
  | .skip path tag => Sys2Proof.Machine.execSkip path tag s
  | .retry path tag => Sys2Proof.Machine.execRetry path tag s
  | .abort path tag => Sys2Proof.Machine.execAbort path tag s
  | .step => Sys2Proof.Machine.execStep s
  | .loop => Sys2Proof.Machine.execLoop s
  | .mark => Sys2Proof.Machine.execMark s
  | .halt => Sys2Proof.Machine.execHalt s
  | .haltRetired => Sys2Proof.Machine.execHaltRetired s
  | .collBarrier => Sys2Proof.Machine.execCollBarrier s
  | .collFusedBarrier => Sys2Proof.Machine.execCollFusedBarrier s
  | .collStats => Sys2Proof.Machine.execCollStats s
  | .statsBegin => Sys2Proof.Machine.execStatsBegin s
  | .collRouteGather => Sys2Proof.Machine.execCollRouteGather s
  | .collRouteRestore => Sys2Proof.Machine.execCollRouteRestore s
  | .inputPlacementCommit => Sys2Proof.Machine.execInputPlacementCommit s
  | .inputRbankLoad => Sys2Proof.Machine.execInputRbankLoad s
  | .inputSeed => Sys2Proof.Machine.execInputSeed s
  | .inputSkipMask => Sys2Proof.Machine.execInputSkipMask s
  | .inputFtabLoad => Sys2Proof.Machine.execInputFtabLoad s
  -- host inputs
  | .verdict path tag word => Sys2Proof.Machine.execVerdict path tag word s
  | .verdictTimeout => Sys2Proof.Machine.execVerdictTimeout s
  | .hostCancel path tag word => Sys2Proof.Machine.execHostCancel path tag word s
  | .hostInputForward input => Sys2Proof.Machine.execHostInputForward input s
  | .rbankFullLoad path tag ctrl => Sys2Proof.Machine.execRbankFullLoad path tag ctrl s
  | .rbankHeaderLoad path tag ctrl => Sys2Proof.Machine.execRbankHeaderLoad path tag ctrl s
  | .rbankLoadDone unreadable => Sys2Proof.Machine.execRbankLoadDone unreadable s
  | .ftabLoad path tag ctrl => Sys2Proof.Machine.execFtabLoad path tag ctrl s
  | .ftabLoadDone => Sys2Proof.Machine.execFtabLoadDone s
  | .noiseSeedWrite path tag v => Sys2Proof.Machine.execNoiseSeedWrite path tag v s
  | .skipMaskGo path tag ctrl => Sys2Proof.Machine.execSkipMaskGo path tag ctrl s
  | .placeGo path tag ctrl => Sys2Proof.Machine.execPlaceGo path tag ctrl s
  | .placeCommitBegin => Sys2Proof.Machine.execPlaceCommitBegin s
  | .placeDecision commit => Sys2Proof.Machine.execPlaceDecision commit s
  | .expertWdigestWrite r => Sys2Proof.Machine.execExpertWdigestWrite r s
  | .digestPhase1 path tag => Sys2Proof.Machine.execDigestPhase1 path tag s
  | .digestPhase2 path tag => Sys2Proof.Machine.execDigestPhase2 path tag s
  | .digestPhaseDone readError => Sys2Proof.Machine.execDigestPhaseDone readError s
  | .layoutCommit path tag v => Sys2Proof.Machine.execLayoutCommit path tag v s
  | .ftimeNextWrite path tag v => Sys2Proof.Machine.execFtimeNextWrite path tag v s
  | .expertUnlock path tag v => Sys2Proof.Machine.execExpertUnlock path tag v s
  | .alertAck path tag v => Sys2Proof.Machine.execAlertAck path tag v s
  -- the object dictionary
  | .objectWrite r => Sys2Proof.Machine.execObjectWrite r s
  | .read r => Sys2Proof.Machine.execRead r s
  | .segRead r => Sys2Proof.Machine.execSegRead r s
  | .segWrite r => Sys2Proof.Machine.execSegWrite r s
  | .segWriteEnd r => Sys2Proof.Machine.execSegWriteEnd r s
  | .domainTransferTimeout => Sys2Proof.Machine.execDomainTransferTimeout s
  | .setEndpointId inst op eid => Sys2Proof.Machine.execSetEndpointId inst op eid s
  | .getEndpointId inst => Sys2Proof.Machine.execGetEndpointId inst s
  | .getEndpointUuid inst => Sys2Proof.Machine.execGetEndpointUuid inst s
  | .getMctpVersionSupport inst msgType => Sys2Proof.Machine.execGetMctpVersionSupport inst msgType s
  | .getMessageTypeSupport inst => Sys2Proof.Machine.execGetMessageTypeSupport inst s
  | .getVendorDefinedMessageSupport inst selector => Sys2Proof.Machine.execGetVendorDefinedMessageSupport inst selector s
  | .errorUnsupportedCmd inst cmd => Sys2Proof.Machine.execErrorUnsupportedCmd inst cmd s
  -- persistence
  | .save path tag => Sys2Proof.Machine.execSave path tag s
  | .edit path tag => Sys2Proof.Machine.execEdit path tag s
  | .clear path tag => Sys2Proof.Machine.execClear path tag s
  | .placeSave path tag => Sys2Proof.Machine.execPlaceSave path tag s
  | .placeLoad path tag => Sys2Proof.Machine.execPlaceLoad path tag s
  | .sootSnap path tag => Sys2Proof.Machine.execSootSnap path tag s
  | .logRead path tag => Sys2Proof.Machine.execLogRead path tag s
  | .logFree path tag => Sys2Proof.Machine.execLogFree path tag s
  | .sootRead path tag => Sys2Proof.Machine.execSootRead path tag s
  | .logSegmentCommit => Sys2Proof.Machine.execLogSegmentCommit s
  | .persistCommitDone writeOk failAddr => Sys2Proof.Machine.execPersistCommitDone writeOk failAddr s
  | .autoCommitRetry => Sys2Proof.Machine.execAutoCommitRetry s
  | .holdupDrop => Sys2Proof.Machine.execHoldupDrop s
  -- layout jobs
  | .ljobCopy readError => Sys2Proof.Machine.execLjobCopy readError s
  | .ljobGather readError => Sys2Proof.Machine.execLjobGather readError s
  | .ljobScatter readError => Sys2Proof.Machine.execLjobScatter readError s
  | .ljobTranspose readError => Sys2Proof.Machine.execLjobTranspose readError s
  | .ljobFill readError => Sys2Proof.Machine.execLjobFill readError s
  | .ljobComplete => Sys2Proof.Machine.execLjobComplete s
  -- a step's phases
  | .stepStartPulse high ownDriven => Sys2Proof.Machine.execStepStartPulse high ownDriven s
  | .syncGlitch high ownDriven => Sys2Proof.Machine.execSyncGlitch high ownDriven s
  | .admissionCheck => Sys2Proof.Machine.execAdmissionCheck s
  | .scorePhaseBegin mismatch => Sys2Proof.Machine.execScorePhaseBegin mismatch s
  | .scoredUnit mismatch => Sys2Proof.Machine.execScoredUnit mismatch s
  | .rowGatherComplete entry => Sys2Proof.Machine.execRowGatherComplete entry s
  | .certaintyRequest stepId entry pairs => Sys2Proof.Machine.execCertaintyRequest stepId entry pairs s
  | .certaintyAnswer stepId entry flags => Sys2Proof.Machine.execCertaintyAnswer stepId entry flags s
  | .stepSummaryPost bank peerCounts => Sys2Proof.Machine.execStepSummaryPost bank peerCounts s
  | .predictedSummary bank peerCounts => Sys2Proof.Machine.execPredictedSummary bank peerCounts s
  | .scanMessage stepId batch dir pos body => Sys2Proof.Machine.execScanMessage stepId batch dir pos body s
  | .admissionWalk => Sys2Proof.Machine.execAdmissionWalk s
  -- dispatch and the hearth pool
  | .dispatchSend path => Sys2Proof.Machine.execDispatchSend path s
  | .busyBackoffExpiry => Sys2Proof.Machine.execBusyBackoffExpiry s
  | .halfZeroAcknowledged => Sys2Proof.Machine.execHalfZeroAcknowledged s
  | .aggFlushAge rack => Sys2Proof.Machine.execAggFlushAge rack s
  | .bulkAck rack seq => Sys2Proof.Machine.execBulkAck rack seq s
  | .bulkTimeout rack seq => Sys2Proof.Machine.execBulkTimeout rack seq s
  | .bulkArrival hdr body chks => Sys2Proof.Machine.execBulkArrival hdr body chks s
  | .poolStore via chk => Sys2Proof.Machine.execPoolStore via chk s
  | .poolWaitingPacketAdmit chk => Sys2Proof.Machine.execPoolWaitingPacketAdmit chk s
  | .queueResetSweepDone => Sys2Proof.Machine.execQueueResetSweepDone s
  | .dieDeliveryTurn port chk => Sys2Proof.Machine.execDieDeliveryTurn port chk s
  | .dieCreditReturn port chk => Sys2Proof.Machine.execDieCreditReturn port chk s
  | .dieStall port => Sys2Proof.Machine.execDieStall port s
  | .cancelNotice n chk => Sys2Proof.Machine.execCancelNotice n chk s
  -- returns and combine
  | .dieReturn port p => Sys2Proof.Machine.execDieReturn port p s
  | .flueStore req p chk cacheReadError => Sys2Proof.Machine.execFlueStore req p chk cacheReadError s
  | .returnPacket via chk => Sys2Proof.Machine.execReturnPacket via chk s
  | .arrivalReceipt via chk => Sys2Proof.Machine.execArrivalReceipt via chk s
  | .drainReceipt p => Sys2Proof.Machine.execDrainReceipt p s
  | .stagingWriteAck entry pos => Sys2Proof.Machine.execStagingWriteAck entry pos s
  | .orderedCombine readError => Sys2Proof.Machine.execOrderedCombine readError s
  | .arrivalZeroWriteAck entry => Sys2Proof.Machine.execArrivalZeroWriteAck entry s
  | .homeWriteAck entry => Sys2Proof.Machine.execHomeWriteAck entry s
  | .cancelFenceComplete bank => Sys2Proof.Machine.execCancelFenceComplete bank s
  | .bankSweepDone bank => Sys2Proof.Machine.execBankSweepDone bank s
  | .cancelFenceTimeout bank => Sys2Proof.Machine.execCancelFenceTimeout bank s
  -- faults and re-runs
  | .stepWatchdog bank => Sys2Proof.Machine.execStepWatchdog bank s
  | .rerunNotice stepId batch code origin => Sys2Proof.Machine.execRerunNotice stepId batch code origin s
  | .rewind => Sys2Proof.Machine.execRewind s
  | .peerLost fate => Sys2Proof.Machine.execPeerLost fate s
  -- the rack fabric
  | .load hdr => Sys2Proof.Machine.execLoad hdr s
  | .store hdr payload => Sys2Proof.Machine.execStore hdr payload s
  | .mstore hdr payload => Sys2Proof.Machine.execMstore hdr payload s
  | .atomFadd hdr payload cacheReadError => Sys2Proof.Machine.execAtomFadd hdr payload cacheReadError s
  | .atomSwap hdr payload cacheReadError => Sys2Proof.Machine.execAtomSwap hdr payload cacheReadError s
  | .atomCas hdr payload cacheReadError => Sys2Proof.Machine.execAtomCas hdr payload cacheReadError s
  | .redAdd hdr payload cacheReadError => Sys2Proof.Machine.execRedAdd hdr payload cacheReadError s
  | .redMax hdr payload cacheReadError => Sys2Proof.Machine.execRedMax hdr payload cacheReadError s
  | .reply via => Sys2Proof.Machine.execReply via s
  | .drain port epoch => Sys2Proof.Machine.execDrain port epoch s
  | .routeChange port epoch => Sys2Proof.Machine.execRouteChange port epoch s
  | .fabricRetryTimer port tag => Sys2Proof.Machine.execFabricRetryTimer port tag s
  | .fabricUnknown port tag => Sys2Proof.Machine.execFabricUnknown port tag s
  | .fabPortDown port => Sys2Proof.Machine.execFabPortDown port s
  | .fabricPortsUp epoch0 epoch1 gateUp => Sys2Proof.Machine.execFabricPortsUp epoch0 epoch1 gateUp s
  | .fabricSendHoldEnd => Sys2Proof.Machine.execFabricSendHoldEnd s
  -- collectives
  | .collMessage group program dir pos body => Sys2Proof.Machine.execCollMessage group program dir pos body s
  | .collTimeout group program pos => Sys2Proof.Machine.execCollTimeout group program pos s
  -- time, temperature and clocks
  | .timepulse => Sys2Proof.Machine.execTimepulse s
  | .timepulseMissed => Sys2Proof.Machine.execTimepulseMissed s
  | .thermalSample t0 t1 t2 t3 => Sys2Proof.Machine.execThermalSample t0 t1 t2 t3 s
  | .thermalBankEntry => Sys2Proof.Machine.execThermalBankEntry s
  | .stokeRampEnd => Sys2Proof.Machine.execStokeRampEnd s
  | .stokeLimitExpiry => Sys2Proof.Machine.execStokeLimitExpiry s
  | .stokeCooldownEnd => Sys2Proof.Machine.execStokeCooldownEnd s
  | .frequencyChangeDeadline => Sys2Proof.Machine.execFrequencyChangeDeadline s
  | .clockLoss domain => Sys2Proof.Machine.execClockLoss domain s
  | .datapathParityError path word second owner => Sys2Proof.Machine.execDatapathParityError path word second owner s
  | .lockstepMismatch => Sys2Proof.Machine.execLockstepMismatch s
  | .patrolScrub error passEnd => Sys2Proof.Machine.execPatrolScrub error passEnd s
  -- JTAG
  | .idcode => Sys2Proof.Machine.execIdcode s
  | .muxCapture => Sys2Proof.Machine.execMuxCapture s
  | .bypass code => Sys2Proof.Machine.execBypass code s
  -- boundary events added at the table's end
  | .barrierArrival src => Sys2Proof.Machine.execBarrierArrival src s
  | .peerLayoutCrc crc => Sys2Proof.Machine.execPeerLayoutCrc crc s
  | .dynamicAddressAssigned addr => Sys2Proof.Machine.execDynamicAddressAssigned addr s
  | .startChecksDone => Sys2Proof.Machine.execStartChecksDone s
  | .xspiReadDone => Sys2Proof.Machine.execXspiReadDone s
  | .holdupOkRise => Sys2Proof.Machine.execHoldupOkRise s
  | .nocReductionAck p => Sys2Proof.Machine.execNocReductionAck p s
  | .dbgFrame => Sys2Proof.Machine.execDbgFrame s

end Sys2Proof.Machine
end

