-- ==== Sys2Proof/Machine/Tick.lean ====
section
/-!
DEFINITION. The passing of one CORE cycle when no command waits.
-/

namespace Sys2Proof.Machine

/-- A CORE cycle: the cycle count and fabric time advance (R277), and at each 100-ns tick of fabric time an operation that
waited for a tag may take it (R194). In OFF no clock runs. Every limit of time is its own command (log entry 4). -/
def State.tick (s : State) : State :=
  match s.mode with
  | .off => s
  | .powerFail => { s with core := s.core + 1 }
  | _ =>
    let f := s.ftime
    let s := { s with core := s.core + 1, ftime := { f with value := f.value + 1 } }
    if s.ftime.value.toNat % 120 = 0 then s.pumpFab else s

end Sys2Proof.Machine
end

