-- ==== Sys2Proof/Machine/Step.lean ====
section
/-!
DEFINITION. One step of the engine: the command at the front of the queue, or one CORE cycle when none waits.
-/

namespace Sys2Proof.Machine

/-- The state with a word's command at the front of its queue; no word spells one (Decode.lean), so the state as it is. -/
def State.withFetchWord (s : State) (nbits w : Nat) : State :=
  match decodeTableWord nbits w with
  | some c => { s with pending := c :: s.pending }
  | none => s

/-- A step takes the command that has waited longest and runs it with the rest of the queue; with none waiting, a CORE
cycle passes (log entry 4). -/
def step (s : State) : Host.Outcome State Fault Refusal :=
  match s.pending with
  | c :: rest => exec c { s with pending := rest }
  | [] => .next s.tick

end Sys2Proof.Machine
end

