-- ==== Sys2Proof/WellFormed.lean ====
section
/-!
DEFINITION. Well-formed commands: what the ports they come in on can carry. exec gives every command its meaning, well
formed or not; the check says which operands a sender can produce.
-/

namespace Sys2Proof

open Sys2Proof.Machine

/-- A path that carries requests of any object: not a doorbell, which writes one object of its own (R305, Table 12-9). -/
def Path.request : Path → Bool
  | .mctp => true
  | .port => true
  | _ => false

/-- A scalar request: a doorbell names its own object; in band OA_DATA carries 8 bytes and nothing of MCTP's (R302, R305). -/
def OdReq.scalarWf (r : OdReq) : Bool :=
  match r.path with
  | .mctp => decide (r.data.length < 65536)
  | .port => decide (r.data.length ≤ 8) && !r.ic && r.badOp.isNone
  | .window => false
  | .doorbell =>
    decide (r.data.length ≤ 8) && !r.ic && r.badOp.isNone && [Obj.RZ_VERDICT, Obj.RZ_CANCEL, Obj.RZ_SEQ_CMD].contains (odKey r)

/-- A segment request: over MCTP, or through the mailbox, whose buffer holds 32,768 B (Table 12-9). -/
def OdReq.segmentWf (r : OdReq) : Bool :=
  match r.path with
  | .mctp => decide (r.data.length < 65536)
  | .port => decide (r.data.length ≤ 32768) && !r.ic && r.badOp.isNone
  | _ => false

/-- One access of a register of the window: naturally aligned, of 1, 2, 4 or 8 bytes (R304). -/
def OdReq.windowWf (r : OdReq) (bytes : Nat) : Bool :=
  r.path == .window && [1, 2, 4, 8].contains bytes && r.offset.toNat % bytes == 0 && decide (r.offset.toNat < 0x10000)

/-- A packet is a header and whole cells of 64 B (chapter 7, the dispatch header). -/
def Packet.wf (p : Packet) : Bool := p.payload.length % 64 == 0

def PoolVia.wf : PoolVia → Bool
  | .own => true
  | .peer p => p.wf
  | .fab _ p _ => p.wf
  | .fabNotice _ _ _ => true

def FlueVia.wf : FlueVia → Bool
  | .own => true
  | .peer p => p.wf
  | .gate p => p.wf

/-- Counts by instance: instances of a placement (R253), each once. -/
def countsWf (l : List (Nat × Nat)) : Bool := l.all (fun p => decide (p.1 < 65536)) && decide (l.map (·.1)).Nodup

/-- A list of counts a scan message carries: no more than there are instances. -/
def countsOk (o : Option (List (BitVec 32))) : Bool := o.all (fun l => decide (l.length ≤ 65536))

def ScanBody.wf (b : ScanBody) : Bool := countsOk b.counts && countsOk b.totals

/-- The program codes of Table 10-1 whose members exchange messages of their own, the vote's among them. -/
def collCodes : List Nat := [0x01, 0x02, 0x03, 0x04, 0x80, 0x81]

/-- A command its port can carry. -/
def Instr.wf (i : Instr) : Bool :=
  match i with
  -- power, reset and kindling
  | .powerGood _ _ _ => true
  | .powerRemoved => true
  | .packageReset => true
  | .referenceCheck _ => true
  | .nodeIdFormed _ => true
  | .marchTest _ => true
  | .romLoads _ => true
  | .unitSelfTests _ _ => true
  | .persistRestore => true
  | .dieLinkTraining _ => true
  | .lpddrTraining _ => true
  | .packageBarrier _ => true
  | .packageBarrierTimeout => true
  | .trayMasterListenEnd => true
  | .presencePulseTimer _ => true
  | .presencePulse high _ => decide (0 < high)
  | .trayBarrierTimeout => true
  | .bank path _ => path.request
  | .unbank path _ => path.request
  | .unbankReady => true
  | .reset path _ => path.request
  -- the sequencer
  | .start _ _ => true
  | .startBarrierRelease => true
  | .skip _ _ => true
  | .retry _ _ => true
  | .abort _ _ => true
  | .step => true
  | .loop => true
  | .mark => true
  | .halt => true
  | .haltRetired => true
  | .collBarrier => true
  | .collFusedBarrier => true
  | .collStats => true
  | .statsBegin => true
  | .collRouteGather => true
  | .collRouteRestore => true
  | .inputPlacementCommit => true
  | .inputRbankLoad => true
  | .inputSeed => true
  | .inputSkipMask => true
  | .inputFtabLoad => true
  -- host inputs
  | .verdict _ _ _ => true
  | .verdictTimeout => true
  | .hostCancel _ _ _ => true
  | .hostInputForward _ => true
  | .rbankFullLoad path _ _ => path.request
  | .rbankHeaderLoad path _ _ => path.request
  | .rbankLoadDone _ => true
  | .ftabLoad path _ _ => path.request
  | .ftabLoadDone => true
  | .noiseSeedWrite path _ _ => path.request
  | .skipMaskGo path _ _ => path.request
  | .placeGo path _ _ => path.request
  | .placeCommitBegin => true
  | .placeDecision _ => true
  | .expertWdigestWrite r => r.segmentWf
  | .digestPhase1 path _ => path.request
  | .digestPhase2 path _ => path.request
  | .digestPhaseDone _ => true
  | .layoutCommit path _ _ => path.request
  | .ftimeNextWrite path _ _ => path.request
  | .expertUnlock path _ _ => path.request
  | .alertAck path _ _ => path.request
  -- the object dictionary
  | .objectWrite r => r.scalarWf || r.windowWf r.data.length
  | .read r => (r.scalarWf && r.path.request) || r.windowWf r.len.toNat
  | .segRead r => r.segmentWf
  | .segWrite r => r.segmentWf
  | .segWriteEnd r => r.segmentWf
  | .domainTransferTimeout => true
  | .setEndpointId inst _ _ => decide (inst.tag.toNat < 32)
  | .getEndpointId inst => decide (inst.tag.toNat < 32)
  | .getEndpointUuid inst => decide (inst.tag.toNat < 32)
  | .getMctpVersionSupport inst _ => decide (inst.tag.toNat < 32)
  | .getMessageTypeSupport inst => decide (inst.tag.toNat < 32)
  | .getVendorDefinedMessageSupport inst _ => decide (inst.tag.toNat < 32)
  | .errorUnsupportedCmd inst _ => decide (inst.tag.toNat < 32)
  -- persistence
  | .save path _ => path.request
  | .edit path _ => path.request
  | .clear path _ => path.request
  | .placeSave path _ => path.request
  | .placeLoad path _ => path.request
  | .sootSnap path _ => path.request
  | .logRead path _ => path.request
  | .logFree path _ => path.request
  | .sootRead path _ => path.request
  | .logSegmentCommit => true
  | .persistCommitDone _ _ => true
  | .autoCommitRetry => true
  | .holdupDrop => true
  -- layout jobs
  | .ljobCopy _ => true
  | .ljobGather _ => true
  | .ljobScatter _ => true
  | .ljobTranspose _ => true
  | .ljobFill _ => true
  | .ljobComplete => true
  -- a step's phases
  | .stepStartPulse high _ => decide (0 < high)
  | .syncGlitch high _ => decide (0 < high)
  | .admissionCheck => true
  | .scorePhaseBegin _ => true
  | .scoredUnit _ => true
  | .rowGatherComplete _ => true
  | .certaintyRequest _ _ pairs => decide (pairs.length ≤ 16)
  | .certaintyAnswer _ _ flags => decide (flags.length ≤ 16)
  | .stepSummaryPost _ peerCounts => countsWf peerCounts
  | .predictedSummary _ peerCounts => countsWf peerCounts
  | .scanMessage _ _ _ pos body => decide (pos < 4096) && body.wf
  | .admissionWalk => true
  -- dispatch and the hearth pool
  | .dispatchSend _ => true
  | .busyBackoffExpiry => true
  | .halfZeroAcknowledged => true
  | .aggFlushAge _ => true
  | .bulkAck _ _ => true
  | .bulkTimeout _ _ => true
  | .bulkArrival _ body _ => decide (body.length < 1048576)
  | .poolStore via _ => via.wf
  | .poolWaitingPacketAdmit _ => true
  | .queueResetSweepDone => true
  | .dieDeliveryTurn _ _ => true
  | .dieCreditReturn _ _ => true
  | .dieStall _ => true
  | .cancelNotice _ _ => true
  -- returns and combine
  | .dieReturn _ p => p.wf
  | .flueStore _ p _ _ => p.wf
  | .returnPacket via _ => via.wf
  | .arrivalReceipt via _ => via.wf
  | .drainReceipt p => p.wf
  | .stagingWriteAck _ _ => true
  | .orderedCombine _ => true
  | .arrivalZeroWriteAck _ => true
  | .homeWriteAck _ => true
  | .cancelFenceComplete _ => true
  | .bankSweepDone _ => true
  | .cancelFenceTimeout _ => true
  -- faults and re-runs
  | .stepWatchdog _ => true
  | .rerunNotice _ _ _ _ => true
  | .rewind => true
  | .peerLost _ => true
  -- the rack fabric
  | .load _ => true
  | .store _ payload => decide (payload.length < 131072)
  | .mstore _ payload => decide (payload.length < 131072)
  | .atomFadd _ payload _ => decide (payload.length < 131072)
  | .atomSwap _ payload _ => decide (payload.length < 131072)
  | .atomCas _ payload _ => decide (payload.length < 131072)
  | .redAdd _ payload _ => decide (payload.length < 131072)
  | .redMax _ payload _ => decide (payload.length < 131072)
  | .reply _ => true
  | .drain _ _ => true
  | .routeChange _ _ => true
  | .fabricRetryTimer _ _ => true
  | .fabricUnknown _ _ => true
  | .fabPortDown _ => true
  | .fabricPortsUp _ _ _ => true
  | .fabricSendHoldEnd => true
  -- collectives
  | .collMessage _ program _ pos _ => collCodes.contains program.toNat && decide (pos < 4096)
  | .collTimeout _ program pos => collCodes.contains program.toNat && decide (pos < 4096)
  -- time, temperature and clocks
  | .timepulse => true
  | .timepulseMissed => true
  | .thermalSample _ _ _ _ => true
  | .thermalBankEntry => true
  | .stokeRampEnd => true
  | .stokeLimitExpiry => true
  | .stokeCooldownEnd => true
  | .frequencyChangeDeadline => true
  | .clockLoss _ => true
  | .datapathParityError _ _ _ _ => true
  | .lockstepMismatch => true
  | .patrolScrub _ _ => true
  -- JTAG
  | .idcode => true
  | .muxCapture => true
  | .bypass _ => true
  -- boundary events added at the table's end
  | .barrierArrival _ => true
  | .peerLayoutCrc _ => true
  | .dynamicAddressAssigned _ => true
  | .startChecksDone => true
  | .xspiReadDone => true
  | .holdupOkRise => true
  | .nocReductionAck _ => true
  | .dbgFrame => true

end Sys2Proof
end

