-- ==== Sys2Proof/Safety.lean ====
section
/-!
DEFINITION. What a run of the engine keeps, in the terms the statements use: memories in canonical form, and the relation
between the state before a command and the state after it.
-/

namespace Sys2Proof.Machine

/-- The memories and the object store are in their canonical form: addresses strictly rising, none listed that reads as an
unlisted one does (log entry 1). -/
def State.canonical (s : State) : Prop :=
  s.mem.wf ∧ s.lp.wf ∧ s.xspi.nor.wf ∧ s.dict.mbBuf.wf ∧ Tabs.wf odDefault s.objs

/-- What every command keeps, from a state to the next: the queue is not its own to change; what the engine has put on a
port is never taken back; free values are taken in order; canonical memories stay canonical. -/
structure Kept (s t : State) : Prop where
  queue : t.pending = s.pending
  output : s.egress <+: t.egress
  free : s.free ≤ t.free
  memory : s.canonical → t.canonical

/-- What every command keeps that is no change of the engine's state (Table 12-12), no event of its power, clocks, pins or
kindling, and no end of a commit: beside Kept, the state of Table 12-11, the engine's identity, kindling's progress, the
pins, fabric time and the CORE cycle, and the xSPI part's content with its commit records. -/
structure Steady (s t : State) : Prop where
  kept : Kept s t
  mode : t.mode = s.mode
  ident : t.ident = s.ident
  kindle : t.kindle = s.kindle
  pins : t.pins = s.pins
  ftime : t.ftime = s.ftime
  core : t.core = s.core
  nor : t.xspi.nor = s.xspi.nor
  records : t.xspi.sectors = s.xspi.sectors

/-- The commands that change the engine's state (Table 12-12), its power, clocks, pins or kindling, fabric time, or the xSPI
part's content; every other keeps what Steady says. -/
def movesMachine (c : Instr) : Bool :=
  match c with
  | .powerGood .. | .powerRemoved .. | .packageReset .. | .referenceCheck .. | .nodeIdFormed .. | .marchTest .. |
    .romLoads .. | .unitSelfTests .. | .persistRestore .. | .dieLinkTraining .. | .lpddrTraining .. |
    .packageBarrier .. | .packageBarrierTimeout .. | .trayMasterListenEnd .. | .presencePulse .. |
    .trayBarrierTimeout .. | .bank .. | .unbank .. | .unbankReady .. | .reset .. | .persistCommitDone .. |
    .holdupDrop .. | .holdupOkRise .. | .cancelFenceTimeout .. | .clockLoss .. | .thermalBankEntry .. |
    .syncGlitch .. | .haltRetired .. | .lockstepMismatch .. | .stepStartPulse .. | .startChecksDone .. |
    .dbgFrame .. | .muxCapture .. | .idcode .. | .bypass .. | .timepulse .. | .timepulseMissed .. |
    .ftimeNextWrite .. | .objectWrite .. | .peerLost .. => true
  | _ => false

/-- What a command that stores nothing keeps: beside Steady, every byte of stacked memory and of the LPDDR5X packages. -/
structure Still (s t : State) : Prop where
  steady : Steady s t
  mem : t.mem = s.mem
  lp : t.lp = s.lp

/-- A scalar write passes every check of Table 12-6 in a state that answers. -/
def Granted (s : State) (r : OdReq) (own : OwnRules) : Prop := s.mode ≠ .off ∧ writeStatus s r own = St.ok

/-- The engine answers a command row's request, whose value is one of at most eight bytes: it is on; over MCTP the request is
one packet and finds fewer than four queued (R302, R303); the object port is not BUSY (R305). -/
def State.hearsRow (s : State) (path : Path) (tag : ReqTag) : Bool :=
  s.mode != .off &&
  match path with
  | .mctp => decide (min tag.queued s.reqsNow.length < 4) && tag.flags == [(true, true)]
  | .port => !(tag.busy && decide (s.core < s.dict.oaUntil))
  | .doorbell => true
  | .window => false

/-- The dictionary's state once a request over MCTP has been answered: it stands in the queue of R303 with its cycle. -/
def Dict.answered (d : Dict) (s : State) : Dict := { d with reqs := s.reqsNow ++ [s.core] }

/-- Every object but those listed holds what it held. -/
def ObjsBut (ks : List Nat) (s t : State) : Prop := ∀ k, k ∉ ks → t.obj k = s.obj k

/-- The landing map, where it lies in memory, reads as 0, and every other byte as before (R208, R213). -/
def LandingCleared (s t : State) : Prop :=
  let base := s.obj Obj.RZ_BULK_SEEN_BASE
  (base = 0 → t.mem = s.mem) ∧
  (base ≠ 0 → ∀ a, t.mem.readByte a = if base ≤ a ∧ a < base + seenBytes then 0 else s.mem.readByte a)

/-- A fabric request of an OP that this engine takes and applies (R188, R189, R196): a port is up, it is addressed here, not too
old, and well formed. -/
structure Taken (s : State) (h : BitVec 256) (op : Nat) : Prop where
  isOpen : s.fabOpenIn = true
  here : s.addressed h = true
  named : FHdr.op h = op
  fresh : s.ageOf h < 1995
  reserved : FHdr.reservedOk h = true
  shared : FHdr.share h ≠ 0
  format : efmtOk h = true

/-- An exactly-once request that the reply cache has room for and does not know (R197). -/
def FirstTime (s : State) (h : BitVec 256) : Prop := s.rcLookup h = none ∧ s.rcFull = false

/-- An operation that is the only one open, on a port that is up, with nothing else that waits for it. -/
def OnlyOp (s : State) (o : FabOp) : Prop :=
  s.active = true ∧ s.fabric.ops = [o] ∧ s.fabric.waitQ = [] ∧ s.fabric.fences = [] ∧ s.flue.drains = [] ∧
  FHdr.op o.hdr ≠ 0x03

/-- What the next attempt of an operation is (R195). -/
def nextTry (s : State) (o : FabOp) (port : Bool) : FabOp :=
  { o with attempt := o.attempt + 1, lastPort := port, epoch := (s.fabric.ports.get port).epoch, lastAt := s.core }

/-- Where a command may take the engine from a state, by the rows of Table 12-12 and their triggers; a power failure during a
commit gates it (R336). A scalar write may be the command of RZ_STATE_CMD. -/
def movesTo (c : Instr) (a : Mode) : List Mode :=
  match c with
  | .powerGood .. => if a = .off then [.kindling] else []
  | .presencePulse .. => if a = .kindling then [.ready, .faulted] else []
  | .startChecksDone => if a = .ready then [.running] else []
  | .haltRetired => if a = .running then [.ready] else []
  | .bank .. => if a = .ready then [.banked] else []
  | .unbankReady => if a = .banked then [.ready] else []
  | .thermalBankEntry => if a = .running then [.banked] else []
  | .referenceCheck .. | .nodeIdFormed .. | .marchTest .. | .romLoads .. | .unitSelfTests .. | .dieLinkTraining .. |
    .lpddrTraining .. | .trayBarrierTimeout | .syncGlitch .. | .stepStartPulse .. =>
      if a = .kindling then [.faulted] else []
  | .clockLoss .. | .lockstepMismatch | .cancelFenceTimeout .. => if a = .off then [] else [.faulted]
  | .objectWrite .. => if a = .off then [] else if a = .ready then [.banked, .kindling] else [.kindling]
  | .reset .. | .packageReset | .persistCommitDone .. => if a = .off then [] else [.kindling]
  | .powerRemoved => [.off]
  | .holdupDrop => if a = .off then [] else [.powerFail]
  | _ => []

/-- The engine is a leaf of a usable group's tree, at a position after the first, and hangs from the other engine of its
package, as R246 has every secondary whose primary is a member. -/
def HangsFromPeer (s : State) (g pos : Nat) : Prop :=
  s.posIn g s.node = some pos ∧ 0 < pos ∧ s.groupUsable g = true ∧ childrenOf (s.parents g) pos = [] ∧
  subtreeOf (s.parents g) pos = [pos] ∧
  ∃ n, (s.members g)[(s.parents g).getD pos 0]? = some n ∧ s.route n = .peer

/-- The engine is the first member of a usable group whose only other member is the other engine of its package (R246). -/
def LeadsPeer (s : State) (g : Nat) : Prop :=
  s.groupUsable g = true ∧ s.parents g = [0, 0] ∧ ∃ n, s.members g = [s.node, n] ∧ s.route n = .peer

end Sys2Proof.Machine
end

