-- ==== Sys2Proof/Certificates/Slice0/Obligations.lean ====
section
/-!
DEFINITION. The statements for the provers. A completion clause has its hypotheses on the state and the operands alone and
concludes that exec answers a next state, with what the row's own effect makes of it.
-/

open Sys2Proof Sys2Proof.Machine

/-! ### Every command -/

/-- A step runs the command that has waited longest, with the rest of the queue (log entry 4). -/
def Obligations.StepRunsFrontCommand : Prop :=
  ∀ (s : State) (c : Instr) (rest : List Instr),
    s.pending = c :: rest → step s = exec c { s with pending := rest }

/-- A step on an empty queue is one CORE cycle: nothing in OFF, only the cycle count while a power failure gates the engine,
else the cycle count and fabric time advance and, away from a 100-ns tick of fabric time, nothing else does (R277; that a
cycle passes on an empty queue is the model's choice, log entry 4). -/
def Obligations.IdleStepIsOneCycle : Prop :=
  ∀ s : State, s.pending = [] →
    (s.mode = .off → step s = .next s) ∧
    (s.mode = .powerFail → step s = .next { s with core := s.core + 1 }) ∧
    (s.clocked = true →
      (∃ t, step s = .next t ∧ t.core = s.core + 1 ∧ t.ftime = { s.ftime with value := s.ftime.value + 1 } ∧
        t.mode = s.mode ∧ t.mem = s.mem ∧ t.lp = s.lp) ∧
      ((s.ftime.value + 1).toNat % 120 ≠ 0 →
        step s = .next { s with core := s.core + 1, ftime := { s.ftime with value := s.ftime.value + 1 } }))

/-- Right after power good: KINDLING in phase 0 (R320), every object at its default (R294, R295), no step, nothing queued,
sent or logged, both expert locks closed (R296), memories with nothing listed (log entries 1 and 2). -/
def Obligations.ResetState : Prop :=
  State.reset.mode = .kindling ∧ State.reset.kindle.phase = 0 ∧ (∀ k, State.reset.obj k = odDefault k) ∧
  State.reset.steps = { b0 := none, b1 := none } ∧ State.reset.pending = [] ∧ State.reset.egress = [] ∧
  State.reset.dict.unlockMctp = false ∧ State.reset.dict.unlockBand = false ∧ State.reset.soot.ring = [] ∧
  State.reset.mem = [] ∧ State.reset.lp = [] ∧ State.reset.seq.wait = .none

/-- Every command in every state answers a next state and keeps what Kept says: the queue's rest, what was sent before, the
order of free values, the memories' form. -/
def Obligations.EveryCommandKeeps : Prop :=
  ∀ (c : Instr) (s : State), ∃ t, exec c s = .next t ∧ Kept s t

/-- The invariant of the memories: a step of any kind from any state whose memories are canonical leaves them so. -/
def Obligations.StepKeepsCanonical : Prop :=
  ∀ s t : State, s.canonical → step s = .next t → t.canonical

/-- The state after reset has the invariant of StepKeepsCanonical. -/
def Obligations.ResetIsCanonical : Prop := State.reset.canonical

/-- The engine changes state only by a row of Table 12-12 and that row's trigger (R312), by any command in any state; FAULTED is
left only by a RESET, a package reset or the loss of power (R313). One move is no row of that table but the model's choice (log
entry 29): a power failure during a commit gates the engine in a mode of the model's own, which shows the state that it met. -/
def Obligations.StateChangesAlongTable1212 : Prop :=
  ∀ (c : Instr) (s t : State), exec c s = .next t → t.mode = s.mode ∨ t.mode ∈ movesTo c s.mode

/-- R312 the other way: no other command changes the engine's state, identity, kindling, pins, fabric time, cycle count or
the xSPI part's content. -/
def Obligations.OtherCommandsAreSteady : Prop :=
  ∀ (c : Instr) (s t : State), movesMachine c = false → exec c s = .next t → Steady s t

/-! ### Power, kindling, the banked state -/

/-- Power and the resets (R312, R320, R354, Table 12-12): POWER_GOOD in OFF begins kindling at phase 0 with the
hub die's latches and every object at its default; POWER_REMOVED leaves nothing but what the xSPI part holds; PACKAGE_RESET and
RESET, at once or behind a commit in progress, begin kindling at phase 1 with both paths locked and no step left, and touch
neither the soot ring nor the xSPI part's content. The banked state (R213, R326): BANK with nothing open closes the ports and
drops the open operations and the landing map; UNBANK begins, and ends in READY by reason 6.
The model's choices here: reason 7 of the package's reset (log entry 8); blank memories after POWER_REMOVED, and memories and
identity kept by a reset (log entries 1 and 11); a peer that counts as present again at the end of UNBANK (log entry 11). -/
def Obligations.PowerAndReset : Prop :=
  (∀ (s : State) (location : BitVec 32) (eng grade14 : Bool), s.mode = .off →
    ∃ t, exec (.powerGood location eng grade14) s = .next t ∧ t.mode = .kindling ∧ t.kindle.phase = 0 ∧
      t.ident = { location := location, eng := eng, grade14 := grade14 } ∧ (∀ k, t.obj k = odDefault k) ∧
      t.steps = { b0 := none, b1 := none } ∧ t.xspi = s.xspi) ∧
  (∀ s : State, s.mode ≠ .off →
    ∃ t, exec .powerRemoved s = .next t ∧ t.mode = .off ∧ t.mem = [] ∧ t.lp = [] ∧ t.soot = .cleared ∧
      t.steps = { b0 := none, b1 := none } ∧ t.xspi.commit = none ∧ t.xspi.nor = s.xspi.nor ∧
      t.xspi.records = s.xspi.records) ∧
  (∀ s : State, s.mode ≠ .off →
    ∃ t, exec .packageReset s = .next t ∧ t.mode = .kindling ∧ t.kindle.phase = 1 ∧ t.obj Obj.RZ_STATE_REASON = 7 ∧
      t.dict.unlockMctp = false ∧ t.dict.unlockBand = false ∧ t.dict.xfer = none ∧
      t.steps = { b0 := none, b1 := none } ∧ t.seq.wait = .none ∧ t.ident = s.ident ∧ t.soot = s.soot ∧ t.mem = s.mem ∧
      t.lp = s.lp ∧ t.xspi.nor = s.xspi.nor ∧ t.xspi.records = s.xspi.records) ∧
  (∀ (s : State) (p : Path) (tag : ReqTag), s.hearsRow p tag = true →
    (s.mode = .ready → s.job = none → s.xOpen = false → s.seq.checking = false →
      ∃ t, exec (.bank p tag) s = .next t ∧ t.mode = .banked ∧ t.obj Obj.RZ_STATE_REASON = 5 ∧
        t.fabric.ops = [] ∧ t.fabric.ports.b0.up = false ∧ t.fabric.ports.b1.up = false ∧ LandingCleared s t ∧ t.lp = s.lp ∧
        ObjsBut [Obj.RZ_STATE_REASON] s t) ∧
    (s.mode = .banked → i32 (s.obj Obj.RZ_TJ) < 1100 →
      ∃ t, exec (.unbank p tag) s = .next t ∧ t.kindle = { s.kindle with unbank := true } ∧
        t.mode = .banked ∧ ObjsBut [] s t) ∧
    (s.shown ≠ .off → s.shown ≠ .powerFail → s.xspi.commit = none →
      ∃ t, exec (.reset p tag) s = .next t ∧ t.mode = .kindling ∧ t.kindle.phase = 1 ∧
        t.obj Obj.RZ_STATE_REASON = 7 ∧ t.dict.unlockMctp = false ∧ t.dict.unlockBand = false ∧
        t.steps = { b0 := none, b1 := none } ∧ t.mem = s.mem ∧ t.lp = s.lp ∧ t.soot = s.soot) ∧
    (s.shown ≠ .off → s.shown ≠ .powerFail → s.xspi.commit.isSome = true →
      ∃ t, exec (.reset p tag) s = .next t ∧ t.xspi = { s.xspi with heldReset := true } ∧
        t.mode = s.mode ∧ ObjsBut [] s t)) ∧
  (∀ s : State, s.mode = .banked → s.kindle.unbank = true →
    ∃ t, exec .unbankReady s = .next t ∧ t.mode = .ready ∧ t.obj Obj.RZ_STATE_REASON = 6 ∧
      t.kindle = { s.kindle with unbank := false, peerGone := false } ∧ ObjsBut [Obj.RZ_STATE_REASON] s t)

/-- Phases 0 to 4 of Table 13-3 end one after the other, each with its own work: nothing; the node ID (R321); the arrays cleared
but not the soot log; the tables that the ROMs leave empty; the units' clears (R137, R161, R185, R213, R241, R290), with the
landing map where it lies in memory. Each changes nothing but what its clause names.
A check of a phase fails (R323): FAULTED by reason 10, the phase and the check in RZ_KINDLE_FAIL, cause FAULTED set; a pipe
pair that differs in phase 4 is counted too (R91), and a rack above 511 fails phase 1 (log entry 11). -/
def Obligations.KindlingPhases : Prop :=
  (∀ s : State, s.mode = .kindling →
    (s.kindle.phase = 0 → ∃ t, exec (.referenceCheck none) s = .next t ∧ t = { s with kindle := { s.kindle with phase := 1 } }) ∧
    (s.kindle.phase = 1 → s.ident.location.toNat / 256 ≤ 511 →
      ∃ t, exec (.nodeIdFormed none) s = .next t ∧ t.kindle = { s.kindle with phase := 2 } ∧
        t.obj Obj.RZ_NODE_ID = s.ident.location.toNat / 2 * 2 + (if s.ident.eng then 1 else 0) ∧
        (let f (hi lo : Nat) : Nat := t.obj Obj.RZ_NODE_ID / 2 ^ lo % 2 ^ (hi + 1 - lo)
         f 16 8 = s.ident.location.toNat / 256 ∧ f 7 4 = s.ident.location.toNat / 16 % 16 ∧
         f 3 1 = s.ident.location.toNat / 2 % 8 ∧ f 0 0 = if s.ident.eng then 1 else 0) ∧
        ObjsBut [Obj.RZ_NODE_ID] s t ∧ { t with kindle := s.kindle, objs := s.objs } = s) ∧
    (s.kindle.phase = 2 → ∃ t, exec (.marchTest none) s = .next t ∧ t.kindle = { s.kindle with phase := 3 } ∧
      t.flue = { s.flue with ctxs := [], ledger := [], combineQ := [] } ∧ t.pool = .cleared ∧
      t.tables = { Tables.cleared with landing := s.tables.landing, mcast := s.tables.mcast } ∧
      t.stores = { s.stores with candidates := [] } ∧
      { t with kindle := s.kindle, flue := s.flue, pool := s.pool, tables := s.tables, stores := s.stores } = s) ∧
    (s.kindle.phase = 3 → ∃ t, exec (.romLoads none) s = .next t ∧ t.kindle = { s.kindle with phase := 4 } ∧
      t.obj Obj.RZ_PLACE_EPOCH = 0 ∧ t.tables = { s.tables with
        groups := [], badGroups := [], place := { b0 := [], b1 := [] }, qmap := { b0 := [], b1 := [] }, placed := false
        routeMap := [] } ∧
      t.stores = { s.stores with coreMem := [] } ∧ ObjsBut [Obj.RZ_PLACE_EPOCH] s t ∧
      { t with kindle := s.kindle, objs := s.objs, tables := s.tables, stores := s.stores } = s) ∧
    (s.kindle.phase = 4 →
      ∃ t, exec (.unitSelfTests none none) s = .next t ∧ t.kindle = { s.kindle with phase := 5 } ∧
        t.obj Obj.RZ_LAYOUT_STATE = 0 ∧ t.obj Obj.RZ_LJOB_HEAD = 0 ∧ t.obj Obj.RZ_BATCH_EPOCH = 0 ∧
        ObjsBut [Obj.RZ_LAYOUT_STATE, Obj.RZ_LJOB_HEAD, Obj.RZ_BATCH_EPOCH] s t ∧
        t.tables = { s.tables with hist := { b0 := [], b1 := [] }, owner := [], tensor := [] } ∧
        t.bellows = .cleared ∧ t.pool = .cleared ∧ t.flue = .cleared ∧ t.digests = .cleared ∧ t.ftime = .cleared ∧
        t.fabric = { Fabric.cleared with ports := { b0 := .cleared, b1 := .cleared }, gateLost := false } ∧
        LandingCleared s t ∧
        { t with kindle := s.kindle, objs := s.objs, tables := s.tables, bellows := s.bellows, pool := s.pool, flue := s.flue
                 digests := s.digests, ftime := s.ftime, fabric := s.fabric, mem := s.mem } = s)) ∧
  (∀ (s : State) (c : BitVec 24) (crc : BitVec 32) (pair : BitVec 16) (more : Option (BitVec 24)), s.mode = .kindling →
    let faults (i : Instr) : Prop :=
      ∃ t, exec i s = .next t ∧ t.mode = .faulted ∧ t.obj Obj.RZ_STATE_REASON = 10 ∧
        t.obj Obj.RZ_KINDLE_FAIL / 2 ^ 24 = s.kindle.phase ∧ (t.obj Obj.RZ_ALERT_CAUSE).testBit 3 = true
    let failed (n : Nat) (i : Instr) : Prop :=
      ∃ t, exec i s = .next t ∧ t.mode = .faulted ∧ t.obj Obj.RZ_STATE_REASON = 10 ∧
        t.obj Obj.RZ_KINDLE_FAIL = n * 2 ^ 24 + c.toNat ∧ (t.obj Obj.RZ_ALERT_CAUSE).testBit 3 = true
    (s.kindle.phase = 0 → failed 0 (.referenceCheck (some c))) ∧
    (s.kindle.phase = 1 → failed 1 (.nodeIdFormed (some c))) ∧
    (s.kindle.phase = 1 → 511 < s.ident.location.toNat / 256 → faults (.nodeIdFormed none)) ∧
    (s.kindle.phase = 2 → failed 2 (.marchTest (some c))) ∧
    (s.kindle.phase = 3 → failed 3 (.romLoads (some (c, crc)))) ∧
    (s.kindle.phase = 4 → failed 4 (.unitSelfTests (some c) none)) ∧
    (s.kindle.phase = 4 → faults (.unitSelfTests more (some pair)) ∧
      ∃ t, exec (.unitSelfTests more (some pair)) s = .next t ∧
        t.obj Obj.RZ_FN_MISMATCH = (s.obj Obj.RZ_FN_MISMATCH + 1) % 2 ^ odWidth Obj.RZ_FN_MISMATCH) ∧
    (s.kindle.phase = 6 → s.kindle.diesDone = false → failed 6 (.dieLinkTraining (some c))) ∧
    (s.kindle.phase = 7 → s.kindle.lpDone = false → failed 7 (.lpddrTraining (some c))))

/-- Phase 5 restores the persistent objects (R297, R337): with no valid set every object that the engine does not set itself
and that kindling does not keep takes its default; a set's only record, of a scalar, gives its object the value where that
meets the write rules, but not an object that a kindling from phase 1 keeps (R290). Phases 6 and 7 run in parallel (R320):
each die that is present is granted 512 return credits (R219); the first to end leaves the other's phase showing, the second
brings the engine to the package barrier, where it tells its role to its peer. -/
def Obligations.KindlingRestoresAndTrains : Prop :=
  (∀ s : State, s.mode = .kindling → s.kindle.phase = 5 →
    (s.xspi.newestValid (s.obj Obj.RZ_LOG_SEG) .objects = none →
      ∃ t, exec .persistRestore s = .next t ∧ t.kindle = { s.kindle with phase := 6 } ∧ t.mode = .kindling ∧
        ∀ k, odIsRo k = false → k ∉ keptObjs → t.obj k = odDefault k) ∧
    (∀ c r row, s.xspi.newestValid (s.obj Obj.RZ_LOG_SEG) .objects = some c →
      readSet s.defaultObjs false (s.xspi.content (s.obj Obj.RZ_LOG_SEG) c) = .good [r] →
      odRow r.key = some row → row.ty.isScalar = true →
      (s.keepsObj r.key = true ∨ odWriteOk s.defaultObjs row r.value = true) →
      ∃ t, exec .persistRestore s = .next t ∧ t.kindle = { s.kindle with phase := 6 } ∧ t.mode = .kindling ∧
        t.obj r.key = (if s.keepsObj r.key = true then s.obj r.key else odStored r.key r.value) ∧
        ∀ k, k ≠ r.key → odIsRo k = false → k ∉ keptObjs → t.obj k = odDefault k)) ∧
  (∀ s : State, s.mode = .kindling → (s.kindle.phase = 6 ∨ s.kindle.phase = 7) →
    let grants : List Msg :=
      ((List.range 8).filter (fun p => State.diePresent { s with kindle := { s.kindle with diesDone := true } } p)).map
        (fun p => .dieCredit p 512)
    (s.kindle.diesDone = false → s.kindle.lpDone = false →
      (∃ t, exec (.dieLinkTraining none) s = .next t ∧ t.kindle = { s.kindle with diesDone := true, phase := 7 } ∧
        t.egress = s.egress ++ grants ∧ { t with kindle := s.kindle, egress := s.egress } = s) ∧
      (∃ t, exec (.lpddrTraining none) s = .next t ∧ t.kindle = { s.kindle with lpDone := true, phase := 6 } ∧
        { t with kindle := s.kindle } = s)) ∧
    (s.kindle.diesDone = false → s.kindle.lpDone = true → s.kindle.peerRole = none → s.kindle.peerGone = false →
      ∃ t, exec (.dieLinkTraining none) s = .next t ∧ t.kindle = { s.kindle with diesDone := true, phase := 8 } ∧
        t.egress = s.egress ++ grants ++ [.peer (.present (BitVec.ofNat 8 s.role))] ∧
        { t with kindle := s.kindle, egress := s.egress } = s) ∧
    (s.kindle.diesDone = true → s.kindle.lpDone = false → s.kindle.peerRole = none → s.kindle.peerGone = false →
      ∃ t, exec (.lpddrTraining none) s = .next t ∧ t.kindle = { s.kindle with lpDone := true, phase := 8 } ∧
        t.egress = s.egress ++ [.peer (.present (BitVec.ofNat 8 s.role))] ∧
        { t with kindle := s.kindle, egress := s.egress } = s))

/-- The package barrier (R6, R29): equal roles lead on to the tray barrier; other roles, or an absent peer, hold kindling in
phase 8 with cause KINDLE_HELD; a peer that comes early is remembered; a peer that comes back to an engine in READY or RUNNING
is told its role and steps are refused no longer (R30).
The tray barrier (R8, R322): the master begins to drive and repeats its pulse; a presence pulse of 48 to 80 SYNC cycles
ends kindling in READY by reason 1, a transition of the engine's own (R314), but one that a master did not drive, or that comes
while it listens, and the wait's end without a pulse, end it in FAULTED by reason 10.
The model's choices here: reason 10 for these faults, and SELF_TRANSITION at kindling's end (log entry 8); telling the role to a
peer that comes back (log entry 11). -/
def Obligations.KindlingBarriers : Prop :=
  (∀ (s : State) (r : Byte),
    let heard : Kindle := { s.kindle with peerGone := false }
    (s.mode = .kindling → s.kindle.phase = 8 → s.kindle.held = false →
      (r.toNat = s.role → ∃ t, exec (.packageBarrier r) s = .next t ∧ t = { s with kindle := { heard with phase := 9 } }) ∧
      (r.toNat ≠ s.role → ∃ t, exec (.packageBarrier r) s = .next t ∧ t.kindle = { heard with held := true } ∧
        t.mode = .kindling ∧ (t.obj Obj.RZ_ALERT_CAUSE).testBit 8 = true) ∧
      (∃ t, exec .packageBarrierTimeout s = .next t ∧ t.kindle = { s.kindle with held := true } ∧ t.mode = .kindling ∧
        (t.obj Obj.RZ_ALERT_CAUSE).testBit 8 = true)) ∧
    (s.mode = .kindling → 0 < s.kindle.phase → s.kindle.phase < 8 →
      ∃ t, exec (.packageBarrier r) s = .next t ∧ t = { s with kindle := { heard with peerRole := some r } }) ∧
    (s.active = true →
      ∃ t, exec (.packageBarrier r) s = .next t ∧ t = { s with
        kindle := heard, seq := { s.seq with refuse := false }
        egress := s.egress ++ [.peer (.present (BitVec.ofNat 8 s.role))] })) ∧
  (∀ s : State, s.mode = .kindling → s.kindle.phase = 9 →
    (s.flag Obj.RZ_TRAY_MASTER = true →
      (s.kindle.driving = false →
        ∃ t, exec .trayMasterListenEnd s = .next t ∧ t.kindle = { s.kindle with driving := true } ∧
          t.egress = s.egress ++ [.syncOut 64] ∧ { t with kindle := s.kindle, egress := s.egress } = s) ∧
      (s.kindle.driving = true →
        ∃ t, exec (.presencePulseTimer false) s = .next t ∧ t = { s with egress := s.egress ++ [.syncOut 64] })) ∧
    (∀ high own, 48 ≤ high → high ≤ 80 →
      ((s.flag Obj.RZ_TRAY_MASTER = false ∨ (own = true ∧ s.kindle.driving = true)) →
        ∃ t, exec (.presencePulse high own) s = .next t ∧ t.mode = .ready ∧ t.obj Obj.RZ_STATE_REASON = 1 ∧
          t.obj Obj.RZ_SYNC_PRESENCE = (s.obj Obj.RZ_SYNC_PRESENCE + 1) % 2 ^ 32 ∧
          (t.obj Obj.RZ_ALERT_CAUSE).testBit 4 = true ∧
          ObjsBut [Obj.RZ_STATE_REASON, Obj.RZ_SYNC_PRESENCE, Obj.RZ_KINDLE_TIME, Obj.RZ_ALERT_CAUSE] s t) ∧
      (s.flag Obj.RZ_TRAY_MASTER = true → (own = false ∨ s.kindle.driving = false) →
        ∃ t, exec (.presencePulse high own) s = .next t ∧ t.mode = .faulted ∧ t.obj Obj.RZ_STATE_REASON = 10)) ∧
    (s.flag Obj.RZ_TRAY_MASTER = false →
      ∃ t, exec .trayBarrierTimeout s = .next t ∧ t.mode = .faulted ∧ t.obj Obj.RZ_STATE_REASON = 10))

/-- RZ_STATE_CMD (R313) over any path: 1 BANK is taken only in READY, 2 UNBANK only in BANKED, and any other state but OFF
answers STATE; 3 RESET is taken in every state but OFF, at once or held by a commit in progress; any other value is refused with
VALUE; only a RESET, now or one held by a commit, or a package reset or the loss of power (Table 12-12), leaves FAULTED. Beside
that rule: BANK in READY answers BUSY while a layout job runs or a persistence command is open (Table 12-12), and UNBANK at
110.0 °C or above STATE (R326). -/
def Obligations.StateCommands : Prop :=
  (∀ (s : State) (p : Path) (tag : ReqTag), s.hearsRow p tag = true →
    let answers (t : State) (st : Nat) : Prop :=
      (p = .mctp → t.egress.getLast? = some (.mctp (mctpResponse tag 2 st []))) ∧
      (p = .port → t.dict.oaStatus = BitVec.ofNat 8 st) ∧ (p = .doorbell → t.dict.dbStatus = BitVec.ofNat 8 st)
    let refused (i : Instr) (st : Nat) : Prop := ∃ t, exec i s = .next t ∧ answers t st ∧ ObjsBut [Obj.RZ_OD_REFUSED] s t ∧
      { t with objs := s.objs, dict := s.dict, egress := s.egress } = s
    (s.mode ≠ .ready → refused (.bank p tag) 7) ∧
    (s.mode ≠ .banked → refused (.unbank p tag) 7) ∧
    (s.mode = .banked → 1100 ≤ i32 (s.obj Obj.RZ_TJ) → refused (.unbank p tag) 7) ∧
    (∀ v, s.mode ≠ .powerFail → 3 < v ∨ v = 0 → v < 256 → refused (.objectWrite (scalarReq p tag Obj.RZ_STATE_CMD v)) 10) ∧
    (s.mode = .ready → s.job.isSome = true ∨ s.xOpen = true → refused (.bank p tag) 8) ∧
    (s.mode = .ready → s.job = none → s.xOpen = false → s.seq.checking = false →
      ∃ t, exec (.bank p tag) s = .next t ∧ answers t 0 ∧ t.mode = .banked) ∧
    (s.mode = .banked → i32 (s.obj Obj.RZ_TJ) < 1100 →
      ∃ t, exec (.unbank p tag) s = .next t ∧ answers t 0 ∧ t.kindle.unbank = true) ∧
    (s.shown ≠ .off → s.shown ≠ .powerFail → ∃ t, exec (.reset p tag) s = .next t ∧ answers t 0 ∧
      (if s.xspi.commit = none then t.mode = .kindling else t.xspi.heldReset = true))) ∧
  (∀ (c : Instr) (s t : State), s.mode = .faulted → exec c s = .next t → t.shown ≠ .faulted →
    c = .packageReset ∨ c = .powerRemoved ∨ (∃ p tag, c = .reset p tag) ∨
    (∃ r, c = .objectWrite r ∧ odKey r = Obj.RZ_STATE_CMD ∧ odVal r = 3) ∨
    (∃ ok addr, c = .persistCommitDone ok addr ∧ s.xspi.heldReset = true))

/-! ### The sequencer -/

/-- START in READY (R36, R151, R312): it waits for open layout jobs, else its checks run; they end in RZ_SEQ_STATE's code of
the first that fails, or in RUNNING by reason 2 with the sequencer at ENTRY. That the code is 4 where the image's digest was lost
to parity errors is the model's choice (log entry 38: R290 refuses the START and the manual gives no code). HALT's end leaves RUNNING for READY once no step is in flight. -/
def Obligations.ScheduleStartsAndEnds : Prop :=
  ∀ (s : State) (p : Path) (tag : ReqTag),
    (s.hearsRow p tag = true → s.mode = .ready → s.seq.checking = false → s.seq.startPending = false → s.log.replay = false →
      (s.obj Obj.RZ_LJOB_HEAD = s.obj Obj.RZ_LJOB_TAIL →
        ∃ t, exec (.start p tag) s = .next t ∧ t.seq = { s.seq with checking := true } ∧ t.mode = .ready ∧
          ObjsBut [] s t) ∧
      (s.obj Obj.RZ_LJOB_HEAD ≠ s.obj Obj.RZ_LJOB_TAIL →
        ∃ t, exec (.start p tag) s = .next t ∧ t.seq = { s.seq with startPending := true } ∧ t.mode = .ready ∧
          ObjsBut [] s t)) ∧
    (s.mode = .ready → s.seq.checking = true → s.logReady [160] = true →
      let code := if s.digestLost = true ∧ s.startCode ≠ 3 then 4 else s.startCode
      (code ≠ 0 →
        ∃ t, exec .startChecksDone s = .next t ∧ t.obj Obj.RZ_SEQ_STATE = code ∧ t.mode = .ready ∧
          t.seq = { s.seq with checking := false } ∧ ObjsBut [Obj.RZ_SEQ_STATE] s t) ∧
      (code = 0 → s.flag Obj.RZ_REPLAY_EN = false →
        ∃ t, exec .startChecksDone s = .next t ∧ t.mode = .running ∧ t.obj Obj.RZ_STATE_REASON = 2 ∧
          t.obj Obj.RZ_SEQ_STATE = 1 ∧ t.seq.wait = .fetch ∧ t.seq.pc = ImgHdr.entry s.imgHdr ∧ t.seq.frames = [] ∧
          t.seq.regs = [0, 0, 0, 0] ∧ t.seq.steps = 0 ∧ t.seq.lastStepId = none ∧ t.log.ord = some 0 ∧ t.mem = s.mem)) ∧
    (s.mode = .running → s.seq.wait = .ending → s.inFlight = false →
      ∃ t, exec .haltRetired s = .next t ∧ t.mode = .ready ∧ t.obj Obj.RZ_STATE_REASON = s.seq.reason ∧
        t.obj Obj.RZ_SEQ_STATE = 0 ∧ t.seq.wait = .none ∧ t.log.replay = false ∧ t.mem = s.mem)

/-- The instructions that only move the sequencer or end the schedule (R37, Table 2-2), outside every loop body: LOOP skips
its body, runs it, or, with none, leaves LREG at COUNT - 1; HALT ends the schedule by reason 3. MARK (Tables 2-2, 2-7) with a
status ring: a record with STATUS 0x20 and VALUE in MODEL_END enters the ring, with no phase failing, no variant applied and no
deadline; the sequencer goes on, back to its loop body's first instruction with LREG one higher where the body's last one was
this. -/
def Obligations.LoopMarkAndHalt : Prop :=
  (∀ s : State,
    (s.atOp 0x02 = true → s.seq.frames = [] →
      let n := SInstr.count s.instr
      let r := SInstr.lreg s.instr
      let b := SInstr.body s.instr
      ∃ t, exec .loop s = .next t ∧ { t with seq := s.seq } = s ∧ t.seq.wait = .fetch ∧
        (n = 0 → t.seq.pc = s.seq.pc + 8 + 8 * b ∧ t.seq.frames = [] ∧ t.seq.regs = s.seq.regs) ∧
        (n ≠ 0 → b = 0 →
          t.seq.pc = s.seq.pc + 8 ∧ t.seq.frames = [] ∧ t.seq.regs = s.seq.regs.set r (BitVec.ofNat 20 (n - 1))) ∧
        (n ≠ 0 → b ≠ 0 →
          t.seq.pc = s.seq.pc + 8 ∧ t.seq.regs = s.seq.regs.set r 0 ∧
          t.seq.frames = [{ first := s.seq.pc + 8, last := s.seq.pc + 8 + 8 * b, reg := r, left := n - 1 }])) ∧
    (s.atOp 0x06 = true → s.log.replay = false →
      ∃ t, exec .halt s = .next t ∧ t.seq.wait = .ending ∧ t.seq.reason = 3 ∧ t.seq.fetched = none ∧ t.mode = .running)) ∧
  (∀ s : State, s.atOp 0x05 = true → s.obj Obj.RZ_STATUS_RING ≠ 0 →
    ∃ t, exec .mark s = .next t ∧
      t.obj Obj.RZ_STATUS_HEAD = (s.obj Obj.RZ_STATUS_HEAD + 1) % 2 ^ 32 ∧
      (let a := s.obj Obj.RZ_STATUS_RING + s.obj Obj.RZ_STATUS_HEAD % s.obj Obj.RZ_STATUS_RING_LEN * 16
       t.mem.readNat (a + 4) 4 = SInstr.value s.instr ∧ t.mem.readByte (a + 11) = 0x20 ∧
       t.mem.readByte (a + 10) = 7 ∧ (t.mem.readByte (a + 9)).toNat / 16 = 15 ∧ t.mem.readNat a 4 = 0 ∧
       ∀ x, x < a ∨ a + 16 ≤ x → t.mem.readByte x = s.mem.readByte x) ∧
      ObjsBut [Obj.RZ_STATUS_HEAD, Obj.RZ_STATUS_TAIL, Obj.RZ_STATUS_LOST] s t ∧ t.lp = s.lp ∧ t.seq.wait = .fetch ∧
      (s.seq.frames = [] → t.seq.pc = s.seq.pc + 8 ∧ t.seq.frames = [] ∧ t.seq.regs = s.seq.regs) ∧
      (∀ f fs k, s.seq.frames = f :: fs → s.seq.pc + 8 = f.last → f.left = k + 1 →
        t.seq.pc = f.first ∧ t.seq.frames = { f with left := k } :: fs ∧
        t.seq.regs = s.seq.regs.set f.reg (s.seq.regs.getD f.reg 0 + 1)))

/-- A STEP is fetched, its arrival told to the peer (R33, R39); the peer's and other packages' arrivals are kept, and at the tray
master the last package's, its own barrier complete, drives the step-start pulse, no other before it (R31); a release time that has passed is released (R279); the step-start pulse of 4 to 16 SYNC cycles fixes t0 (R32). -/
def Obligations.StepArrivesAndStarts : Prop :=
  ∀ s : State,
    (s.atOp 0x01 = true → s.stepReachable = true → s.seq.barrier.peer = false → s.kindle.peerGone = false →
      ∃ t, exec .step s = .next t ∧ t.seq.wait = .step ∧ t.seq.fetched = some (s.fetchStep s.seq.steps) ∧
        t.seq.steps = s.seq.steps + 1 ∧ t.seq.barrier.own = true ∧ t.seq.pc = s.seq.pc ∧
        t.egress = s.egress ++ [.peer .arrival] ∧ { t with seq := s.seq, egress := s.egress } = s) ∧
    (s.active = true → s.seq.wait ≠ .step → s.flag Obj.RZ_TRAY_MASTER = false →
      ∃ t, exec (.barrierArrival .peer) s = .next t ∧
        t = { s with seq := { s.seq with barrier := { s.seq.barrier with peer := true } } }) ∧
    (∀ pkg : BitVec 3, s.active = true →
      let b := s.seq.barrier
      let all : Prop := ∀ q ∈ s.otherPackages, q ∈ b.packages ++ [pkg.toNat]
      let kept : Barrier := { b with packages := (b.packages ++ [pkg.toNat]).eraseDups }
      ((b.own = false ∨ (b.told = true ∧ ¬all)) →
        ∃ t, exec (.barrierArrival (.package pkg)) s = .next t ∧ t = { s with seq := { s.seq with barrier := kept } }) ∧
      (s.flag Obj.RZ_TRAY_MASTER = true → b.own = true → b.peer = true → b.told = true → b.fired = false →
        b.needRelease = false → s.startHolds = false → all →
        ∃ t, exec (.barrierArrival (.package pkg)) s = .next t ∧
          t = { s with seq := { s.seq with barrier := { kept with fired := true } }, egress := s.egress ++ [.syncOut 8] })) ∧
    (∀ time, s.seq.barrier.release = some time → time ≤ s.ftime.value.toNat → s.flag Obj.RZ_TRAY_MASTER = false →
      ∃ t, exec .startBarrierRelease s = .next t ∧
        t = { s with seq := { s.seq with barrier := { s.seq.barrier with release := none, needRelease := false } } }) ∧
    (∀ high own f, 4 ≤ high → high ≤ 16 → s.mode = .running → s.seq.wait = .step → s.seq.fetched = some f →
      s.seq.barrier.own = true → f.t0 = none →
      ∃ t, exec (.stepStartPulse high own) s = .next t ∧
        t.seq.fetched = some { f with t0 := some s.core, pulse := true } ∧ t.seq.wait = .step ∧
        t.obj Obj.RZ_SYNC_PULSES = (s.obj Obj.RZ_SYNC_PULSES + 1) % 2 ^ 32 ∧ ObjsBut [Obj.RZ_SYNC_PULSES] s t ∧
        { t with seq := s.seq, objs := s.objs, pins := s.pins } = s)

/-- The host's answers to a halt (R48) over any path, with no replay running and room for the command's record in the log:
SKIP of a refused step goes on after it, RETRY of one fetches its descriptor again and tells its arrival, ABORT ends the
schedule by reason 4. -/
def Obligations.HostAnswersHalt : Prop :=
  ∀ (s : State) (p : Path) (tag : ReqTag) (f : Fetched), s.hearsRow p tag = true → s.mode = .running → s.seq.wait = .halted 2 → s.log.replay = false →
    s.log.held = [] → s.logReady [8] = true → s.seq.checking = false → s.seq.fetched = some f → s.seq.frames = [] →
    s.flag Obj.RZ_TRAY_MASTER = false → s.seq.barrier.peer = false →
    (∃ t, exec (.skip p tag) s = .next t ∧ t.seq.wait = .fetch ∧ t.seq.pc = s.seq.pc + 8 ∧ t.seq.fetched = none ∧
      t.seq.refused = true ∧ t.obj Obj.RZ_SEQ_STATE = 1 ∧ t.mode = .running ∧
      ObjsBut [Obj.RZ_SEQ_STATE, Obj.RZ_LOG_HEAD] s t) ∧
    (∃ t, exec (.retry p tag) s = .next t ∧ t.seq.wait = .step ∧ t.seq.pc = s.seq.pc ∧
      t.seq.fetched = some (s.fetchStep (s.seq.steps - 1)) ∧ t.seq.barrier.own = true ∧ t.obj Obj.RZ_SEQ_STATE = 1 ∧
      ObjsBut [Obj.RZ_SEQ_STATE, Obj.RZ_LOG_HEAD] s t) ∧
    (∃ t, exec (.abort p tag) s = .next t ∧ t.seq.wait = .ending ∧ t.seq.reason = 4 ∧ t.seq.fetched = none ∧
      t.obj Obj.RZ_SEQ_STATE = 1 ∧ t.mode = .running)

/-! ### Collectives and the placement commit -/

/-- COLL of a group that the engine is not in completes at once (R243), for every program.
COLL in a group where the engine hangs from its peer (R243, R244, R247, R259, R266): a barrier, and a fused barrier after
a refused step, send the arrival up and wait; a fused barrier after another step ends with that step's scan; STATS waits for
its beginning, which sends LOCAL and clears it; ROUTE_GATHER sends a stream of RZ_ROUTE_STORE_CAP bytes and is over;
ROUTE_RESTORE waits for its stream.
COLL at the first member of its package's group: it sends nothing up; a barrier holds its own arrival, and STATS its own LOCAL,
which is cleared, until the other's comes; ROUTE_GATHER waits for the other's stream; ROUTE_RESTORE sends back what was stored
for the other, through the staging, and is over. -/
def Obligations.CollectivesBegin : Prop :=
  (∀ s : State, s.posIn (SInstr.group s.instr) s.node = none → s.colls.now = none → s.seq.frames = [] →
    let done (i : Instr) : Prop := ∃ t, exec i s = .next t ∧ t.seq.wait = .fetch ∧ t.seq.pc = s.seq.pc + 8 ∧
      t.colls = s.colls ∧ t.egress = s.egress ∧ t.mem = s.mem ∧ t.lp = s.lp ∧ ObjsBut [] s t
    (s.atColl 1 = true → done .collBarrier) ∧ (s.atColl 0x81 = true → done .collFusedBarrier) ∧
    (s.atColl 2 = true → done .collStats) ∧ (s.atColl 3 = true → done .collRouteGather) ∧
    (s.atColl 4 = true → done .collRouteRestore)) ∧
  (∀ (s : State) (pos : Nat), s.peerOpen = true → s.colls.now = none → s.colls.early = [] →
    let g := SInstr.group s.instr
    let up (program : Byte) (b : CollBody) : Msg := .peer (.coll (BitVec.ofNat 8 g) program .up pos b)
    let waits (t : State) (program : Nat) (sent : Bool) : Prop :=
      t.seq.wait = .coll g program ∧ t.seq.pc = s.seq.pc ∧
      ∃ c, t.colls.now = some c ∧ c.group = g ∧ c.program = program ∧ c.pos = pos ∧ c.sentUp = sent
    (HangsFromPeer s g pos →
      (s.atColl 1 = true → ∃ t, exec .collBarrier s = .next t ∧ waits t 1 true ∧
        t.egress = s.egress ++ [up 1 .arrive] ∧ t.mem = s.mem ∧ t.lp = s.lp) ∧
      (s.atColl 0x81 = true → s.seq.refused = true →
        ∃ t, exec .collFusedBarrier s = .next t ∧ waits t 0x81 true ∧ t.egress = s.egress ++ [up 0x81 .arrive] ∧
          t.mem = s.mem ∧ t.lp = s.lp) ∧
      (s.atColl 0x81 = true → s.seq.refused = false → s.seq.frames = [] →
        ∃ t, exec .collFusedBarrier s = .next t ∧ t.egress = s.egress ∧
          (s.scanDone s.lastBank = true → t.seq.wait = .fetch ∧ t.seq.pc = s.seq.pc + 8) ∧
          (s.scanDone s.lastBank = false → t.seq.wait = .coll g 0x81 ∧ t.seq.pc = s.seq.pc)) ∧
      (s.atColl 2 = true → ∃ t, exec .collStats s = .next t ∧ t.seq.wait = .coll g 2 ∧ t.seq.pc = s.seq.pc ∧
        t.colls = s.colls ∧ t.egress = s.egress ∧ t.mem = s.mem) ∧
      (s.atColl 3 = true → s.seq.frames = [] →
        ∃ t bs, exec .collRouteGather s = .next t ∧ t.seq.wait = .fetch ∧ t.seq.pc = s.seq.pc + 8 ∧ t.colls.now = none ∧
          bs.length = s.obj Obj.RZ_ROUTE_STORE_CAP ∧ t.egress = s.egress ++ [up 3 (.stream bs)]) ∧
      (s.atColl 4 = true → ∃ t, exec .collRouteRestore s = .next t ∧ waits t 4 false ∧ t.egress = s.egress)) ∧
    (∀ h, s.seq.wait = .coll h 2 → HangsFromPeer s h pos → s.steps = { b0 := none, b1 := none } →
      ∃ t, exec .statsBegin s = .next t ∧ t.seq = s.seq ∧
        t.egress = s.egress ++ [.peer (.coll (BitVec.ofNat 8 h) 2 .up pos (.stats s.localStats))] ∧
        (∃ c, t.colls.now = some c ∧ c.group = h ∧ c.program = 2 ∧ c.sentUp = true) ∧
        (∀ a, s.obj Obj.RZ_STATS_BASE ≤ a → a < s.obj Obj.RZ_STATS_BASE + statBytes → t.mem.readByte a = 0) ∧
        (∀ a, a < s.obj Obj.RZ_STATS_BASE ∨ s.obj Obj.RZ_STATS_BASE + statBytes ≤ a →
          t.mem.readByte a = s.mem.readByte a))) ∧
  (∀ s : State, s.peerOpen = true → s.colls.now = none → s.colls.early = [] →
    let g := SInstr.group s.instr
    let holds (t : State) (h program : Nat) (got : List (Nat × CollBody)) : Prop :=
      t.seq.wait = .coll h program ∧ t.seq.pc = s.seq.pc ∧ t.egress = s.egress ∧ t.lp = s.lp ∧
      ∃ c, t.colls.now = some c ∧ c.group = h ∧ c.program = program ∧ c.pos = 0 ∧ c.got = got ∧ c.sentUp = false
    (LeadsPeer s g →
      (s.atColl 1 = true → ∃ t, exec .collBarrier s = .next t ∧ holds t g 1 [(0, .arrive)] ∧ t.mem = s.mem) ∧
      (s.atColl 0x81 = true → s.seq.refused = true →
        ∃ t, exec .collFusedBarrier s = .next t ∧ holds t g 0x81 [(0, .arrive)] ∧ t.mem = s.mem) ∧
      (s.atColl 2 = true → ∃ t, exec .collStats s = .next t ∧ t.seq.wait = .coll g 2 ∧ t.seq.pc = s.seq.pc ∧
        t.colls = s.colls ∧ t.egress = s.egress ∧ t.mem = s.mem) ∧
      (s.atColl 3 = true → ∃ t, exec .collRouteGather s = .next t ∧ holds t g 3 [] ∧ t.mem = s.mem) ∧
      (s.atColl 4 = true → s.seq.frames = [] →
        ∃ t, exec .collRouteRestore s = .next t ∧ t.seq.wait = .fetch ∧ t.seq.pc = s.seq.pc + 8 ∧ t.colls.now = none ∧
          t.lp = s.lp ∧ t.egress = s.egress ++ [.peer (.coll (BitVec.ofNat 8 g) 4 .down 1
            (.stream (s.lp.read (s.storeAddr 1) (s.obj Obj.RZ_ROUTE_STORE_CAP))))] ∧
          ∀ a, a < s.obj Obj.RZ_ROUTE_STORE_STAGE ∨ s.obj Obj.RZ_ROUTE_STORE_STAGE + 1048576 ≤ a →
            t.mem.readByte a = s.mem.readByte a)) ∧
    (∀ h, s.seq.wait = .coll h 2 → LeadsPeer s h → s.steps = { b0 := none, b1 := none } →
      ∃ t, exec .statsBegin s = .next t ∧ holds t h 2 [(0, .stats s.localStats)] ∧
        (∀ a, s.obj Obj.RZ_STATS_BASE ≤ a → a < s.obj Obj.RZ_STATS_BASE + statBytes → t.mem.readByte a = 0) ∧
        (∀ a, a < s.obj Obj.RZ_STATS_BASE ∨ s.obj Obj.RZ_STATS_BASE + statBytes ≤ a →
          t.mem.readByte a = s.mem.readByte a)))

/-- Messages of a collective (R247, R251, R266): the release ends a barrier at a leaf; at the first member of its package's
group the other's arrival ends the barrier, whose release goes down, the other's LOCAL is added to its own, the sum stored as
RESULT and sent down, and the other's stream is stored. The sum is word by word: U32 words saturate, FP32 words round to
nearest. A position that stayed silent ends a COLL in a failure, which is counted and named and halts the sequencer with code 6.
That a message of no collective in progress waits for it is the model's choice (log entry 26). -/
def Obligations.CollMessagesAndTimeouts : Prop :=
  ∀ (s : State) (g : BitVec 8) (program : Byte) (dir : TreeDir) (pos : Nat) (body : CollBody),
    (s.active = true → s.colls.now = none →
      ∃ t, exec (.collMessage g program dir pos body) s = .next t ∧
        t.colls.early = s.colls.early ++ [{ group := g.toNat, program := program.toNat, dir := dir, pos := pos, body := body }] ∧
        { t with colls := s.colls } = s) ∧
    (∀ c, s.active = true → s.colls.now = some c → c.group = g.toNat → c.program = 1 → 0 < c.pos → c.sentUp = true →
      childrenOf (s.parents c.group) c.pos = [] → s.seq.wait = .coll c.group 1 → s.seq.frames = [] →
      s.seq.barrier.own = false →
      ∃ t, exec (.collMessage g 1 .down pos (.release none)) s = .next t ∧ t.colls.now = none ∧ t.seq.wait = .fetch ∧
        t.seq.pc = s.seq.pc + 8 ∧ { t with colls := s.colls, seq := s.seq, stores := s.stores } = s) ∧
    (∀ c, s.active = true → s.colls.now = some c → c.group = g.toNat → c.pos = 0 → c.sentUp = false →
      LeadsPeer s c.group → s.peerOpen = true → s.seq.wait = .coll c.group c.program → s.seq.frames = [] →
      s.seq.barrier.own = false →
      let done (t : State) : Prop := t.colls.now = none ∧ t.seq.wait = .fetch ∧ t.seq.pc = s.seq.pc + 8
      (c.program = 1 → c.got = [(0, .arrive)] → s.seq.fetched = none → s.flag Obj.RZ_TIMING_REPEAT = false →
        ∃ t, exec (.collMessage g 1 .up 1 .arrive) s = .next t ∧ done t ∧ ObjsBut [Obj.RZ_STATS_SAT] s t ∧
          t.egress = s.egress ++ [.peer (.coll g 1 .down 0 (.release none))] ∧
          { t with colls := s.colls, seq := s.seq, stores := s.stores, objs := s.objs, egress := s.egress } = s) ∧
      (∀ x y, c.program = 2 → c.got = [(0, .stats x)] →
        let r := sumStats x y
        ∃ t, exec (.collMessage g 2 .up 1 (.stats y)) s = .next t ∧ done t ∧
          t.egress = s.egress ++ [.peer (.coll g 2 .down 0 (.stats r.1))] ∧
          t.mem = s.mem.write (s.obj Obj.RZ_STATS_BASE + 1048576) r.1 ∧ t.lp = s.lp ∧
          t.obj Obj.RZ_STATS_SAT = (s.obj Obj.RZ_STATS_SAT + r.2) % 2 ^ 32 ∧ ObjsBut [Obj.RZ_STATS_SAT] s t) ∧
      (∀ bs, c.program = 3 → c.got = [] →
        ∃ t, exec (.collMessage g 3 .up 1 (.stream bs)) s = .next t ∧ done t ∧ t.egress = s.egress ∧
          t.lp = s.lp.write (s.storeAddr 1) bs ∧ ObjsBut [] s t ∧
          ∀ a, a < s.obj Obj.RZ_ROUTE_STORE_STAGE ∨ s.obj Obj.RZ_ROUTE_STORE_STAGE + 1048576 ≤ a →
            t.mem.readByte a = s.mem.readByte a)) ∧
    (∀ x y : List Byte, x.length = statBytes → y.length = statBytes →
      let r := (sumStats x y).1
      let word (l : List Byte) (o : Nat) : Nat := leNat (slice l o 4)
      r.length = statBytes ∧
      ∀ i, (i < 131072 → word r (64 + 4 * i) = min (2 ^ 32 - 1) (word x (64 + 4 * i) + word y (64 + 4 * i))) ∧
        (i < 65536 → BitVec.ofNat 32 (word r (524352 + 4 * i)) =
          F32.add (BitVec.ofNat 32 (word x (524352 + 4 * i))) (BitVec.ofNat 32 (word y (524352 + 4 * i))))) ∧
    (∀ c, s.colls.now = some c → c.group = g.toNat → c.program = program.toNat → program ≠ 0 → program ≠ 0x80 →
      pos ∈ s.collExpects c → c.sentAt + s.obj Obj.RZ_COLL_TIMEOUT ≤ s.core →
      s.seq.wait = .coll c.group c.program → s.log.replay = false →
      ∃ t, exec (.collTimeout g program pos) s = .next t ∧ t.colls.now = none ∧ t.seq.wait = .halted 6 ∧
        t.obj Obj.RZ_SEQ_STATE = 6 ∧ t.obj Obj.RZ_COLL_FAIL = (s.obj Obj.RZ_COLL_FAIL + 1) % 2 ^ 32 ∧
        t.obj Obj.RZ_COLL_LAST_FAIL = g.toNat * 2 ^ 24 + program.toNat * 2 ^ 16 + pos % 4096 ∧
        (t.obj Obj.RZ_ALERT_CAUSE).testBit 1 = true)

/-- The placement commit at a leaf (R255 to R257): GO begins it outside RUNNING and is held in RUNNING until its INPUT; a
begun commit checks the image, shows a failed check's code and sends its vote up; the decision makes the image's epoch the
committed one and shows 1, or shows 9. -/
def Obligations.PlacementCommit : Prop :=
  ∀ (s : State) (p : Path) (tag : ReqTag),
    (∀ ctrl : Byte, s.hearsRow p tag = true → ctrl.toNat % 128 = 0 → s.colls.commit = none → s.seq.held.place = false → s.log.replay = false →
      ((s.mode = .ready ∨ s.mode = .banked) →
        ∃ t, exec (.placeGo p tag ctrl) s = .next t ∧ t.obj Obj.RZ_PLACE_STATE = 2 ∧
          t.colls.commit = some { input := false, begun := false, image := [], code := 0, crc := 0 } ∧
          ObjsBut [Obj.RZ_PLACE_STATE] s t) ∧
      (s.mode = .running →
        ∃ t, exec (.placeGo p tag ctrl) s = .next t ∧
          t.seq = { s.seq with held := { s.seq.held with place := true } } ∧ t.colls = s.colls ∧ ObjsBut [] s t)) ∧
    (s.atInput 1 = true → s.colls.commit = none → s.log.replay = false → s.seq.held.place = true →
      ∃ t, exec .inputPlacementCommit s = .next t ∧ t.obj Obj.RZ_PLACE_STATE = 2 ∧ t.seq.wait = .commit ∧
        t.seq.held.place = false ∧
        t.colls.commit = some { input := true, begun := false, image := [], code := 0, crc := 0 } ∧
        ObjsBut [Obj.RZ_PLACE_STATE] s t) ∧
    (∀ c pos, s.colls.commit = some c → c.begun = false → s.commitMay = true → s.loads = true → s.colls.early = [] → s.peerOpen = true →
      HangsFromPeer s (s.obj Obj.RZ_PLACE_GROUP) pos →
      let img := s.readMem (s.obj Obj.RZ_PLACE_SRC) (min (s.obj Obj.RZ_PLACE_LEN) plMax)
      let code := plCheck (s.obj Obj.RZ_PLACE_LEN) (s.obj Obj.RZ_PLACE_EPOCH) img
      let crc : BitVec 32 := BitVec.ofNat 32 (PlHdr.bodyCrc (plHdr img))
      ∃ t, exec .placeCommitBegin s = .next t ∧
        t.colls.commit = some { c with begun := true, image := img, code := code, crc := crc } ∧
        t.egress = s.egress ++ [.peer (.coll (BitVec.ofNat 8 (s.obj Obj.RZ_PLACE_GROUP)) 0x80 .up pos (.vote (code == 1) crc))] ∧
        (code ≠ 1 → t.obj Obj.RZ_PLACE_STATE = code ∧ t.tables = s.tables) ∧
        (code = 1 → t.obj Obj.RZ_PLACE_STATE = s.obj Obj.RZ_PLACE_STATE)) ∧
    (∀ c pc, s.colls.now = some c → c.program = 0x80 → 0 < c.pos → c.sentUp = true →
      childrenOf (s.parents c.group) c.pos = [] → s.colls.commit = some pc → pc.input = false → s.log.replay = false →
      s.log.held = [] → s.logReady [128] = true → s.seq.barrier.startDue = false →
      (∃ t, exec (.placeDecision true) s = .next t ∧ t.obj Obj.RZ_PLACE_EPOCH = PlHdr.epoch (plHdr pc.image) ∧
        t.obj Obj.RZ_PLACE_STATE = 1 ∧ t.colls.commit = none ∧ t.colls.now = none ∧ t.tables.placed = true ∧
        ObjsBut [Obj.RZ_PLACE_EPOCH, Obj.RZ_PLACE_STATE, Obj.RZ_LOG_HEAD] s t) ∧
      (∃ t, exec (.placeDecision false) s = .next t ∧ t.obj Obj.RZ_PLACE_STATE = 9 ∧ t.colls.commit = none ∧
        t.colls.now = none ∧ t.tables = s.tables ∧ ObjsBut [Obj.RZ_PLACE_STATE, Obj.RZ_LOG_HEAD] s t))

/-! ### Inputs -/

/-- Router-bank loads (R66, R69 to R71): GO outside RUNNING starts a load, which shows 2, but not a header-only load of a bank
that is not valid; in RUNNING it is held until its INPUT; a full load ends in R69's code, or 3 where its header cannot be read,
and the bank holds the image where that is 1; a header-only load ends in 1, and replaces the header where its checks pass; an
INPUT that waited for its load goes on.
Function-table loads (R97, R99, R100): GO reads the image and shows 2 for the slot it names, in RUNNING from its INPUT
on; the load ends in R99's code with the index of what failed in RZ_FTAB_LAST_FAIL, and the slot holds the image where the
code is 1.
The model's choice for both: a load whose checks pass but whose digest was lost to parity errors ends in state 8 (log entry 38:
R290 refuses what needed the digest and the manual gives no code); a refused bank is left empty (log entry 36). -/
def Obligations.TableLoads : Prop :=
  (∀ (s : State) (p : Path) (tag : ReqTag) (ctrl : Byte),
    let b := ctrl.getLsbD 0
    let l (v : Nat) : Load := { ctrl := BitVec.ofNat 8 (v + b2n b), src := s.obj Obj.RZ_RBANK_SRC,
                                len := s.obj Obj.RZ_RBANK_LEN, image := none, input := false }
    (s.hearsRow p tag = true → bits ctrl.toNat 6 2 = 0 → s.log.replay = false → s.tables.rload = none → s.seq.held.rbank = none →
      ((s.mode = .ready ∨ s.mode = .banked) →
        (∃ t, exec (.rbankFullLoad p tag ctrl) s = .next t ∧ t.obj (rbankStateKey b) = 2 ∧
          t.tables = { s.tables with rload := some (l 0x80) } ∧ ObjsBut [rbankStateKey b] s t ∧ t.mem = s.mem) ∧
        (∃ t, exec (.rbankHeaderLoad p tag ctrl) s = .next t ∧
          t.obj (rbankStateKey b) = (if s.obj (rbankStateKey b) = 1 then 2 else s.obj (rbankStateKey b)) ∧
          t.tables = { s.tables with rload := some (l 0x82) } ∧ ObjsBut [rbankStateKey b] s t ∧ t.mem = s.mem)) ∧
      (s.mode = .running → s.seq.held.wdigest = none →
        (∃ t, exec (.rbankFullLoad p tag ctrl) s = .next t ∧
          t.seq = { s.seq with held := { s.seq.held with rbank := some (l 0x80) } } ∧ t.tables = s.tables ∧ ObjsBut [] s t) ∧
        (∃ t, exec (.rbankHeaderLoad p tag ctrl) s = .next t ∧
          t.seq = { s.seq with held := { s.seq.held with rbank := some (l 0x82) } } ∧ t.tables = s.tables ∧
          ObjsBut [] s t))) ∧
    (∀ l, s.atInput 2 = true → s.tables.rload = none → s.log.replay = false → s.seq.held.rbank = some l →
      s.seq.held.wdigest = none → s.bankUnused (l.ctrl.getLsbD 0) = true → l.ctrl.getLsbD 1 = false →
      s.logReady [32, 32, 32] = true →
      ∃ t, exec .inputRbankLoad s = .next t ∧ t.seq.wait = .load ∧ t.seq.pc = s.seq.pc ∧ t.seq.held.rbank = none ∧
        t.tables = { s.tables with rload := some { l with input := true } } ∧ t.obj (rbankStateKey (l.ctrl.getLsbD 0)) = 2 ∧
        ObjsBut [rbankStateKey (l.ctrl.getLsbD 0)] s t) ∧
    (∀ l (unreadable : Bool), s.tables.rload = some l → s.loads = true → s.logReady [128, 32] = true → s.log.replay = false →
      let b := l.ctrl.getLsbD 0
      (l.ctrl.getLsbD 1 = false →
        let img := s.readMem l.src (bankRead l.len)
        let code := if unreadable then 3 else if s.digestLost = true ∧ bankCheck l.len img = 1 then 8 else bankCheck l.len img
        ∃ t, exec (.rbankLoadDone unreadable) s = .next t ∧ t.obj (rbankStateKey b) = code ∧ t.tables.rload = none ∧
          (t.tables.rbanks.get b).bytes = (if code = 1 then img else []) ∧
          t.tables.rbanks.get (!b) = s.tables.rbanks.get (!b) ∧ ObjsBut [rbankStateKey b, Obj.RZ_LOG_HEAD] s t ∧
          t.mem = s.mem ∧
          (l.input = false → t.seq = s.seq) ∧
          (l.input = true → s.seq.wait = .load → s.seq.frames = [] → t.seq.wait = .fetch ∧ t.seq.pc = s.seq.pc + 8)) ∧
      (l.ctrl.getLsbD 1 = true → s.obj (rbankStateKey b) = 2 →
        let hdr := s.readMem l.src 64
        let old := (s.tables.rbanks.get b).bytes
        ∃ t, exec (.rbankLoadDone unreadable) s = .next t ∧ t.obj (rbankStateKey b) = 1 ∧ t.tables.rload = none ∧
          (t.tables.rbanks.get b).bytes =
            (if unreadable = false ∧ s.digestLost = false ∧ headerLoadOk (s.bankHdr b) (ofBytes 512 hdr) = true
             then hdr ++ old.drop 64 else old) ∧
          t.mem = s.mem))) ∧
  (∀ (s : State) (p : Path) (tag : ReqTag) (ctrl : Byte),
    let l : Load := { ctrl := 0x80, src := s.obj Obj.RZ_FTAB_SRC, len := s.obj Obj.RZ_FTAB_LEN, image := none, input := false }
    (s.hearsRow p tag = true → bits ctrl.toNat 6 0 = 0 → s.log.replay = false → s.tables.fload = none → s.seq.held.ftab = none →
      ((s.mode = .ready ∨ s.mode = .banked) → s.log.held = [] → s.logReady [tableRead l.len] = true →
        let img := s.readMem l.src (tableRead l.len)
        let slot := FtHdr.slot (ftHdr img)
        11 ≤ slot →
        ∃ t, exec (.ftabLoad p tag ctrl) s = .next t ∧ t.obj (ftabStateKey slot) = 2 ∧
          t.tables = { s.tables with fload := some { l with image := some img } } ∧
          ObjsBut [ftabStateKey slot, Obj.RZ_LOG_HEAD] s t ∧ t.mem = s.mem) ∧
      (s.mode = .running → s.log.held = [] →
        ∃ t, exec (.ftabLoad p tag ctrl) s = .next t ∧
          t.seq = { s.seq with held := { s.seq.held with ftab := some l } } ∧ t.tables = s.tables ∧ ObjsBut [] s t)) ∧
    (∀ l, s.atInput 5 = true → s.tables.fload = none → s.log.replay = false → s.seq.held.ftab = some l →
      let img := s.ftabImage l
      s.logReady [img.length] = true →
      let slot := FtHdr.slot (ftHdr img)
      11 ≤ slot → s.slotUnused slot = true →
      ∃ t, exec .inputFtabLoad s = .next t ∧ t.seq.wait = .load ∧ t.seq.pc = s.seq.pc ∧ t.seq.held.ftab = none ∧
        t.tables = { s.tables with fload := some { l with input := true, image := some img } } ∧
        t.obj (ftabStateKey slot) = 2 ∧ ObjsBut [ftabStateKey slot, Obj.RZ_LOG_HEAD] s t) ∧
    (∀ l, s.tables.fload = some l → s.loads = true → s.logReady [32, 32] = true →
      let img := s.ftabImage l
      let slot := FtHdr.slot (ftHdr img)
      let r : Nat × Nat := if s.digestLost = true ∧ (ftCheck l.len img).1 = 1 then (8, 0) else ftCheck l.len img
      11 ≤ slot →
      ∃ t, exec .ftabLoadDone s = .next t ∧ t.obj (ftabStateKey slot) = r.1 ∧ t.tables.fload = none ∧
        (s.tables.fslots.length = 5 → t.slotImage slot = (if r.1 = 1 then img else [])) ∧
        (r.1 ≠ 1 → t.obj Obj.RZ_FTAB_LAST_FAIL = slot * 2 ^ 24 + r.1 * 2 ^ 16 + r.2) ∧
        ObjsBut [ftabStateKey slot, Obj.RZ_FTAB_LAST_FAIL, Obj.RZ_LOG_HEAD] s t ∧ t.mem = s.mem ∧
        (l.input = true → s.seq.wait = .load → s.seq.frames = [] → t.seq.wait = .fetch ∧ t.seq.pc = s.seq.pc + 8)))

/-- Seeds and skip masks (R38, R60, R101, R115, R116): the primary's write takes effect outside RUNNING, is held in RUNNING,
and goes to the secondary, which does the same with it; INPUT takes the held one, or one kept for a rewind. -/
def Obligations.SeedsAndMasks : Prop :=
  ∀ (s : State) (p : Path) (tag : ReqTag) (ctrl : Byte) (v : BitVec 64) (addr : BitVec 64) (len : BitVec 32), s.log.replay = false →
    s.log.held = [] →
    let sends (t : State) (i : PeerInput) : Prop :=
      s.peerOpen = true → ∃ more, t.egress = s.egress ++ .peer (.hostInput i) :: more
    let src := s.obj Obj.RZ_SKIP_SRC
    let n := s.obj Obj.RZ_SKIP_LEN
    (s.hearsRow p tag = true → s.primary = true → (s.mode = .ready ∨ s.mode = .banked) → bits ctrl.toNat 6 0 = 0 →
      (s.logReady [8] = true → ∃ t, exec (.noiseSeedWrite p tag v) s = .next t ∧ t.obj Obj.RZ_NOISE_SEED = v.toNat ∧ t.seq = s.seq ∧
        sends t (.seed v) ∧ ObjsBut [Obj.RZ_NOISE_SEED, Obj.RZ_LOG_HEAD] s t) ∧
      (s.logReady (maskSizes (ceilDiv n 8)) = true →
        ∃ t, exec (.skipMaskGo p tag ctrl) s = .next t ∧ t.seq = { s.seq with mask := some (maskOf src n) } ∧
          sends t (.mask (BitVec.ofNat 64 src) (BitVec.ofNat 32 n)) ∧ ObjsBut [Obj.RZ_LOG_HEAD] s t)) ∧
    (s.hearsRow p tag = true → s.primary = true → s.mode = .running → bits ctrl.toNat 6 0 = 0 →
      (s.seq.held.seed = none →
        ∃ t, exec (.noiseSeedWrite p tag v) s = .next t ∧
          t.seq = { s.seq with held := { s.seq.held with seed := some v } } ∧ sends t (.seed v) ∧ ObjsBut [] s t) ∧
      (∃ t, exec (.skipMaskGo p tag ctrl) s = .next t ∧
        t.seq = { s.seq with held := { s.seq.held with mask := some (maskOf src n) } } ∧
        sends t (.mask (BitVec.ofNat 64 src) (BitVec.ofNat 32 n)) ∧ ObjsBut [] s t)) ∧
    (s.primary = false → s.mode = .running →
      (∃ t, exec (.hostInputForward (.seed v)) s = .next t ∧
        t = { s with seq := { s.seq with held := { s.seq.held with seed := some v } } }) ∧
      (∃ t, exec (.hostInputForward (.mask addr len)) s = .next t ∧
        t = { s with seq := { s.seq with held := { s.seq.held with mask := some (maskOf addr.toNat len.toNat) } } })) ∧
    (s.atInput 3 = true → s.seq.frames = [] →
      (∀ v vs, s.seq.keptSeeds = v :: vs →
        ∃ t, exec .inputSeed s = .next t ∧ t.obj Obj.RZ_NOISE_SEED = v.toNat ∧ t.seq.keptSeeds = vs ∧
          t.seq.held = s.seq.held ∧ t.seq.wait = .fetch ∧ t.seq.pc = s.seq.pc + 8 ∧ ObjsBut [Obj.RZ_NOISE_SEED] s t) ∧
      (∀ v, s.seq.keptSeeds = [] → s.seq.held.seed = some v → s.logReady [8] = true →
        ∃ t, exec .inputSeed s = .next t ∧ t.obj Obj.RZ_NOISE_SEED = v.toNat ∧ t.seq.held.seed = none ∧
          t.seq.wait = .fetch ∧ t.seq.pc = s.seq.pc + 8 ∧ ObjsBut [Obj.RZ_NOISE_SEED, Obj.RZ_LOG_HEAD] s t)) ∧
    (s.atInput 4 = true → s.seq.frames = [] →
      (∀ m ms, s.seq.keptMasks = m :: ms →
        ∃ t, exec .inputSkipMask s = .next t ∧ t.seq.mask = some m ∧ t.seq.keptMasks = ms ∧ t.seq.held = s.seq.held ∧
          t.seq.wait = .fetch ∧ t.seq.pc = s.seq.pc + 8 ∧ ObjsBut [] s t) ∧
      (∀ m, s.seq.keptMasks = [] → s.seq.held.mask = some m → s.maskReady m = true →
        ∃ t, exec .inputSkipMask s = .next t ∧ t.seq.mask = some m ∧ t.seq.held.mask = none ∧ t.seq.wait = .fetch ∧
          t.seq.pc = s.seq.pc + 8 ∧ ObjsBut [Obj.RZ_LOG_HEAD] s t))

/-- Verdicts and host cancels (R59 to R62, R231): with repeatable timing a verdict in time waits at its step; without, it is
the step's variant; a verdict or cancel of no step, and one that comes late, is discarded and counted; a verdict that did not
come is replaced and counted; a cancel ends the step and advances the batch epoch. Each with room for its record in the log
(R280). The primary tells the secondary the word with whether it came in time, and a verdict's time that has passed: that the
secondary judges neither by itself is the model's reading (log entry 15). -/
def Obligations.Verdicts : Prop :=
  ∀ (s : State) (p : Path) (tag : ReqTag) (w : BitVec 64), s.mode = .running → s.log.replay = false →
    s.hearsRow p tag = true → s.log.held = [] → s.logReady [8] = true →
    (∀ b u, s.primary = true → s.kindle.peerGone = false → s.wordStep w = some (b, u) → u.awaits = true →
      s.core ≤ u.t0 + Desc.dVerdict u.desc → fld w 19 4 = 0 → fld w 3 0 < Desc.capVariants u.desc → fld w 3 0 ≠ 8 →
      (s.flag Obj.RZ_TIMING_REPEAT = true →
        ∃ t, exec (.verdict p tag w) s = .next t ∧ t.steps = s.steps.set b (some { u with waitVerdict := some (fld w 3 0) }) ∧
          ObjsBut [Obj.RZ_LOG_HEAD] s t ∧ ∃ more, t.egress = s.egress ++ .peer (.hostInput (.verdict w true)) :: more) ∧
      (s.flag Obj.RZ_TIMING_REPEAT = false → u.scan.seen = [] → u.scan.sentUp = false → u.scan.downSent = [] →
        ∃ t, exec (.verdict p tag w) s = .next t ∧
          t.steps = s.steps.set b (some { u with variant := some (fld w 3 0), scan := { u.scan with own := some (fld w 3 0) } }) ∧
          ObjsBut [Obj.RZ_LOG_HEAD] s t ∧ ∃ more, t.egress = s.egress ++ .peer (.hostInput (.verdict w true)) :: more)) ∧
    (let discarded (t : State) : Prop :=
        t.obj Obj.RZ_VERDICT_DISCARD = (s.obj Obj.RZ_VERDICT_DISCARD + 1) % 2 ^ 32 ∧ t.steps = s.steps ∧ t.mem = s.mem
     let discards (i : Instr) : Prop := ∃ t, exec i s = .next t ∧ discarded t
     (s.wordStep w = none →
      (s.primary = true → discards (.verdict p tag w) ∧ discards (.hostCancel p tag w)) ∧
      (s.primary = false →
        (∀ timely, discards (.hostInputForward (.verdict w timely))) ∧ discards (.hostInputForward (.cancel w)))) ∧
     (s.primary = false → discards (.hostInputForward (.verdict w false))) ∧
     (∀ b u, s.primary = true → s.kindle.peerGone = false → s.wordStep w = some (b, u) →
      u.t0 + Desc.dVerdict u.desc < s.core →
      ∃ t, exec (.verdict p tag w) s = .next t ∧ discarded t ∧
        ∃ more, t.egress = s.egress ++ .peer (.hostInput (.verdict w false)) :: more)) ∧
    (∀ b u, s.primary = true → s.kindle.peerGone = false → s.steps.get b = some u → s.steps.get (!b) = none → u.awaits = true →
      u.t0 + Desc.dVerdict u.desc < s.core → Desc.verdictMode u.desc = 1 → u.scan.seen = [] → u.scan.sentUp = false →
      u.scan.downSent = [] →
      ∃ t, exec .verdictTimeout s = .next t ∧ t.obj Obj.RZ_VERDICT_LATE = (s.obj Obj.RZ_VERDICT_LATE + 1) % 2 ^ 32 ∧
        (∃ x, t.steps.get b = some x ∧ x.variant = some (Desc.capDefault u.desc) ∧ x.cancelled = false) ∧
        t.egress = s.egress ++ [.peer (.hostInput (.verdictTimeout (Desc.stepId u.desc) (Desc.batch u.desc)))] ∧
        ObjsBut [Obj.RZ_VERDICT_LATE, Obj.RZ_LOG_HEAD] s t) ∧
    (∀ b u, s.wordStep w = some (b, u) → fld w 19 0 = 0 →
      let cancels (i : Instr) : Prop := ∃ t x, exec i s = .next t ∧ t.steps.get b = some x ∧ x.ended = .cancelled ∧
        x.cancelled = true ∧ t.obj Obj.RZ_BATCH_EPOCH = (s.obj Obj.RZ_BATCH_EPOCH + 1) % 4096
      (s.primary = true → cancels (.hostCancel p tag w)) ∧
      (s.primary = false → cancels (.hostInputForward (.cancel w))))

/-! ### The object dictionary -/

/-- Scalar writes of objects that are no command (R293, R295, R301, R302, R305): when every check passes the object takes the
value and nothing else changes but the answer; when one fails nothing changes but the answer and RZ_OD_REFUSED.
Reads (R301, R302, R307) over MCTP: the value of a scalar but RZ_POOL_MIN_FREE, and the bytes of a segment, as they stand, and
no other effect; a refused one answers its status. The object port gives a scalar in OA_DATA. An answered MCTP request enters
the queue of R303 with its cycle; how long it may count there is the model's reading (log entry 38). -/
def Obligations.ReadsAndWrites : Prop :=
  (∀ (s : State) (r : OdReq), s.hears r true = true →
    let key := odKey r
    let st := writeStatus s r (s.ownRules key (odVal r))
    let answers (t : State) : Prop :=
      { t with objs := s.objs, dict := s.dict, egress := s.egress } = s ∧
      (r.path = .mctp → t.dict = s.dict.answered s ∧ t.egress = s.egress ++ [.mctp (mctpResponse r.tag 2 st [])]) ∧
      (r.path = .port → t.egress = s.egress ∧ t.dict.oaStatus = BitVec.ofNat 8 st ∧ t.dict.oaCount = s.dict.oaCount + 1) ∧
      (r.path = .doorbell → t.egress = s.egress ∧ t.dict.dbStatus = BitVec.ofNat 8 st)
    (st = St.ok →
      key ∉ [Obj.RZ_STATE_CMD, Obj.RZ_SEQ_CMD, Obj.RZ_VERDICT, Obj.RZ_CANCEL, Obj.RZ_RBANK_CTRL, Obj.RZ_FTAB_CTRL,
        Obj.RZ_NOISE_SEED, Obj.RZ_SKIP_CTRL, Obj.RZ_PLACE_CTRL, Obj.RZ_DIGEST_CTRL, Obj.RZ_LAYOUT_COMMIT, Obj.RZ_FTIME_NEXT,
        Obj.RZ_EXPERT_UNLOCK, Obj.RZ_ALERT_ACK, Obj.RZ_PERSIST_CMD, Obj.RZ_XSPI_CMD, Obj.RZ_LJOB_TAIL,
        Obj.RZ_STOKE_EN, Obj.RZ_LOG_TAIL, Obj.RZ_LOG_EN] →
      ∃ t, exec (.objectWrite r) s = .next t ∧ t.obj key = odStored key (odVal r) ∧ ObjsBut [key] s t ∧ answers t) ∧
    (st ≠ St.ok →
      ∃ t, exec (.objectWrite r) s = .next t ∧ t.obj Obj.RZ_OD_REFUSED = (s.obj Obj.RZ_OD_REFUSED + 1) % 2 ^ 32 ∧
        ObjsBut [Obj.RZ_OD_REFUSED] s t ∧ answers t)) ∧
  (∀ (s : State) (r : OdReq), s.hears r true = true → r.path = .port →
    (readStatus r = St.ok → odKey r ≠ Obj.RZ_POOL_MIN_FREE →
      ∃ t, exec (.read r) s = .next t ∧ { t with dict := s.dict } = s ∧ t.dict.oaStatus = 0 ∧
        t.dict.oaData = BitVec.ofNat 64 (leNat (leBytes (odWidth (odKey r) / 8) (s.readObj (odKey r)))) ∧
        t.dict.oaCount = s.dict.oaCount + 1)) ∧
  (∀ (s : State) (r : OdReq), s.hears r true = true → r.path = .mctp →
    (readStatus r = St.ok → odKey r ≠ Obj.RZ_POOL_MIN_FREE →
      ∃ t, exec (.read r) s = .next t ∧ { t with egress := s.egress } = { s with dict := s.dict.answered s } ∧
        t.egress = s.egress ++ [.mctp (mctpResponse r.tag 1 0 (leBytes (odWidth (odKey r) / 8) (s.readObj (odKey r))))]) ∧
    (readStatus r ≠ St.ok →
      ∃ t, exec (.read r) s = .next t ∧
        { t with objs := s.objs, egress := s.egress } = { s with dict := s.dict.answered s } ∧
        ObjsBut [Obj.RZ_OD_REFUSED] s t ∧ t.egress = s.egress ++ [.mctp (mctpResponse r.tag 1 (readStatus r) [])]) ∧
    (s.hears r false = true → segReadStatus s r = St.ok →
      ∃ t, exec (.segRead r) s = .next t ∧ { t with egress := s.egress } = { s with dict := s.dict.answered s } ∧
        t.egress = s.egress ++ [.mctp (mctpResponse r.tag 3 0 (s.domainRead (odKey r) r.offset.toNat r.len.toNat))]))

/-- R5: a write of a reserved role code, and a write in a state other than READY or BANKED, is refused over every path, a write
of OA_CMD in the register window included: the object keeps its value. A request that the engine answers counts in RZ_OD_REFUSED
and nothing else changes but the answer. -/
def Obligations.PhaseRoleWritesRefused : Prop :=
  (∀ (s : State) (r : OdReq), odKey r = Obj.RZ_PHASE_ROLE → r.path ≠ .window →
    (2 < odVal r ∨ (s.mode ≠ .ready ∧ s.mode ≠ .banked ∧ s.mode ≠ .powerFail)) →
    ∃ t, exec (.objectWrite r) s = .next t ∧ t.obj Obj.RZ_PHASE_ROLE = s.obj Obj.RZ_PHASE_ROLE ∧
      { t with objs := s.objs, dict := s.dict, egress := s.egress } = s ∧ ObjsBut [Obj.RZ_OD_REFUSED] s t ∧
      (s.mode = .off → t = s) ∧
      (s.hears r true = true → t.obj Obj.RZ_OD_REFUSED = (s.obj Obj.RZ_OD_REFUSED + 1) % 2 ^ 32 ∧
        (r.path = .mctp → ∃ st, st ≠ 0 ∧ t.egress = s.egress ++ [.mctp (mctpResponse r.tag 2 st [])]))) ∧
  (∀ (s : State) (r : OdReq), r.path = .window → r.offset = 0x0110 → leNat r.data = 2 → 8 ≤ r.data.length →
    fld s.dict.oaAddr 23 0 = Obj.RZ_PHASE_ROLE →
    (2 < s.dict.oaData.toNat % 256 ∨ (s.mode ≠ .ready ∧ s.mode ≠ .banked ∧ s.mode ≠ .powerFail)) →
    ∃ t, exec (.objectWrite r) s = .next t ∧ t.obj Obj.RZ_PHASE_ROLE = s.obj Obj.RZ_PHASE_ROLE ∧
      ObjsBut [Obj.RZ_OD_REFUSED] s t ∧ { t with objs := s.objs, dict := s.dict } = s)

/-- A write that fails several conditions of Table 12-6 reports the lowest code (R301). -/
def Obligations.ChecksInAscendingOrder : Prop :=
  ∀ (s : State) (r : OdReq) (own : OwnRules) (row : OdRow), odRow (odKey r) = some row →
    let bad := badRequest r false = true
    let access := row.acc = .ro ∨ row.acc = .const ∨ row.ty.isScalar = false ∨ (odKey r ∈ hostInputs ∧ s.primary = false)
    let length := badLength r row.ty.size true = true
    let replay := s.log.replay = true ∧ odKey r ∈ replayInputs
    let locked := odExpert (odKey r) = true ∧ s.unlocked r.path = false
    let state := s.accepts row.acc (odKey r) = false ∨ own.state = false
    let busy := (row.acc = .rws ∧ s.seq.checking = true) ∨ own.busy = true
    let value := odWriteOk s row (odVal r) = false ∨ own.value = false
    (bad → writeStatus s r own = 1) ∧
    (¬bad → access → writeStatus s r own = 3) ∧
    (¬bad → ¬access → length → writeStatus s r own = 4) ∧
    (¬bad → ¬access → ¬length → replay → writeStatus s r own = 5) ∧
    (¬bad → ¬access → ¬length → ¬replay → locked → writeStatus s r own = 6) ∧
    (¬bad → ¬access → ¬length → ¬replay → ¬locked → state → writeStatus s r own = 7) ∧
    (¬bad → ¬access → ¬length → ¬replay → ¬locked → ¬state → busy → writeStatus s r own = 8) ∧
    (¬bad → ¬access → ¬length → ¬replay → ¬locked → ¬state → ¬busy → value → writeStatus s r own = 10) ∧
    (¬bad → ¬access → ¬length → ¬replay → ¬locked → ¬state → ¬busy → ¬value → writeStatus s r own = 0)

/-- Domain writes (R308): a segment is staged, the last one makes the whole value the object's; a transfer that has waited too
long is abandoned, and its next segment answered with TIMEOUT. Shown whole for the owner table (R143: RZ_LAYOUT_STATE shows 2)
and for the expert-weight digest (R287), held in RUNNING. -/
def Obligations.DomainWrites : Prop :=
  (∀ (s : State) (r : OdReq), s.hears r false = true → s.reachesAbandoned r = false →
    let stage := s.obj Obj.RZ_DOMAIN_STAGE + r.offset.toNat
    (segWriteStatus s r false = St.ok →
      ∃ t, exec (.segWrite r) s = .next t ∧ t.mem = s.mem.write stage r.data ∧ t.tables = s.tables ∧ ObjsBut [] s t ∧
        t.dict.xfer = some { path := r.path, key := odKey r, len := r.offset.toNat + r.len.toNat }) ∧
    (segWriteStatus s r true = St.ok → odKey r = Obj.RZ_OWNER_TABLE →
      ∃ t, exec (.segWriteEnd r) s = .next t ∧ t.mem = s.mem.write stage r.data ∧ t.dict.xfer = none ∧
        t.tables = { s.tables with owner := tabOfBytes 128 16384 (s.stagedWith r) } ∧ t.obj Obj.RZ_LAYOUT_STATE = 2 ∧
        ObjsBut [Obj.RZ_LAYOUT_STATE] s t) ∧
    (segWriteStatus s r true = St.ok → odKey r = Obj.RZ_EXPERT_WDIGEST →
      (s.mode = .running →
        ∃ t, exec (.expertWdigestWrite r) s = .next t ∧ t.mem = s.mem.write stage r.data ∧ t.digests = s.digests ∧
          t.seq = { s.seq with held := { s.seq.held with wdigest := some (s.stagedWith r) } } ∧ ObjsBut [] s t) ∧
      (s.mode ≠ .running → s.log.held = [] → s.logReady [32, 32, 32] = true →
        ∃ t, exec (.expertWdigestWrite r) s = .next t ∧ t.mem = s.mem.write stage r.data ∧
          t.digests.wdigest = s.stagedWith r ∧ t.seq = s.seq ∧ ObjsBut [Obj.RZ_LOG_HEAD] s t)) ∧
    (∀ x, s.dict.xfer = some x →
      ∃ t, exec .domainTransferTimeout s = .next t ∧ t = { s with dict := { s.dict with xfer := none, abandoned := s.dict.dropped } })) ∧
  (∀ (s : State) (r : OdReq), s.hears r false = true → s.reachesAbandoned r = true → r.path = .mctp → odRow (odKey r) ≠ none →
    ∃ t, exec (.segWrite r) s = .next t ∧ t.mem = s.mem ∧ t.dict = (s.dict.forget .mctp (odKey r)).answered s ∧
      t.egress = s.egress ++ [.mctp (mctpResponse r.tag 4 11 [])] ∧ ObjsBut [Obj.RZ_OD_REFUSED] s t)

/-- The expert lock and the alert causes (R296, R314): RZ_EXPERT_UNLOCK opens or closes the lock of the path that wrote it,
and counts a value that is neither 0 nor the unlock value; RZ_ALERT_ACK clears the causes whose bits it writes as 1. -/
def Obligations.UnlockAndAcknowledge : Prop :=
  ∀ (s : State) (p : Path) (tag : ReqTag) (v : BitVec 32), s.hearsRow p tag = true →
    s.shown ≠ .off → s.shown ≠ .powerFail →
    (∃ t, exec (.expertUnlock p tag v) s = .next t ∧
      (p = .mctp → t.dict.unlockMctp = decide (v = 0x4F50454E) ∧ t.dict.unlockBand = s.dict.unlockBand) ∧
      (p ≠ .mctp → t.dict.unlockBand = decide (v = 0x4F50454E) ∧ t.dict.unlockMctp = s.dict.unlockMctp) ∧
      t.obj Obj.RZ_UNLOCK_FAIL =
        (if v = 0 ∨ v = 0x4F50454E then s.obj Obj.RZ_UNLOCK_FAIL else (s.obj Obj.RZ_UNLOCK_FAIL + 1) % 2 ^ 32) ∧
      ObjsBut [Obj.RZ_UNLOCK_FAIL] s t) ∧
    (v.toNat < 2 ^ 9 → ∃ t, exec (.alertAck p tag v) s = .next t ∧
      t.obj Obj.RZ_ALERT_CAUSE = s.obj Obj.RZ_ALERT_CAUSE - (s.obj Obj.RZ_ALERT_CAUSE &&& v.toNat) ∧
      ObjsBut [Obj.RZ_ALERT_CAUSE] s t)

/-- MCTP control (R302, in the layout of log entry 10): each request of the table is answered with its completion code; an
endpoint ID from 8 to 254 is taken. -/
def Obligations.MctpControl : Prop :=
  ∀ (s : State) (inst : ReqTag) (op eid ty sel cmd : Byte), s.mode ≠ .off →
    let control (cmd cc : Byte) (data : List Byte) : List Msg :=
      [.mctp (mctpPackets inst.mtag ([0x00, inst.tag &&& 0x1F, cmd, cc] ++ data))]
    let answers (i : Instr) (cmd cc : Byte) (data : List Byte) : Prop := ∃ t, exec i s = .next t ∧
      { t with egress := s.egress } = s ∧ t.egress = s.egress ++ control cmd cc data
    (op.toNat % 4 ≤ 1 → 8 ≤ eid.toNat → eid.toNat ≤ 254 →
      ∃ t, exec (.setEndpointId inst op eid) s = .next t ∧ t.obj Obj.RZ_MCTP_EID = eid.toNat ∧
        ObjsBut [Obj.RZ_MCTP_EID] s t ∧ t.egress = s.egress ++ control 1 0 [0, eid, 0] ∧
        { t with objs := s.objs, egress := s.egress } = s) ∧
    ((eid.toNat < 8 ∨ eid.toNat = 255) → answers (.setEndpointId inst op eid) 1 2 []) ∧
    answers (.getEndpointId inst) 2 0 [BitVec.ofNat 8 (s.obj Obj.RZ_MCTP_EID), 0, 0] ∧
    answers (.getEndpointUuid inst) 3 0 ((List.range 16).map Config.endpointUuid) ∧
    ((ty = 0 ∨ ty = 0xFF) → answers (.getMctpVersionSupport inst ty) 4 0 [1, 0xF1, 0xF3, 0xFF, 0x00]) ∧
    (ty ≠ 0 → ty ≠ 0xFF → answers (.getMctpVersionSupport inst ty) 4 0x80 []) ∧
    answers (.getMessageTypeSupport inst) 5 0 [1, 0x7F] ∧
    (sel ≠ 0 → answers (.getVendorDefinedMessageSupport inst sel) 6 2 []) ∧
    (∃ t v, exec (.getVendorDefinedMessageSupport inst 0) s = .next t ∧ t.free = s.free + 1 ∧
      { t with egress := s.egress, free := s.free } = s ∧
      t.egress = s.egress ++ control 6 0 ([0xFF, 0x01] ++ beBytes 4 (Config.partConst Obj.RZ_VENDOR_IANA) ++ beBytes 2 v)) ∧
    answers (.errorUnsupportedCmd inst cmd) cmd 5 [] ∧
    (∃ t, exec (.dynamicAddressAssigned eid) s = .next t ∧ t.obj Obj.RZ_I3C_DYN_ADDR = eid.toNat ∧
      ObjsBut [Obj.RZ_I3C_DYN_ADDR] s t ∧ { t with objs := s.objs } = s)

/-- The input digest (R287, R288): a phase starts in READY, or ends at once in failure where its inputs are unusable; phase 1
ends with the block digests written, shown for one tensor of one block, phase 2 with D_in once its LOADs are back; a read
error, or a digest lost to parity errors (R290), fails either: that the phase then shows 3 is the model's choice (log entry 38:
R290 refuses what needed the digest and the manual gives no code). The engines keep the digests formed (log entry 39). -/
def Obligations.InputDigest : Prop :=
  ∀ (s : State) (p : Path) (tag : ReqTag) (bad : Bool),
    (s.mode = .ready → s.hearsRow p tag = true →
      (∃ t, exec (.digestPhase1 p tag) s = .next t ∧
        t.digests = { s.digests with phase1 := if s.phase1Ok = true then 1 else 3 } ∧ t.mem = s.mem ∧ ObjsBut [] s t) ∧
      (∃ t, exec (.digestPhase2 p tag) s = .next t ∧
        t.digests = { s.digests with phase2 := if s.phase2Ok = true then 1 else 3 } ∧ t.mem = s.mem ∧ ObjsBut [] s t)) ∧
    (s.digests.phase1 = 1 →
      ((bad || s.digestLost) = true →
        ∃ t, exec (.digestPhaseDone bad) s = .next t ∧ t = { s with digests := { s.digests with phase1 := 3, parity := 0 } }) ∧
      (∀ h, s.digestLost = false → s.inputHandles = [h] → TRec.nblk (s.tensor h) = 1 →
        let i := TRec.firstBlock (s.tensor h)
        samePackage (OEnt.owner (s.ownerEnt i)) s.node = true → (i % 2 == 1) = s.ident.eng →
        ∃ t, exec (.digestPhaseDone false) s = .next t ∧
          t = { s with digests := { s.digests.formed (s.blockDigest h 0) with phase1 := 2, parity := 0 }
                       mem := s.mem.write (s.obj Obj.RZ_BDIGEST_BASE + i * 32) (s.blockDigest h 0) })) ∧
    (s.digests.phase1 ≠ 1 → s.digests.phase2 = 1 → s.fetched .digest = true →
      ∃ t, exec (.digestPhaseDone bad) s = .next t ∧ t = { s.dropFetch .digest with
        digests := if (bad || s.digestLost) = true then { s.digests with phase2 := 3, parity := 0 }
          else { s.digests.formed s.inputDigest with input := s.inputDigest, phase2 := 2, parity := 0 } })

/-! ### Persistence -/

/-- The commands of RZ_PERSIST_CMD and RZ_XSPI_CMD (R298, R334, R335, R338) with nothing open: a commit begins where the
hold-up energy is enough for its bytes; a read begins where the part holds what it asks for, else the state shows 5. That
LOG_FREE releases min(ARG + 1, held) segments, the named one and every older one, is the model's choice (log entry 29). -/
def Obligations.PersistenceCommands : Prop :=
  ∀ (s : State) (p : Path) (tag : ReqTag), s.hearsRow p tag = true → (s.mode = .ready ∨ s.mode = .banked) → s.xOpen = false → s.seq.checking = false →
    s.xspi.commit = none →
    let fits (n : Nat) : Prop := s.pins.holdup = true ∧ 3500 + 42 * ceilDiv n 1024 ≤ 10 * s.obj Obj.RZ_HOLDUP_MJ
    let commits (i : Instr) (k : CommitKind) (bytes : List Byte) (arg : Nat) (key : Nat) : Prop :=
      ∃ t, exec i s = .next t ∧ t.obj key = 1 ∧ t.mem = s.mem ∧ t.xspi = { s.xspi with
        commit := some { kind := k, auto := false, copy := s.commitCopy k, bytes := bytes, arg := arg } }
    let reads (i : Instr) (r : XRead) : Prop :=
      ∃ t, exec i s = .next t ∧ t.obj Obj.RZ_XSPI_STATE = 2 ∧ t.mem = s.mem ∧ t.xspi = { s.xspi with read := some r }
    let nothing (i : Instr) : Prop :=
      ∃ t, exec i s = .next t ∧ t.obj Obj.RZ_XSPI_STATE = 5 ∧ t.xspi = s.xspi ∧ ObjsBut [Obj.RZ_XSPI_STATE] s t
    let seg := s.obj Obj.RZ_LOG_SEG
    let arg := s.obj Obj.RZ_XSPI_ARG
    (fits s.objectSet.length → commits (.save p tag) .objects s.objectSet 0 Obj.RZ_PERSIST_STATE) ∧
    (fits emptySet.length → commits (.clear p tag) .empty emptySet 0 Obj.RZ_PERSIST_STATE) ∧
    (∀ rs, readSet s true s.dict.edit = .good rs → fits s.dict.edit.length →
      commits (.edit p tag) .objects s.dict.edit 0 Obj.RZ_PERSIST_STATE) ∧
    (∀ k, readSet s true s.dict.edit = .bad k →
      ∃ t, exec (.edit p tag) s = .next t ∧ t.obj Obj.RZ_PERSIST_STATE = 4 ∧ t.obj Obj.RZ_PERSIST_LAST = k * 256 ∧
        t.xspi = s.xspi ∧ (t.obj Obj.RZ_ALERT_CAUSE).testBit 6 = true) ∧
    (fits s.placementImage.length → commits (.placeSave p tag) .placement s.placementImage 0 Obj.RZ_XSPI_STATE) ∧
    (fits (s.sootSnapshot 0).length → commits (.sootSnap p tag) .soot (s.sootSnapshot 0) 0 Obj.RZ_XSPI_STATE) ∧
    (s.xspi.logHeld ≠ 0 → fits 0 →
      commits (.logFree p tag) .free [] (min (arg + 1) s.xspi.logHeld) Obj.RZ_XSPI_STATE) ∧
    (s.xspi.logHeld = 0 → nothing (.logFree p tag)) ∧
    (s.mode = .ready →
      (∀ r, s.xspi.newestValid seg .placement = some r → reads (.placeLoad p tag)
        { load := true, dst := s.obj Obj.RZ_PLACE_SRC,
          bytes := withEpoch (s.xspi.content seg r) ((s.obj Obj.RZ_PLACE_EPOCH + 1) % 65536) }) ∧
      (s.xspi.newestValid seg .placement = none → nothing (.placeLoad p tag))) ∧
    (arg < s.xspi.logHeld → reads (.logRead p tag)
      { load := false, dst := s.obj Obj.RZ_XSPI_DST,
        bytes := s.xspi.nor.read (0x1000000 + (s.xspi.logFirst + arg) % s.logSlots * seg) seg }) ∧
    (s.xspi.logHeld ≤ arg → nothing (.logRead p tag)) ∧
    (∀ r, newestOf (s.xspi.records.filter (fun r => r.region == .soot && r.copy == arg)) = some r → reads (.sootRead p tag)
      { load := false, dst := s.obj Obj.RZ_XSPI_DST, bytes := s.xspi.content seg r })

/-- The ends of what the xSPI part does (R334 to R338): a commit that was written leaves its content and one more record, one
that failed neither; a RESET behind it runs; a refused automatic commit is tried again; the oldest closed log segment is
committed while a slot is free; a read's bytes go to memory.
HOLDUP_OK (R336, R367): a fall is taken and counted; during a commit it gates all but the commit, and both banks' steps
are gone; a rise is taken.
The model's choices here (log entry 29): the layout of a commit record and how sectors take records (mkRecord, addRecord); that a
failed commit writes nothing of its content; that the oldest refused commit is the one tried again; the mode powerFail. -/
def Obligations.XspiEndsAndHoldUp : Prop :=
  (∀ (s : State) (addr : BitVec 32),
    let fits (n : Nat) : Prop := s.pins.holdup = true ∧ 3500 + 42 * ceilDiv n 1024 ≤ 10 * s.obj Obj.RZ_HOLDUP_MJ
    (∀ c, s.mode ≠ .off → s.xspi.commit = some c → s.xspi.heldReset = false → s.xspi.heldCmd = none →
      s.log.waiting = [] → s.log.held = [] →
      let shown := if c.kind.persist = true then Obj.RZ_PERSIST_STATE else Obj.RZ_XSPI_STATE
      ((s.obj Obj.RZ_CLK_LOST).testBit 22 = false →
        ∃ t, exec (.persistCommitDone true addr) s = .next t ∧ t.xspi.commit = none ∧
          t.obj shown = (if c.kind.persist = true then 2 else 3) ∧
          t.xspi.sectors = (s.xspi.addRecord (mkRecord (s.xspi.seq + 1) c.kind.region c.copy c.bytes)).sectors ∧
          mkRecord (s.xspi.seq + 1) c.kind.region c.copy c.bytes ∈ t.xspi.records ∧
          t.xspi.nor = (if c.kind = .free then s.xspi.nor else
            s.xspi.nor.write (regionAddr (s.obj Obj.RZ_LOG_SEG) c.kind.region c.copy) c.bytes)) ∧
      (∃ t, exec (.persistCommitDone false addr) s = .next t ∧ t.obj shown = (if c.kind.persist = true then 5 else 6) ∧
        t.xspi.sectors = s.xspi.sectors ∧ t.xspi.nor = s.xspi.nor)) ∧
    (∀ c ok, s.mode ≠ .off → s.xspi.commit = some c → s.xspi.heldReset = true →
      ∃ t, exec (.persistCommitDone ok addr) s = .next t ∧ t.mode = .kindling ∧ t.kindle.phase = 1 ∧
        t.obj Obj.RZ_STATE_REASON = 7) ∧
    (∀ c rest, s.xspi.retry = c :: rest → s.xspi.commit = none → fits c.bytes.length →
      ∃ t, exec .autoCommitRetry s = .next t ∧
        t.xspi = { s.xspi with retry := rest, commit := some { c with copy := s.commitCopy c.kind } }) ∧
    (∀ start rest, s.mode ≠ .off → s.xspi.closed = start :: rest → s.xspi.commit = none →
      s.xspi.retry.any (fun c => c.kind == .log) = false →
      let bytes := s.lp.read (s.obj Obj.RZ_LOG_BASE + start % s.obj Obj.RZ_LOG_LEN) (s.obj Obj.RZ_LOG_SEG)
      (s.xspi.logHeld < s.logSlots → fits bytes.length →
        let copy := (s.xspi.logFirst + s.xspi.logHeld) % s.logSlots
        let c : Commit := { kind := .log, auto := true, copy := copy, bytes := bytes, arg := start }
        ∃ t, exec .logSegmentCommit s = .next t ∧ t.obj Obj.RZ_XSPI_STATE = 1 ∧
          t.xspi = { s.xspi with closed := rest, commit := some c }) ∧
      (s.logSlots ≤ s.xspi.logHeld →
        ∃ t, exec .logSegmentCommit s = .next t ∧ t.obj Obj.RZ_XSPI_STATE = 7 ∧ ObjsBut [Obj.RZ_XSPI_STATE] s t ∧
          { t with objs := s.objs } = s)) ∧
    (∀ r, s.xspi.read = some r →
      ∃ t, exec .xspiReadDone s = .next t ∧ t.mem = s.mem.write r.dst r.bytes ∧ t.xspi = { s.xspi with read := none } ∧
        t.obj Obj.RZ_XSPI_STATE = 3 ∧ (r.load = true → t.obj Obj.RZ_PLACE_LEN = r.bytes.length) ∧
        ObjsBut [Obj.RZ_XSPI_STATE, Obj.RZ_PLACE_LEN] s t)) ∧
  (∀ s : State, s.readsPins = true →
    (s.pins.holdup = true →
      (s.xspi.commit = none →
        ∃ t, exec .holdupDrop s = .next t ∧ t.obj Obj.RZ_HOLDUP_DROPS = (s.obj Obj.RZ_HOLDUP_DROPS + 1) % 2 ^ 32 ∧
          ObjsBut [Obj.RZ_HOLDUP_DROPS] s t ∧ { t with objs := s.objs } = { s with pins := { s.pins with holdup := false } }) ∧
      (s.xspi.commit.isSome = true →
        ∃ t, exec .holdupDrop s = .next t ∧ t.pins.holdup = false ∧ t.mode = .powerFail ∧ t.shown = s.shown ∧ t.xspi.commit = s.xspi.commit ∧
          t.inFlight = false ∧ t.seq.wait = .none ∧ t.fabric.ports.b0.up = false ∧ t.fabric.ports.b1.up = false)) ∧
    (∃ t, exec .holdupOkRise s = .next t ∧ t = { s with pins := { s.pins with holdup := true } }))

/-! ### Layout -/

/-- Committing the layout tables (R143, R144): RZ_LAYOUT_STATE shows the first check that fails, with its table and index, or
1, and the CRC goes to a peer that is present; the peer's CRC is kept.
The ring's next job (R150 to R156): a check that fails writes its code as STATUS and counts, and no more; any other job is
open, reading while rows of other packages are to come (R139), with STATUS 6 after an uncorrectable read.
A job whose writes are all acknowledged (R150): STATUS is written, then the head advances. -/
def Obligations.LayoutCommitAndJobs : Prop :=
  (∀ (s : State) (p : Path) (tag : ReqTag) (crc : BitVec 32),
    (s.hearsRow p tag = true → (s.mode = .ready ∨ s.mode = .banked) →
      let c := s.layoutCheck
      (c.1 = 1 →
        ∃ t, exec (.layoutCommit p tag 1) s = .next t ∧ t.obj Obj.RZ_LAYOUT_STATE = 1 ∧
          t.obj Obj.RZ_LAYOUT_CRC = s.layoutCrc.toNat ∧
          (s.peerOpen = true → ∃ more, t.egress = s.egress ++ .peer (.layoutCrc s.layoutCrc) :: more) ∧
          ObjsBut [Obj.RZ_LAYOUT_STATE, Obj.RZ_LAYOUT_CRC] s t ∧ t.tables = s.tables ∧ t.mem = s.mem) ∧
      (c.1 ≠ 1 →
        ∃ t, exec (.layoutCommit p tag 1) s = .next t ∧ t.obj Obj.RZ_LAYOUT_STATE = c.1 ∧
          t.obj Obj.RZ_LAYOUT_LAST_FAIL = c.1 * 2 ^ 24 + c.2.1 * 65536 + c.2.2 % 65536 ∧
          ObjsBut [Obj.RZ_LAYOUT_STATE, Obj.RZ_LAYOUT_LAST_FAIL] s t ∧ t.tables = s.tables ∧ t.mem = s.mem)) ∧
    (s.clocked = true →
      ∃ t, exec (.peerLayoutCrc crc) s = .next t ∧ t = { s with tables := { s.tables with peerCrc := some crc } })) ∧
  (∀ (s : State) (bad : Option (BitVec 32)), s.jobMay = true → s.seq.startPending = false →
    let addr := s.jobAddr
    let j : LJob := ofBytes 512 (s.readMem addr 64)
    let takes (op : Nat) (i : Instr) : Prop := LJob.op j = op →
      (s.jobCheck j ≠ 0 →
        ∃ t, exec i s = .next t ∧ t.mem = s.mem.write (addr + 1) [BitVec.ofNat 8 (s.jobCheck j)] ∧
          t.obj Obj.RZ_LJOB_REFUSED = (s.obj Obj.RZ_LJOB_REFUSED + 1) % 2 ^ 32 ∧
          t.obj Obj.RZ_LJOB_HEAD = (s.obj Obj.RZ_LJOB_HEAD + 1) % 2 ^ 32 ∧
          ObjsBut [Obj.RZ_LJOB_REFUSED, Obj.RZ_LJOB_HEAD] s t ∧ { t with objs := s.objs, mem := s.mem } = s) ∧
      (s.jobCheck j = 0 →
        ∃ t, exec i s = .next t ∧
          t.job = some { addr := addr, desc := j, status := if bad.isSome then 6 else 0
                         reading := !(s.jobRanges j).isEmpty } ∧
          t.obj Obj.RZ_LJOB_HEAD = s.obj Obj.RZ_LJOB_HEAD ∧ t.seq = s.seq ∧ t.tables = s.tables ∧ t.lp = s.lp ∧
          (s.jobRanges j ≠ [] → t.mem = s.mem))
    takes 1 (.ljobCopy bad) ∧ takes 2 (.ljobGather bad) ∧ takes 3 (.ljobScatter bad) ∧
    takes 4 (.ljobTranspose bad) ∧ takes 5 (.ljobFill bad)) ∧
  (∀ (s : State) (j : Job), s.job = some j → j.reading = false → s.jobOps = false → s.seq.startPending = false →
    ∃ t, exec .ljobComplete s = .next t ∧ t.job = none ∧ t.mem = s.mem.write (j.addr + 1) [BitVec.ofNat 8 j.status] ∧
      t.obj Obj.RZ_LJOB_HEAD = (s.obj Obj.RZ_LJOB_HEAD + 1) % 2 ^ 32 ∧ ObjsBut [Obj.RZ_LJOB_HEAD] s t ∧
      { t with objs := s.objs, mem := s.mem, job := s.job } = s)

/-- What a job of one row writes (R145, R146, R149, R153, R154), where all that it reads lies in this package: the source's row,
converted unless both are ROUTE rows; the sum of both rows; FILL in every channel, and some bytes of a ROUTE row; FILL where the
index is out of range and the row is gathered. An index out of range leaves a scattered row unwritten. -/
def Obligations.LayoutJobsOfOneRow : Prop :=
  ∀ s : State, s.jobMay = true → s.fabric.fetches = [] →
    let j : LJob := ofBytes 512 (s.readMem s.jobAddr 64)
    let dst := s.tensor (LJob.dstT j)
    s.jobCheck j = 0 → LJob.rows j = 1 → s.jobRanges j = [] →
    let value (h r : Nat) : List F32 := (s.decodeRow (TRec.fmt (s.tensor h)) (TRec.dim (s.tensor h)) (s.readRow [] h r)).1
    let enc (v : List F32) : List (List Byte) := (s.encodeRow (TRec.fmt dst) v).1
    let moved (r : Nat) : List (List Byte) :=
      if TRec.fmt (s.tensor (LJob.srcT j)) = 9 then s.readRow [] (LJob.srcT j) r else enc (value (LJob.srcT j) r)
    let fill := enc (List.replicate (TRec.dim dst) (LJob.fill j))
    let puts (i : Instr) (r : Nat) (arrs : List (List Byte)) : Prop :=
      ∃ t, exec i s = .next t ∧ t.mem = (s.writeOwn (s.rowWrites (LJob.dstT j) r arrs)).mem
    let index := LJob.resolve j (s.jobIndex j 0)
    let d := LJob.dstFirst j
    let fills (i : Instr) : Prop :=
      (TRec.fmt dst ≠ 9 → puts i d fill) ∧
      (TRec.fmt dst = 9 → ∃ bs : List Byte, bs.length = 32 * TRec.rowUnits dst ∧ puts i d [bs])
    (LJob.op j = 1 → puts (.ljobCopy none) d (moved (LJob.srcFirst j))) ∧
    (∀ i, LJob.op j = 2 → index = some i → puts (.ljobGather none) d (moved (LJob.srcFirst j + i))) ∧
    (LJob.op j = 2 → index = none → fills (.ljobGather none)) ∧
    (∀ i, LJob.op j = 3 → index = some i → LJob.smode j = 0 → puts (.ljobScatter none) (d + i) (moved (LJob.srcFirst j))) ∧
    (∀ i, LJob.op j = 3 → index = some i → LJob.smode j = 1 →
      puts (.ljobScatter none) (d + i)
        (enc (List.zipWith F32.add (value (LJob.dstT j) (d + i)) (value (LJob.srcT j) (LJob.srcFirst j))))) ∧
    (LJob.op j = 3 → index = none →
      ∃ t, exec (.ljobScatter none) s = .next t ∧ t.mem = s.mem ∧ ObjsBut [Obj.RZ_IDX_OOB] s t ∧
        t.obj Obj.RZ_IDX_OOB = (s.obj Obj.RZ_IDX_OOB + 1) % 2 ^ 64) ∧
    (LJob.op j = 5 → fills (.ljobFill none))

/-- A transpose moves every element (R155, R157), in place too: element c of row r of the source, as it stood, is element r of
row c of the destination; bytes outside the destination's rows stay. The memory is canonical (StepKeepsCanonical). -/
def Obligations.TransposeMovesEveryElement : Prop :=
  ∀ s : State, s.canonical → s.jobMay = true →
    let addr := s.jobAddr
    let j : LJob := ofBytes 512 (s.readMem addr 64)
    LJob.op j = 4 → s.jobCheck j = 0 →
    ∃ t, exec (.ljobTranspose none) s = .next t ∧ ObjsBut [] s t ∧
      (∀ r c b, r < LJob.rows j → c < LJob.cols j → b < LJob.es j →
        t.mem.readByte (LJob.dstAddr j + c * LJob.dstStride j + r * LJob.es j + b) =
          s.mem.readByte (LJob.srcAddr j + r * LJob.srcStride j + c * LJob.es j + b)) ∧
      (∀ a, (∀ c, c < LJob.cols j → a < LJob.dstAddr j + c * LJob.dstStride j ∨
          LJob.dstAddr j + c * LJob.dstStride j + LJob.rows j * LJob.es j ≤ a) → t.mem.readByte a = s.mem.readByte a)

/-! ### A step's phases -/

/-- The admission check (R33, R43, R48) of the step that waits for it: a failed condition halts the sequencer with the refusal
in RZ_LAST_REFUSAL and its alert; a passed one makes the descriptor a step of the bank, and the sequencer goes on. Its first
cycle is a step boundary (R327), which leaves every step as it is unless a throttle begins there.
The admission check's status (R43): the conditions in the order of Table 2-6, the first that fails; the tenth fails exactly when
the modelled end of one of R55's phases is above a non-zero deadline, or is 2³² or more (in the conditioning role score and
select alone, R7). -/
def Obligations.Admission : Prop :=
  (∀ (s : State) (f : Fetched) (t0 : Nat), s.checkable = some (f, t0) →
    let b := s.seq.nextBank
    (∀ st r, s.stepBoundary.admitStatus f b t0 = (st, r) → st ≠ 0 → s.log.replay = false →
      ∃ t, exec .admissionCheck s = .next t ∧ t.seq.wait = .halted 2 ∧ t.obj Obj.RZ_SEQ_STATE = 2 ∧
        t.obj Obj.RZ_LAST_REFUSAL / 2 ^ 32 = (Desc.stepId f.desc).toNat ∧
        (t.obj Obj.RZ_ALERT_CAUSE).testBit 0 = true ∧ t.steps = s.stepBoundary.steps ∧ t.accepted = s.accepted ∧
        t.tables = s.tables) ∧
    (s.therm.change.any (·.1) = false → s.stepBoundary.steps = s.steps) ∧
    (∀ m j, s.stepBoundary.admitStatus f b t0 = (0, some (m, j)) → s.colls.scanEarly = [] → s.seq.frames = [] →
      ∃ t u, exec .admissionCheck s = .next t ∧ t.steps.get b = some u ∧ u.desc = f.desc ∧ u.t0 = t0 ∧ u.model = m ∧
        u.offset = f.offset ∧ u.ended = .no ∧ u.cancelled = false ∧ u.retired = false ∧ u.units = 0 ∧ u.walked = false ∧
        t.steps.get (!b) = s.stepBoundary.steps.get (!b) ∧ t.accepted = s.accepted + 1 ∧ t.seq.nextBank = !b ∧
        t.seq.lastStepId = some (Desc.stepId f.desc) ∧ t.seq.fetched = none ∧ t.seq.refused = false ∧
        t.seq.wait = .fetch ∧ t.seq.pc = s.seq.pc + 8)) ∧
  (∀ (s : State) (f : Fetched) (b : Bool) (t0 : Nat),
    let d := f.desc
    let st := (s.admitStatus f b t0).1
    (s.seq.refuse = true → st = 0x0A) ∧
    (s.seq.refuse = false → f.crcOk = false → st = 0x08) ∧
    (s.seq.refuse = false → f.crcOk = true → s.fieldOk f = false → st = 0x01) ∧
    (s.seq.refuse = false → f.crcOk = true → s.fieldOk f = true →
      (s.lengthOk d = false → st = 0x02) ∧
      (s.lengthOk d = true → s.boundsOk f = false → st = 0x03) ∧
      (s.lengthOk d = true → s.boundsOk f = true →
        (s.roleOk d = false → st = 0x04) ∧
        (s.roleOk d = true → s.orderOk d = false → st = 0x05) ∧
        (s.roleOk d = true → s.orderOk d = true → s.epochOk d = false → st = 0x06) ∧
        (s.roleOk d = true → s.orderOk d = true → s.epochOk d = true → s.groupOk d = false → st = 0x07) ∧
        (s.roleOk d = true → s.orderOk d = true → s.epochOk d = true → s.groupOk d = true →
          let m := s.modelOf d b t0
          let rest : List (Nat × Nat) := (m.tAd, Desc.dAdmit d) ::
            (if Desc.verdictMode d = 0 then [] else [(m.tPo + 240, Desc.dVerdict d)]) ++
            [(m.tDi, Desc.dDispatch d), (m.tCe, Desc.dCombine d)]
          let phases := (m.tSs, Desc.dScore d) :: if s.role = 2 then [] else rest
          let late := ∃ p ∈ phases, (p.2 ≠ 0 ∧ p.2 < p.1) ∨ 2 ^ 32 ≤ p.1
          (late → st = 0x09) ∧ (¬late → st = 0)))))

/-- Scoring (R24, R81, R91, R117, R121, R346): the phase begins at its first grate cycle with its counts at 0; a unit that is
not the last is counted, and adds one to the count of each instance that its token is routed to, or to RZ_SKIPPED; a pipe or
stage that fails its test marks the step and runs in compare mode; a pair in compare mode that differs marks it too. -/
def Obligations.Scoring : Prop :=
  ∀ (s : State) (b : Bool) (x : Step), s.scoring = some (b, x) → x.ended = .no →
    (x.grateAt = none → s.comparing = false →
      (0 < s.unitsOf x.desc →
        ∃ t u, exec (.scorePhaseBegin none) s = .next t ∧ t.steps.get b = some u ∧ u.grateAt = some s.core ∧
          u.units = x.units ∧ u.grateEnd = none ∧ t.tables.hist.get b = [] ∧
          t.tables.hist.get (!b) = s.tables.hist.get (!b) ∧ ObjsBut [] s t ∧ t.lp = s.lp ∧
          t.mem = (if s.role = 0 then Tabs.clearRun s.mem (s.statAddr (massOff b) 0) 262144 else s.mem)) ∧
      (∀ p stage, s.compares (testedUnit x stage) = false →
        ∃ t u, exec (.scorePhaseBegin (some (p, stage))) s = .next t ∧ t.steps.get b = some u ∧
          u.ended = .marked 0x23 ∧ u.cancelled = true ∧ t.seq.compare = s.seq.compare ++ [testedUnit x stage])) ∧
    (x.grateAt.isSome = true → s.fetched (.unit b x.units) = true →
      (∀ pair stage, s.comparesPair pair stage = true →
        ∃ t u, exec (.scoredUnit (some (pair, stage))) s = .next t ∧ t.steps.get b = some u ∧ u.ended = .marked 0x23 ∧
          u.cancelled = true ∧ t.obj Obj.RZ_FN_MISMATCH = (s.obj Obj.RZ_FN_MISMATCH + 1) % 2 ^ odWidth Obj.RZ_FN_MISMATCH) ∧
      (s.role = 0 → Desc.w x.desc = 1 → x.units + 1 < s.unitsOf x.desc →
        let r := (s.scoreUnit x [x.units] (s.unitRows x [x.units] (s.fetchedBytes (.unit b x.units)))).1
        ∃ t u, exec (.scoredUnit none) s = .next t ∧ t.steps.get b = some u ∧ u.units = x.units + 1 ∧ u.grateEnd = none ∧
          (r = .skipped → t.obj Obj.RZ_SKIPPED = (s.obj Obj.RZ_SKIPPED + 1) % 2 ^ 64 ∧ t.tables.hist = s.tables.hist) ∧
          (∀ slots sats groups keys, r = .route slots sats groups keys → ∀ i,
            countOf (t.tables.hist.get b) i = countOf (s.tables.hist.get b) i +
              (slots.map (s.slotOf_ x.desc (s.stepIndex x.desc x.units))).countP
                (fun p => Position.pair p && p.inst == i))))

/-- Rows and the certainty test (R127 to R129, R164, R182): a gathered row stands in the pack store, and its shared packets
wait for the own pool; the primary answers with the bounds; a certain pair is held in a context. -/
def Obligations.RowsAndCertainty : Prop :=
  ∀ (s : State) (entry : BitVec 19) (x : Step),
    let e := entry.toNat
    let b := entryBank e
    s.bankStep b = some x → x.cancelled = false →
    let d := x.desc
    (s.bellows.gathers.contains e = true → s.flag Obj.RZ_TWO_HALF = false → s.fetched (.gather e) = true →
      let row := s.readRow (s.fetchedBytes (.gather e)) (Desc.inTensor d) (Desc.firstToken d + s.stepIndex d (e - entryOf b 0))
      let v := (s.decodeRow (TRec.fmt (s.tensor (Desc.inTensor d))) (Desc.dim d) row).1
      let bs := zeroFill 64 (s.encodeRow (dispFmtCode (Desc.dispFmt d)) v).1.flatten
      ∃ t ps, exec (.rowGatherComplete entry) s = .next t ∧ t.mem = s.mem.write (s.packAddr e (rowCells d)) bs ∧
        t.entry e = LEntry.setFrag (s.entry e) (bits (crc32 bs).toNat 15 0) ∧
        t.bellows.gathers = s.bellows.gathers.filter (· != e) ∧ t.bellows.pend = s.bellows.pend ++ ps ∧
        ps.length = Desc.shared d ∧ (∀ w ∈ ps, w.path = .own ∧ DHdr.type w.hdr = 2 ∧ DHdr.entry w.hdr = e) ∧ t.lp = s.lp) ∧
    (∀ pairs, s.primary = true → s.peerOpen = true → s.steps.get (!b) = none →
      ∃ t, exec (.certaintyRequest (Desc.stepId d) entry pairs) s = .next t ∧ { t with egress := s.egress } = s ∧
        t.egress = s.egress ++ [.peer (.certaintyAnswer (Desc.stepId d) entry
          (pairs.map (fun p => (p.1, decide (s.secondaryBound b x p.2.1.toNat p.2.2 < s.capMin d p.2.1.toNat)))))]) ∧
    (∀ (slot : BitVec 4) n, s.primary = false → s.earlyOn = true → x.walked = false → slot.toNat < Desc.k d → Desc.k d ≤ 8 →
      (s.pos (Desc.k d) e slot.toNat).rstate = 1 → (s.pos (Desc.k d) e slot.toNat).pair = true →
      s.heldOf (Step.key x) < s.obj Obj.RZ_EARLY_HOLD → s.freeDispCtx = some n →
      ∃ t, exec (.certaintyAnswer (Desc.stepId d) entry [(slot, true)]) s = .next t ∧
        (t.pos (Desc.k d) e slot.toNat).rstate = 2 ∧ (∃ c ∈ t.bellows.ctxs, c.num = n ∧ c.st = .held) ∧
        t.obj Obj.RZ_EARLY_RELEASED = (s.obj Obj.RZ_EARLY_RELEASED + 1) % 2 ^ 64 ∧ ObjsBut [Obj.RZ_EARLY_RELEASED] s t ∧
        t.mem = s.mem)

/-- Step summaries (R58, R264): the primary posts the package's counts and forecasts once the step's counts are final; a
forecast from the previous routes is posted by the primary, told to it by the secondary.
Scan messages (R49, R249): a child's counts are kept until this member's own are final; a refusal marker cancels and marks the
step. The model's choices here: a message of a step not yet accepted waits for it (log entry 26), and a marker of a step that
this member refuses itself is dropped (log entry 14). -/
def Obligations.SummariesAndScan : Prop :=
  (∀ (s : State) (b : Bool) (peer : List (Nat × Nat)) (x : Step), s.steps.get b = some x → x.posted = false →
    x.cancelled = false → s.obj Obj.RZ_SUMMARY_BASE ≠ 0 →
    let posts (t : State) (kind : Nat) (counts : Tab Nat) : Prop :=
      t.mem = s.mem.write (s.obj Obj.RZ_SUMMARY_BASE + b2n b * 262208)
        (toBytes (s.summaryHdr x.desc kind counts) ++ walkBytes counts) ∧
      t.obj Obj.RZ_SUMMARY_SEQ = (s.obj Obj.RZ_SUMMARY_SEQ + 1) % 2 ^ 32 ∧
      (kind = 1 → t.obj Obj.RZ_PRED_POSTED = (s.obj Obj.RZ_PRED_POSTED + 1) % 2 ^ odWidth Obj.RZ_PRED_POSTED) ∧
      ObjsBut (if kind = 1 then [Obj.RZ_SUMMARY_SEQ, Obj.RZ_PRED_POSTED] else [Obj.RZ_SUMMARY_SEQ]) s t
    (s.primary = true → s.role = 0 → x.grateEnd.isSome = true →
      ∃ t, exec (.stepSummaryPost b peer) s = .next t ∧ posts t 0 (packageCounts (s.tables.hist.get b) peer) ∧
        t.steps = s.steps.set b (some { x with posted := true })) ∧
    (∀ r, Desc.predSummary x.desc = true → s.lineOf x = some r → RMap.validH r = true → x.predicted = false →
      x.retired = false →
      (s.primary = true →
        ∃ t, exec (.predictedSummary b peer) s = .next t ∧ posts t 1 (packageCounts (s.forecast x) peer) ∧
          t.steps = s.steps.set b (some { x with predicted := true })) ∧
      (s.primary = false → s.peerOpen = true →
        ∃ t, exec (.predictedSummary b peer) s = .next t ∧
          t.egress = s.egress ++ [.peer (.counts (Desc.stepId x.desc) true (s.forecast x))] ∧
          t.steps = s.steps.set b (some { x with predicted := true }) ∧ ObjsBut [] s t ∧ t.mem = s.mem))) ∧
  (∀ (s : State) (k : Key) (dir : TreeDir) (pos : Nat) (body : ScanBody), s.mode = .running →
    (s.bankOf k = none → body.marker.isSome = true → s.refusing k.stepId = true →
      ∃ t, exec (.scanMessage k.stepId k.batch dir pos body) s = .next t ∧ t = s) ∧
    (s.bankOf k = none → (body.marker = none ∨ s.refusing k.stepId = false) →
      ∃ t, exec (.scanMessage k.stepId k.batch dir pos body) s = .next t ∧
        t = { s with colls := { s.colls with
          scanEarly := s.colls.scanEarly ++ [{ key := k, dir := dir, pos := pos, body := body }] } }) ∧
    (∀ b x c, s.bankOf k = some b → s.bankStep b = some x → x.cancelled = false → x.ended = .no →
      pos ∈ s.scanKids x →
      (body = { counts := some c, totals := none, variant := none, marker := none } → s.countsFinal x = false →
        ∃ t, exec (.scanMessage k.stepId k.batch .up pos body) s = .next t ∧
          t = { s with steps := s.steps.set b (some
            { x with scan := { x.scan with fromBelow := assocSet x.scan.fromBelow pos (s.takeCounts x.desc c) } }) }) ∧
      (∀ st, body.marker = some st →
        ∃ t u, exec (.scanMessage k.stepId k.batch .up pos body) s = .next t ∧ t.steps.get b = some u ∧
          u.ended = .marked 0x80 ∧ u.cancelled = true ∧
          t.obj Obj.RZ_BATCH_EPOCH = (s.obj Obj.RZ_BATCH_EPOCH + 1) % 4096)))

/-- The admission walk (R123 to R126) under the variant in force, for up to eight slots: a pair's group rank is its instance's
offset plus the number of the instance's pairs before it, by token and then slot; below the capacity it is admitted (its
position becomes 3 where it had not been released, and 3 or what it was where it had), at or above it ashed (6); and the counts
of both. -/
def Obligations.WalkAdmitsByRank : Prop :=
  ∀ (s : State) (b : Bool) (x : Step) (v : Nat), s.walkable = some (b, x) → x.variant = some v → x.waitVerdict = none →
    Desc.k x.desc ≤ 8 → x.admits = [] → x.admitted = 0 → x.ashed = 0 →
    let d := x.desc
    let pairs := (List.range (s.shareOf d).2).flatMap (fun i => (s.slotsAt d (entryOf b i)).filter Position.pair)
    ∃ t u, exec .admissionWalk s = .next t ∧ t.steps.get b = some u ∧ u.walked = true ∧
      u.admitted + u.ashed = pairs.length ∧
      (∀ i, countOf u.admits i = min (pairs.countP (fun p => p.inst == i))
        ((s.caps d v).at_ i - countOf (x.scan.offs.getD []) i)) ∧
      ∀ i0 slot, i0 < (s.shareOf d).2 → slot < Desc.k d →
        let e := entryOf b i0
        let p := s.pos (Desc.k d) e slot
        let before := (List.range i0).flatMap (fun i => s.slotsAt d (entryOf b i)) ++ (s.slotsAt d e).take slot
        let rank := countOf (x.scan.offs.getD []) p.inst + before.countP (fun q => Position.pair q && q.inst == p.inst)
        let after := (t.pos (Desc.k d) e slot).rstate
        Position.pair p = true →
        ((s.caps d v).at_ p.inst ≤ rank → after = 6) ∧
        (rank < (s.caps d v).at_ p.inst → (p.rstate = 1 → after = 3) ∧ (after = 3 ∨ after = p.rstate))

/-! ### Dispatch, gateway, pool -/

/-- A packet leaves (R163, R165, R166, R169, R218): counted, taken from its list, its payload from the pack store, over the
path that fits; a far one is copied into its rack's buffer. A packet that waited out a busy answer is sent again; the secondary
goes on once half 0 is acknowledged. -/
def Obligations.PacketsLeave : Prop :=
  ∀ s : State,
    (∀ path w b x n, s.active = true → s.nextPend path = some w → s.keyStep (DHdr.key w.hdr) = some (b, x) →
      s.heldCtx w.hdr = none → s.freeDispCtx = some n →
      let p := s.packetOf w.hdr
      let leaves (t : State) : Prop := exec (.dispatchSend path) s = .next t ∧
        t.obj Obj.RZ_PKT_SENT = (s.obj Obj.RZ_PKT_SENT + 1) % 2 ^ 64 ∧ ObjsBut [Obj.RZ_PKT_SENT] s t ∧
        t.bellows.pend = s.bellows.pend.erase w
      let held (t : State) : Prop := (∃ c ∈ t.bellows.ctxs, c.num = n ∧ c.st = .sent ∧ c.hdr = p.hdr) ∧
        t.mem = (s.pairSent x.desc w.hdr).mem
      (path = .own → ∃ t, leaves t ∧ held t ∧ t.bellows.ownPath = s.bellows.ownPath ++ [p] ∧ t.egress = s.egress) ∧
      (path = .peer → s.peerOpen = true → ∃ t, leaves t ∧ held t ∧ t.egress = s.egress ++ [.peer (.packet p)]) ∧
      ((path = .fab0 ∨ path = .fab1) → ∃ t, leaves t ∧ held t) ∧
      (∀ slot, path = .gate → s.bellows.aggs = [] → s.freeAgg = some slot → x.walked = false →
        let a : Agg :=
          { slot := slot, rack := nodeRack w.dest, hdrs := [p.hdr], bytes := 96 + p.payload.length, opened := s.core, ctxs := [] }
        ∃ t, leaves t ∧ t.bellows.aggs = [a] ∧
          t.mem = ((s.writeMem (s.aggAddr slot + 64) (pktBytes p)).pairSent x.desc w.hdr).mem)) ∧
    (∀ c a, s.bellows.ctxs = [c] → c.st = .backoff a → c.path = .peer → s.peerOpen = true → s.fabric.resend = [] →
      a + s.obj Obj.RZ_BUSY_BACKOFF ≤ s.core →
      ∃ t, exec .busyBackoffExpiry s = .next t ∧ t.egress = s.egress ++ [.peer (.packet (s.packetOf c.hdr))] ∧
        t.bellows.ctxs = [{ c with hdr := (s.packetOf c.hdr).hdr, st := .sent }] ∧ ObjsBut [] s t ∧ t.mem = s.mem) ∧
    (∀ b x, s.primary = false → s.flag Obj.RZ_TWO_HALF = true → s.bankStep b = some x → s.steps.get (!b) = none →
      x.halfZero = false → x.cancelled = false →
      ∃ t, exec .halfZeroAcknowledged s = .next t ∧
        t = { s with steps := s.steps.set b (some { x with halfZero := true }) })

/-- The gateway's sender (R169, R206, R208): an aged buffer is offered as one bulk; an acknowledged one is over, its returns
leave their contexts and are kept for replay requests that come later (log entry 24); one without an answer is offered again,
unchanged, up to eight times.
The landing engine (R207, R208): a bulk that was seen is acknowledged and counted, an older incarnation's too; a new one is
acknowledged, and while the pool has no room for its first packet it is recorded and stands in a landing buffer; a bulk that
breaks the rules of its header is dropped. -/
def Obligations.BulkTransfers : Prop :=
  (∀ (s : State) (rack : BitVec 9) (seq : BitVec 32),
    (∀ a inc, s.bellows.aggs.find? (fun a => a.rack == rack.toNat) = some a → a.opened + s.obj Obj.RZ_AGG_FLUSH ≤ s.core →
      s.bellows.waiting = [] → s.bellows.bulks = [] → s.bellows.incarn = some inc → s.obj Obj.RZ_GATE_INFLIGHT ≠ 0 →
      s.gateOpen = true → 64 ≤ a.bytes →
      let q := Tabs.get zero32 s.bellows.bulkSeq a.rack
      let body := s.readMem (s.aggAddr a.slot + 64) (a.bytes - 64)
      let hdr := bulkHdr s.node a.rack a.hdrs.length q inc body
      let b : Bulk :=
        { slot := a.slot, rack := a.rack, seq := q, hdrs := a.hdrs, bytes := a.bytes, ctxs := a.ctxs, offers := 0, sentAt := s.core }
      ∃ t, exec (.aggFlushAge rack) s = .next t ∧ t.egress = s.egress ++ [.bulk hdr body] ∧ t.bellows.bulks = [b] ∧
        t.bellows.aggs = s.bellows.aggs.filter (fun y => y.rack != a.rack) ∧
        t.obj Obj.RZ_BULK_SENT = (s.obj Obj.RZ_BULK_SENT + 1) % 2 ^ odWidth Obj.RZ_BULK_SENT ∧
        Tabs.get zero32 t.bellows.bulkSeq a.rack = q + 1 ∧ ObjsBut [Obj.RZ_BULK_SENT] s t ∧
        t.mem = s.mem.write (s.aggAddr a.slot) (toBytes hdr)) ∧
    (∀ b, s.bulkOf rack seq = some b → s.bellows.waiting = [] → s.bellows.farWait = [] → s.fabric.fences = [] →
      s.flue.drains = [] →
      ∃ t, exec (.bulkAck rack seq) s = .next t ∧ t.bellows = { s.bellows with bulks := s.bellows.bulks.erase b } ∧
        t.flue = { s.flue with ctxs := s.flue.ctxs.filter (fun c => !b.ctxs.contains c.num), farKept := t.flue.farKept } ∧
        (s.flue.ctxs.length ≤ 4096 → ∀ c q r, c ∈ s.flue.ctxs → b.ctxs.contains c.num = true → c.use = .send q r →
          (q, r) ∈ t.flue.farKept) ∧
        ObjsBut [] s t ∧ t.mem = s.mem) ∧
    (∀ b, s.bulkOf rack seq = some b → b.sentAt + s.obj Obj.RZ_GATE_TIMEOUT ≤ s.core → b.offers < 8 → s.gateOpen = true →
      let bs := s.readMem (s.aggAddr b.slot) b.bytes
      ∃ t, exec (.bulkTimeout rack seq) s = .next t ∧ t = { s with
        egress := s.egress ++ [.bulk (ofBytes 512 (bs.take 64)) (bs.drop 64)]
        bellows := { s.bellows with
          bulks := s.bellows.bulks.map (fun y => if y = b then { b with offers := b.offers + 1, sentAt := s.core } else y) } })) ∧
  (∀ (s : State) (hdr : BitVec 512) (body : List Byte) (chks : List Arrival), s.active = true → s.gateOpen = true →
    s.isLanding = true →
    let at_ := s.obj Obj.RZ_BULK_SEEN_BASE + 16 * BHdr.srcNode hdr
    let ack : Msg := .bulkAck (BitVec.ofNat 17 (BHdr.srcNode hdr)) (BitVec.ofNat 9 (BHdr.dstRack hdr)) (BHdr.seq hdr)
    let verdict := judgeBulk (ofBytes 128 (s.readMem at_ 16)) (BHdr.incarn hdr) (BHdr.seq hdr)
    (bulkOk (nodeRack s.node) hdr body = true →
      (verdict = .stale → ∃ t, exec (.bulkArrival hdr body chks) s = .next t ∧ t.egress = s.egress ++ [ack] ∧
        t.obj Obj.RZ_BULK_STALE = (s.obj Obj.RZ_BULK_STALE + 1) % 2 ^ 64 ∧ ObjsBut [Obj.RZ_BULK_STALE] s t ∧ t.mem = s.mem) ∧
      (verdict = .dup → ∃ t, exec (.bulkArrival hdr body chks) s = .next t ∧ t.egress = s.egress ++ [ack] ∧
        t.obj Obj.RZ_BULK_DUP = (s.obj Obj.RZ_BULK_DUP + 1) % 2 ^ 64 ∧ ObjsBut [Obj.RZ_BULK_DUP] s t ∧ t.mem = s.mem) ∧
      (verdict = .beyond → ∃ t, exec (.bulkArrival hdr body chks) s = .next t ∧ t = s) ∧
      (∀ r slot, verdict = .new r → s.freeLandSlot = some slot →
        (∃ t more, exec (.bulkArrival hdr body chks) s = .next t ∧ t.egress = s.egress ++ ack :: more) ∧
        (∀ p rest, parsePackets (BHdr.pkts hdr) body = p :: rest → DHdr.type p.hdr < 5 → s.landHost p.hdr = s.node →
          s.poolRoom p.hdr = false →
          let l : Land :=
            { slot := slot, src := BitVec.ofNat 17 (BHdr.srcNode hdr), packets := p :: rest, chks := chks, left := 0, peer := [] }
          ∃ t, exec (.bulkArrival hdr body chks) s = .next t ∧ t = { s with
            egress := s.egress ++ [ack]
            mem := (s.mem.write at_ (toBytes r)).write (s.obj Obj.RZ_LAND_BASE + 1048576 * slot) (toBytes hdr ++ body)
            fabric := { s.fabric with lands := s.fabric.lands ++ [l] }
            pool := { s.pool with waiting := s.pool.waiting ++ [(.bulk slot, p)] } }))) ∧
    (bulkOk (nodeRack s.node) hdr body = false →
      ∃ t, exec (.bulkArrival hdr body chks) s = .next t ∧ t.egress = s.egress ∧ t.mem = s.mem ∧ t.bellows = s.bellows ∧
        t.fabric = s.fabric ∧ t.pool = s.pool))

/-- Packets reach the pool (R168, R172 to R174, R181, R182): the cells of a packet are reserved as its header arrives; a sound
routed packet is committed with them to the list of its queue and class, and answered DONE; one of a cancelled key, and one
whose header is wrong, is answered DONE and discarded; a payload that fails is asked for again; either gives the cells back.
Without space the peer is told BUSY and the own packet waits. Once there is room, a waiting packet of a live key is committed to
its list, whether the own bellows or a bulk brought it, and the context or the landing buffer that held it is free; one of a
cancelled key is discarded. -/
def Obligations.PoolStores : Prop :=
  ∀ (s : State) (p : Packet), s.active = true →
    let h := p.hdr
    let gone := s.pool.cancelled.contains (DHdr.key h)
    let reply (st : Nat) : Msg := .peer (.packetReply h st)
    let reserved := min (s.obj Obj.RZ_POOL_MIN_FREE) (s.poolFree - (1 + DHdr.cells h))
    let fed : Prop := ∀ q ∈ s.pool.closes, ∀ c ∈ q.2, c.starved = false
    let back (t : State) (ks : List Nat) : Prop := t.pool.lists = s.pool.lists ∧ t.pool.slots = s.pool.slots ∧
      t.pool.closes = s.pool.closes ∧ t.poolFree = s.poolFree ∧ t.obj Obj.RZ_POOL_MIN_FREE = reserved ∧
      ObjsBut (Obj.RZ_POOL_MIN_FREE :: ks) s t ∧ t.mem = s.mem
    let discarded (t : State) : Prop := back t [Obj.RZ_PKT_DISCARD] ∧
      t.obj Obj.RZ_PKT_DISCARD = (s.obj Obj.RZ_PKT_DISCARD + 1) % 2 ^ odWidth Obj.RZ_PKT_DISCARD
    (s.peerOpen = true →
      (s.poolRoom h = true → gone = false → s.packetBad h true = false → s.thirdSlot h = false →
        (payloadOk (DHdr.cells h) (DHdr.payCrc h).toNat p.payload .clean = true → DHdr.type h = 1 →
          (∀ y, s.slotOf (DHdr.qnum h) (DHdr.key h) = some y → closeAnomaly y (y.take h) h = false) →
          ∃ t, exec (.poolStore (.peer p) .clean) s = .next t ∧ t.egress = s.egress ++ [reply 0] ∧
            t.poolList (DHdr.qnum h) (DHdr.prio h) = s.poolList (DHdr.qnum h) (DHdr.prio h) ++
              [{ hdr := h, payload := p.payload, cells := (takeRuns s.pool.free (1 + DHdr.cells h)).1 }] ∧
            t.obj Obj.RZ_POOL_MIN_FREE ≤ reserved ∧ ObjsBut [Obj.RZ_POOL_MIN_FREE] s t ∧ t.mem = s.mem) ∧
        (payloadOk (DHdr.cells h) (DHdr.payCrc h).toNat p.payload .clean = false → fed →
          ∃ t, exec (.poolStore (.peer p) .clean) s = .next t ∧ t.egress = s.egress ++ [reply 1] ∧ back t [])) ∧
      (s.poolRoom h = true → fed → gone = true →
        ∃ t, exec (.poolStore (.peer p) .clean) s = .next t ∧ t.egress = s.egress ++ [reply 0] ∧ discarded t) ∧
      (s.poolRoom h = true → fed → gone = false → s.packetBad h true = true →
        ∃ t, exec (.poolStore (.peer p) .clean) s = .next t ∧ t.egress = s.egress ++ [reply 0] ∧
          t.pool.lists = s.pool.lists ∧ t.pool.slots = s.pool.slots ∧ t.poolFree = s.poolFree ∧
          t.obj Obj.RZ_PKT_DISCARD = (s.obj Obj.RZ_PKT_DISCARD + 1) % 2 ^ odWidth Obj.RZ_PKT_DISCARD) ∧
      (s.poolRoom h = false ∨ (gone = false ∧ s.packetBad h true = false ∧ s.thirdSlot h = true) →
        ∃ t, exec (.poolStore (.peer p) .clean) s = .next t ∧ t.egress = s.egress ++ [reply 2] ∧ t.pool = s.pool ∧
          t.obj Obj.RZ_POOL_BUSY = (s.obj Obj.RZ_POOL_BUSY + 1) % 2 ^ 64 ∧ ObjsBut [Obj.RZ_POOL_BUSY] s t ∧ t.mem = s.mem)) ∧
    (∀ rest, s.poolRoom h = false → s.bellows.ownPath = p :: rest →
      ∃ t, exec (.poolStore .own .clean) s = .next t ∧ t = { s with
        bellows := { s.bellows with ownPath := rest }
        pool := { s.pool with waiting := s.pool.waiting ++ [(.own, p)] } }) ∧
    (s.poolRoom h = true → gone = false → s.thirdSlot h = false → DHdr.type h = 1 →
      payloadOk (DHdr.cells h) (DHdr.payCrc h).toNat p.payload .clean = true →
      (∀ y, s.slotOf (DHdr.qnum h) (DHdr.key h) = some y → closeAnomaly y (y.take h) h = false) →
      let committed (t : State) : Prop := exec (.poolWaitingPacketAdmit .clean) s = .next t ∧ t.pool.waiting = [] ∧
        t.poolList (DHdr.qnum h) (DHdr.prio h) = s.poolList (DHdr.qnum h) (DHdr.prio h) ++
          [{ hdr := h, payload := p.payload, cells := (takeRuns s.pool.free (1 + DHdr.cells h)).1 }] ∧
        t.obj Obj.RZ_POOL_MIN_FREE ≤ reserved
      (s.pool.waiting = [(.own, p)] → s.packetBad h false = false →
        ∃ t, committed t ∧ (∀ n, s.sentCtx h = some n → ∀ c ∈ t.bellows.ctxs, c.num ≠ n) ∧
          (s.sentCtx h = none → ObjsBut [Obj.RZ_POOL_MIN_FREE] s t ∧ t.mem = s.mem ∧ t.egress = s.egress)) ∧
      (∀ slot l, s.pool.waiting = [(.bulk slot, p)] → s.packetBad h true = false → s.land slot = some l → l.packets = [p] →
        l.left = 0 → s.landHost h = s.node →
        ∃ t, committed t ∧ t.land slot = none ∧ ObjsBut [Obj.RZ_POOL_MIN_FREE] s t ∧ t.mem = s.mem ∧ t.egress = s.egress)) ∧
    (s.pool.waiting = [(.own, p)] → s.poolRoom h = true → gone = true → fed → s.sentCtx h = none →
      ∃ t, exec (.poolWaitingPacketAdmit .clean) s = .next t ∧ t.pool.waiting = [] ∧ discarded t)

/-- Deliveries to the dies, their credits, and the pool's sweeps (R172, R175 to R177, R179, R184): the packet at the head of
the list whose turn it is goes to the die unit by unit, as far as the port's credits reach, and its cells stay out until their
credits return, which detects copies of the free-list pointer that differ; a rebuilt free list holds the same cells; a reset
list is empty, its cells free; a die that returns no credit costs its queues' open steps and is out of service (that it stays so
until kindling is the model's reading of its ACTION, log entry 37). -/
def Obligations.DiesAndSweeps : Prop :=
  ∀ (s : State) (port : BitVec 3),
    let n := port.toNat
    let d := s.dieAt n
    let fed : Prop := ∀ q ∈ s.pool.closes, ∀ c ∈ q.2, c.starved = false
    (∀ c q p, s.diePresent n = true → d.credits ≠ 0 → d.sending = none →
      [0, 1, 2, 3].find? (fun c => !(s.servable n c).isEmpty) = some c →
      nextQueue (s.servable n c) (d.served.getD c 2047) = some q → s.dueClose n c q = none → s.headPacket n c q = some p →
      let units := runCells p.cells
      let out := d.out ++ units.take d.credits
      ∃ t, exec (.dieDeliveryTurn port .clean) s = .next t ∧ t.poolList q c = (s.poolList q c).tail ∧
        t.pool.free = s.pool.free ∧ (t.dieAt n).out = out ∧ (t.dieAt n).credits = 512 - out.length ∧ ObjsBut [] s t ∧
        t.mem = s.mem ∧
        (if units.length ≤ d.credits then
          t.egress = s.egress ++ [.die n p.hdr p.payload] ∧ (t.dieAt n).sending = none
        else
          t.egress = s.egress ∧ (t.dieAt n).sending = some
            { hdr := p.hdr, payload := p.payload, units := units.drop d.credits, slot := some (q, DHdr.key p.hdr) })) ∧
    (∀ cell out, n < s.dies.length → d.out = cell :: out → d.sending = none → fed →
      ∃ t, exec (.dieCreditReturn port .clean) s = .next t ∧
        t.dieAt n = { d with out := out, credits := 512 - out.length, lastCredit := s.core } ∧
        (if s.pool.differ.contains .free then t.pool.sweeps = s.pool.sweeps ++ [.free] ∧ t.pool.differ.contains .free = false ∧
          t.pool.free = s.pool.free ++ [(cell, 1)]
        else t.pool = { s.pool with free := s.pool.free ++ [(cell, 1)] }) ∧ ObjsBut [] s t ∧ t.egress = s.egress ∧
        t.mem = s.mem) ∧
    (s.pool.sweeps = [.free] → fed →
      ∃ t, exec .queueResetSweepDone s = .next t ∧ t.pool.sweeps = [] ∧ t.pool.free.Perm s.pool.free ∧
        t.pool.lists = s.pool.lists ∧
        t.obj Obj.RZ_QUEUE_RESET = (s.obj Obj.RZ_QUEUE_RESET + 1) % 2 ^ odWidth Obj.RZ_QUEUE_RESET) ∧
    (∀ q c rest, s.pool.sweeps = .list q c :: rest → s.pool.differ.contains .free = false → fed → s.slotsOf q = [] →
      ∃ t, exec .queueResetSweepDone s = .next t ∧ t.pool.sweeps = rest ∧ t.poolList q c = [] ∧
        t.pool.free = s.pool.free ++ (s.poolList q c).flatMap (·.cells) ∧
        t.obj Obj.RZ_QUEUE_RESET = (s.obj Obj.RZ_QUEUE_RESET + 1) % 2 ^ odWidth Obj.RZ_QUEUE_RESET) ∧
    (∀ q y b x, s.diePresent n = true → d.out ≠ [] → d.lastCredit + s.obj Obj.RZ_DRAIN_LIMIT ≤ s.core →
      s.pool.slots = [(q, [y])] → s.queueDie y.placeEpoch q = n → y.sender.toNat = s.node → s.bankOf y.key = some b →
      s.bankStep b = some x → x.ended = .no → x.cancelled = false →
      ∃ t u, exec (.dieStall port) s = .next t ∧ t.steps.get b = some u ∧ u.ended = .marked 0x46 ∧ u.cancelled = true ∧
        t.diePresent n = false)

/-! ### Returns and combine -/

/-- A die's return (R219 to R221, R228, R233): of a cancelled key it is discarded; one that finds no context waits, and holds
return credits; otherwise it takes a context, its credits go back to the die and it leaves as a return that carries its
packet's key and place, or, under arrival combine, is reduced into its home, here over the NOC, and its receipt waits. The
acknowledgement of its own pair lets the receipt leave. -/
def Obligations.DieReturns : Prop :=
  ∀ (s : State) (port : BitVec 3) (p : Packet), s.active = true →
    let h := p.hdr
    let q := s.formReturn p
    let units := 1 + p.payload.length / 64
    let credit : Msg := .dieCredit port.toNat units
    let dies (n : Nat) : List DiePort := s.dies.set port.toNat { s.dieAt port.toNat with ret := n }
    (s.diePresent port.toNat = true →
      (s.pool.cancelled.contains (DHdr.key h) = true →
        ∃ t, exec (.dieReturn port p) s = .next t ∧ t.egress = s.egress ++ [credit] ∧ t.dies = dies 512 ∧
          t.obj Obj.RZ_STALE_RETURN = (s.obj Obj.RZ_STALE_RETURN + 1) % 2 ^ 64 ∧ ObjsBut [Obj.RZ_STALE_RETURN] s t ∧
          { t with objs := s.objs, egress := s.egress, dies := s.dies } = s) ∧
      (s.pool.cancelled.contains (DHdr.key h) = false → (s.freeFlueCtx = none ∨ s.stashFree < p.payload.length / 64) →
        ∃ t, exec (.dieReturn port p) s = .next t ∧ t = { s with dies := dies (512 - min 512 units) }) ∧
      (∀ n, s.pool.cancelled.contains (DHdr.key h) = false → s.freeFlueCtx = some n →
        p.payload.length / 64 ≤ s.stashFree →
        (DHdr.arrival h = false → s.route (DHdr.srcNode h) = .peer → s.peerOpen = true →
          (∃ t, exec (.dieReturn port p) s = .next t ∧ t.egress = s.egress ++ [credit, .peer (.packet q)] ∧
            t.flue = { s.flue with ctxs := s.flue.ctxs ++ [{ num := n, use := .send q 0 }] } ∧ t.dies = dies 512 ∧
            { t with egress := s.egress, flue := s.flue, dies := s.dies } = s) ∧
          q.payload = p.payload ∧ RHdr.type q.hdr = 5 ∧ RHdr.key q.hdr = DHdr.key h ∧ RHdr.entry q.hdr = DHdr.entry h ∧
          RHdr.slot q.hdr = DHdr.slot h ∧ RHdr.inst q.hdr = DHdr.inst h ∧ RHdr.dstNode q.hdr = DHdr.srcNode h ∧
          RHdr.expNode q.hdr = s.node % 2 ^ 17) ∧
        (∀ piece bytes, DHdr.arrival h = true → s.route (DHdr.srcNode h) ≠ .far → bit h 35 = false →
          let w := if DHdr.type h = 2 then f32One else weightVal (DHdr.wfmt h) (DHdr.weight h)
          let (fmt, pieces) := s.homePieces (DHdr.homeBlock h) (DHdr.homeOff h)
          let row := retRow (RHdr.retFmt q.hdr) (128 * RHdr.dSlices q.hdr) p.payload
          (cutPieces pieces (redBytes fmt w row)).flatMap (cutRequests 8) = [(piece, bytes)] →
          samePackage piece.node s.node = true →
          let red : NocRed := { ctx := n, scorer := RHdr.dstNode q.hdr, entry := RHdr.entry q.hdr, pos := ackPos q.hdr, key := RHdr.key q.hdr }
          ∃ t, exec (.dieReturn port p) s = .next t ∧ t.egress = s.egress ++ [credit] ∧ ObjsBut [] s t ∧
            t.mem = (s.reduceMem piece.addr (if fmt = 2 then 0 else 1) redAdd bytes).mem ∧
            t.flue.ctxs = s.flue.ctxs ++ [{ num := n, use := .reduce (receiptOf q false) 1 false }] ∧
            t.flue.nocReds = s.flue.nocReds ++ [red]))) ∧
    (∀ r bad (k : PairRef), s.flue.nocReds = [r] → s.flue.drains = [] → s.fabric.fences = [] →
      s.flue.ctxs = [{ num := r.ctx, use := .reduce p 1 bad }] → RHdr.key h = r.key →
      (k.scorer.toNat = r.scorer ∧ ({ stepId := k.stepId, batch := k.batch } : Key) = r.key ∧ k.entry.toNat = r.entry ∧
        k.pos.toNat = r.pos) →
      s.route (RHdr.dstNode h) = .peer → RHdr.dstNode (receiptOf p bad).hdr = RHdr.dstNode h → s.peerOpen = true →
      ∃ t, exec (.nocReductionAck k) s = .next t ∧ t.flue.nocReds = [] ∧
        t.flue.ctxs = [{ num := r.ctx, use := .send (receiptOf p bad) 0 }] ∧
        t.egress = s.egress ++ [.peer (.packet (receiptOf p bad))] ∧ ObjsBut [] s t ∧ t.mem = s.mem)

/-- A return or receipt at the scoring engine (R218, R222, R223) over any path that is no fabric request: of no open step it
is counted and dropped; one whose payload fails is asked for again, which breaks its step's timing (R275), eight times, and
the ninth time gives way to a receipt with POISON; one in error and a poisoned one mark the step; a sound return settles its position in a context, or, while none
is free, is written to the staging area; a sound receipt closes its position. -/
def Obligations.ReturnsAtTheScorer : Prop :=
  ∀ (s : State) (p : Packet) (chk : Arrival) (via : FlueVia), s.active = true →
    (RHdr.type p.hdr = 5 ∨ RHdr.type p.hdr = 7) →
    ((via = .peer p ∧ s.peerOpen = true) ∨ via = .gate p ∨ (via = .own ∧ s.flue.ownPath = [p])) →
    let h := p.hdr
    let arrives (t : State) : Prop :=
      exec (if RHdr.type h = 5 then .returnPacket via chk else .arrivalReceipt via chk) s = .next t
    let told (st : Nat) : List Msg := if via = .peer p then [.peer (.packetReply h st)] else []
    (s.returnStep h = none →
      ∃ t, arrives t ∧ t.egress = s.egress ++ told 0 ∧ t.flue.ledger = s.flue.ledger ∧
        t.obj Obj.RZ_STALE_RETURN = (s.obj Obj.RZ_STALE_RETURN + 1) % 2 ^ 64 ∧ ObjsBut [Obj.RZ_STALE_RETURN] s t ∧
        t.mem = s.mem ∧ t.steps = s.steps ∧
        (∀ n, via = .own → s.sendCtx h = some n →
          t.flue = { s.flue with
            ownPath := []
            ctxs := s.flue.ctxs.filter (fun c => !(c.num == n && FlueUse.sends (RHdr.key h) c.use)) })) ∧
    (∀ x, s.returnStep h = some x → x.ended = .no →
      let sound := payloadOk (RHdr.cells h) (RHdr.payCrc h).toNat p.payload chk
      let e := RHdr.entry h
      let pos := posOf x.desc (RHdr.shared h) (RHdr.slot h)
      let marks : Prop := ∃ t u, arrives t ∧ t.steps.get (RHdr.bank h) = some u ∧ u.ended = .marked 0x60 ∧
        u.cancelled = true
      (sound = false → via ≠ .own →
        ∃ t, arrives t ∧ { t with egress := s.egress, steps := s.steps } = s ∧
          t.egress = s.egress ++ (if via = .peer p then told 1
            else if s.gateOpen then [.gate (nodeRack (RHdr.expNode h)) (.packetReply h 1)] else []) ∧
          ∀ b y, s.bankOf (RHdr.key h) = some b → s.steps.get b = some y →
            ∃ u, t.steps.get b = some u ∧ u.broken = true ∧ u.resend = true) ∧
      (∀ n r, sound = false → via = .own → s.sendCtx h = some n → s.flueUse n = some (.send p r) →
        s.route (RHdr.dstNode h) = .own →
        (r < 8 → ∃ t, arrives t ∧ t.flue.ownPath = [p] ∧ t.flue.ctxs = (s.setFlueCtx n (.send p (r + 1))).flue.ctxs ∧
          t.obj Obj.RZ_RET_REPLAY = (s.obj Obj.RZ_RET_REPLAY + 1) % 2 ^ odWidth Obj.RZ_RET_REPLAY) ∧
        (8 ≤ r → RHdr.dstNode (receiptOf p true).hdr = RHdr.dstNode h →
          ∃ t, arrives t ∧ t.flue.ownPath = [receiptOf p true] ∧
            t.flue.ctxs = (s.setFlueCtx n (.send (receiptOf p true) 0)).flue.ctxs)) ∧
      (sound = true → s.returnCheck x h ≠ 0 → marks) ∧
      (sound = true → s.returnCheck x h = 0 → RHdr.poison h = true → marks) ∧
      (sound = true → s.returnCheck x h = 0 → RHdr.poison h = false → Desc.k x.desc ≤ 8 →
        (RHdr.type h = 7 →
          ∃ t, arrives t ∧ (t.pos (Desc.k x.desc) e pos).rstate = 6 ∧
            (via = .peer p → t.egress.getLast? = some (.peer (.packetReply h 0)))) ∧
        (RHdr.type h = 5 → Desc.arrival x.desc = false →
          (∀ n, s.freeFlueCtx = some n → p.payload.length / 64 ≤ s.stashFree →
            ∃ t, arrives t ∧ (t.pos (Desc.k x.desc) e pos).rstate = 4 ∧ (t.pos (Desc.k x.desc) e pos).ctx = n ∧
              (∃ d, { num := n, use := .row e pos d p.payload } ∈ t.flue.ctxs) ∧ t.mem = s.mem ∧ ObjsBut [] s t ∧
              t.egress = s.egress ++ told 0) ∧
          (s.freeFlueCtx = none →
            ∃ t, arrives t ∧ t.mem = s.mem.write (s.stageAddr e pos) p.payload ∧
              t.flue.staging = s.flue.staging ++ [(e, pos)] ∧ t.flue.ledger = s.flue.ledger ∧
              t.obj Obj.RZ_STAGED = (s.obj Obj.RZ_STAGED + 1) % 2 ^ odWidth Obj.RZ_STAGED ∧ ObjsBut [Obj.RZ_STAGED] s t ∧
              t.egress = s.egress ++ told 0))))

/-- The combine unit and the home writes (R223, R225 to R228): an acknowledged staging write settles its position 5; the token
at the head of the queue is combined and its row written to its home, a zero row where every position is CLOSED; the last
acknowledgement retires the entry. -/
def Obligations.CombineAndHomeWrites : Prop :=
  ∀ (s : State) (entry : BitVec 19),
    let e := entry.toNat
    (∀ x (pos : BitVec 5), s.flue.staging.contains (e, pos.toNat) = true → s.bankStep (entryBank e) = some x →
      Desc.k x.desc ≤ 8 → pos.toNat < Desc.positions x.desc → LEntry.state (s.entry e) = 2 →
      (s.pos (Desc.k x.desc) e pos.toNat).rstate = 3 →
      ∃ t, exec (.stagingWriteAck entry pos) s = .next t ∧ (t.pos (Desc.k x.desc) e pos.toNat).rstate = 5 ∧
        t.flue.staging = s.flue.staging.filter (· != (e, pos.toNat))) ∧
    (∀ x rest, s.flue.combineQ = e :: rest → s.bankStep (entryBank e) = some x →
      let d := x.desc
      let bs := (encodeElems (outElem d).1 (outElem d).2 (s.combineRow d e)).1
      let ws := (s.destRows d (s.tokenRow d e)).flatMap (fun r => s.rowWrites (Desc.outTensor d) r [bs])
      (s.dropped x e = true → Desc.dropWrite d = false → Desc.arrival d = false →
        let z := (s.destRows d (s.tokenRow d e)).flatMap
          (fun r => s.rowWrites (Desc.outTensor d) r [List.replicate (outBytes d) 0])
        s.foreignWrites z = [] →
        ∃ t, exec (.orderedCombine false) s = .next t ∧ t.mem = (s.writeOwn z).mem ∧ t.flue.combineQ = rest ∧
          t.flue.zeros = s.flue.zeros ++ [(e, (s.destRows d (s.tokenRow d e)).length)] ∧
          t.obj Obj.RZ_ZERO_ROWS = (s.obj Obj.RZ_ZERO_ROWS + 1) % 2 ^ odWidth Obj.RZ_ZERO_ROWS ∧
          ObjsBut [Obj.RZ_ZERO_ROWS] s t) ∧
      (∀ n, s.dropped x e = false → s.combineCtx d e = some n → s.foreignWrites ws = [] →
        ∃ t, exec (.orderedCombine false) s = .next t ∧ t.mem = (s.writeOwn ws).mem ∧ t.flue.combineQ = rest ∧
          { num := n, use := .write e (s.destRows d (s.tokenRow d e)).length } ∈ t.flue.ctxs ∧
          t.flue.ledger = s.flue.ledger ∧ t.egress = s.egress ∧ ObjsBut [Obj.RZ_LAYOUT_SAT] s t ∧
          (Desc.arrival d = false → ∃ u, t.steps.get (entryBank e) = some u ∧
            u.outFp = x.outFp + BitVec.ofNat 64 (s.tokenRow d e * 2 ^ 32 + (crc32 bs).toNat))) ∧
      (∀ p, s.stagedPos d e = some p → x.ended = .no → x.cancelled = false →
        ∃ t u, exec (.orderedCombine true) s = .next t ∧ t.steps.get (entryBank e) = some u ∧ u.ended = .marked 0x1D ∧
          u.cancelled = true)) ∧
    (∀ n, s.homeOpen e = false →
      (s.writeCtx e = some (n, 1) → LEntry.state (s.entry e) ≠ 7 →
        ∃ t, exec (.homeWriteAck entry) s = .next t ∧ LEntry.state (t.entry e) = 0 ∧
          t.obj Obj.RZ_COMBINED = (s.obj Obj.RZ_COMBINED + 1) % 2 ^ odWidth Obj.RZ_COMBINED ∧
          t.flue.ctxs = s.flue.ctxs.filter (fun c => c.num != n)) ∧
      (∀ k, s.writeCtx e = some (n, k + 2) →
        ∃ t, exec (.homeWriteAck entry) s = .next t ∧ t = s.setFlueCtx n (.write e (k + 1))) ∧
      (∃ t, exec (.arrivalZeroWriteAck entry) s = .next t ∧
        t = { s with flue := { s.flue with zeroing := s.flue.zeroing.filter (· != e) } }))

/-- Cancel notices (R181, R231): a key that is listed already changes nothing; this engine's own step of the key ends
cancelled; any other key enters the list of cancelled keys.
The cancel fence (R234) and the watchdog (R56): a drain receipt of the key is taken and any other counted; a complete fence
begins the sweep, which retires every CANCELLED entry and frees the bank; a receipt with POISON, or the bound with one missing,
ends in FAULTED; a phase past its limit marks the step. -/
def Obligations.CancelFenceAndWatchdog : Prop :=
  (∀ (s : State) (n : Notice) (chk : Arrival), s.active = true →
    let k : Key := { stepId := n.stepId, batch := n.batch }
    (s.pool.cancelled.contains k = true → ∃ t, exec (.cancelNotice n chk) s = .next t ∧ t = s) ∧
    (∀ b x, s.pool.cancelled.contains k = false → s.keyStep k = some (b, x) →
      ∃ t u, exec (.cancelNotice n chk) s = .next t ∧ t.steps.get b = some u ∧ u.ended = .cancelled ∧ u.cancelled = true ∧
        t.obj Obj.RZ_BATCH_EPOCH = (s.obj Obj.RZ_BATCH_EPOCH + 1) % 4096) ∧
    (s.pool.cancelled.contains k = false → s.keyStep k = none →
      ∃ t, exec (.cancelNotice n chk) s = .next t ∧ k ∈ t.pool.cancelled)) ∧
  (∀ (s : State) (b : Bool),
    (∀ x f (d : Drain) src, s.steps.get b = some x → s.steps.get (!b) = none → x.fence = some f → f.swept = false → d.key = Step.key x →
      src < 2 ^ 17 →
      ∃ t, exec (.drainReceipt (drainPkt d src s.node)) s = .next t ∧ t = { s with steps := s.steps.set b (some
        { x with fence := some { f with receipts := (f.receipts ++ [src]).eraseDups, poison := f.poison || d.failed } }) }) ∧
    (∀ (d : Drain) src, (∀ b' x f, s.steps.get b' = some x → x.fence = some f → d.key = Step.key x → f.swept = true) →
      ∃ t, exec (.drainReceipt (drainPkt d src s.node)) s = .next t ∧
        t.obj Obj.RZ_STALE_RETURN = (s.obj Obj.RZ_STALE_RETURN + 1) % 2 ^ 64 ∧ ObjsBut [Obj.RZ_STALE_RETURN] s t ∧
        { t with objs := s.objs } = s) ∧
    (∀ x f, s.steps.get b = some x → x.fence = some f →
      (f.swept = false → f.poison = false → s.missingReceipts x f = 0 → s.ownWritesDone b (Step.key x) = true →
        ∃ t, exec (.cancelFenceComplete b) s = .next t ∧
          t.obj Obj.RZ_CANCEL_FENCE_MAX = max (s.obj Obj.RZ_CANCEL_FENCE_MAX) (min 0xFFFFFFFF (s.core - f.since)) ∧
          ObjsBut [Obj.RZ_CANCEL_FENCE_MAX] s t ∧
          { t with objs := s.objs } = { s with steps := s.steps.set b (some { x with fence := some { f with swept := true } }) }) ∧
      (f.swept = true →
        ∃ t u, exec (.bankSweepDone b) s = .next t ∧ t.steps.get b = some u ∧ u.retired = true ∧ u.fence = none ∧
          (s.bankStep (!b) = s.steps.get (!b) → t.steps.get (!b) = s.steps.get (!b)) ∧ ObjsBut [] s t ∧
          ∀ e, t.entry e = if entryBank e = b ∧ LEntry.state (s.entry e) = 7 then LEntry.setState (s.entry e) 0 else s.entry e) ∧
      (s.mode ≠ .off → s.mode ≠ .faulted → s.mode ≠ .powerFail → f.swept = false →
        (f.poison = true ∨ (fenceBound ≤ s.core - f.since ∧ s.missingReceipts x f ≠ 0)) →
        ∃ t, exec (.cancelFenceTimeout b) s = .next t ∧ t.mode = .faulted ∧ t.obj Obj.RZ_STATE_REASON = 9)) ∧
    (∀ x code limit, s.bankStep b = some x → x.ended = .no → x.cancelled = false → x.overrun = false →
      overrunPhase x s.role (s.since x.t0) = some (code, limit) →
      ∃ t u, exec (.stepWatchdog b) s = .next t ∧ t.steps.get b = some u ∧ u.ended = .marked 0x22 ∧ u.cancelled = true ∧
        t.obj Obj.RZ_WATCHDOG = (s.obj Obj.RZ_WATCHDOG + 1) % 2 ^ odWidth Obj.RZ_WATCHDOG))

/-- Re-runs (R30, R345, R357, R359, R360): a notice marks its step, one of a step that is not here changes nothing; with no
step in flight an automatic rewind returns to the marked STEP, its loop state, seed and mask, and counts; any other halts
there with code 8 and keeps seed and mask; the loss of the peer marks both steps and refuses later ones; cores that differ
end in FAULTED. -/
def Obligations.MarksAndRewinds : Prop :=
  ∀ (s : State) (b : Bool) (x : Step), s.steps.get b = some x →
    (∀ (code : Byte) (origin : BitVec 17), x.ended = .no → x.cancelled = false → x.retired = false →
      s.bankOf (Step.key x) = some b →
      ∃ t u, exec (.rerunNotice (Step.key x).stepId (Step.key x).batch code origin) s = .next t ∧ t.steps.get b = some u ∧
        u.ended = .marked 0x71 ∧ u.cancelled = true ∧ t.obj Obj.RZ_BATCH_EPOCH = (s.obj Obj.RZ_BATCH_EPOCH + 1) % 4096 ∧
        t.obj Obj.RZ_RERUN_COUNT = (s.obj Obj.RZ_RERUN_COUNT + 1) % 2 ^ 32) ∧
    (∀ (k : Key) (code : Byte) (origin : BitVec 17), s.bankOf k = none →
      ∃ t, exec (.rerunNotice k.stepId k.batch code origin) s = .next t ∧ t = s) ∧
    (∀ code r, s.mode = .running → s.seq.wait = .rewind → s.inFlight = false → s.steps.get (!b) = none →
      x.ended = .marked code → x.rewind = some r →
      (s.flag Obj.RZ_RERUN_AUTO = true → s.rerunsOf r < s.obj Obj.RZ_RERUN_LIMIT → r.blocks = [] →
        ∃ t u, exec .rewind s = .next t ∧ t.seq.wait = .fetch ∧ t.seq.pc = r.offset ∧ t.seq.frames = r.frames ∧
          t.seq.regs = r.regs ∧ t.seq.keptSeeds = r.seeds ++ s.seq.keptSeeds ∧
          t.seq.keptMasks = r.masks.map s.keptMask ++ s.seq.keptMasks ∧
          t.seq.mask = r.mask.map s.keptMask ∧ t.rerunsOf r = s.rerunsOf r + 1 ∧ t.obj Obj.RZ_NOISE_SEED = r.seed.toNat ∧
          t.obj Obj.RZ_SEQ_STATE = 1 ∧
          t.obj Obj.RZ_REWIND_COUNT = (s.obj Obj.RZ_REWIND_COUNT + 1) % 2 ^ odWidth Obj.RZ_REWIND_COUNT ∧
          t.steps.get b = some u ∧ u.ended = .rewound ∧ u.rewind = none ∧
          ObjsBut [Obj.RZ_NOISE_SEED, Obj.RZ_SEQ_STATE, Obj.RZ_REWIND_COUNT] s t ∧ t.mem = s.mem) ∧
      (s.flag Obj.RZ_RERUN_AUTO = false → s.log.replay = false →
        ∃ t, exec .rewind s = .next t ∧ t.seq.wait = .halted 8 ∧ t.seq.pc = r.offset ∧ t.seq.frames = r.frames ∧
          t.seq.regs = r.regs ∧ t.seq.mask = s.seq.mask ∧ t.obj Obj.RZ_NOISE_SEED = s.obj Obj.RZ_NOISE_SEED ∧
          t.obj Obj.RZ_SEQ_STATE = 8 ∧ (t.obj Obj.RZ_ALERT_CAUSE).testBit 1 = true ∧
          t.steps = s.steps ∧ t.mem = s.mem)) ∧
    (∀ fate, s.mode = .running → s.seq.refuse = false →
      ∃ t, exec (.peerLost fate) s = .next t ∧ t.seq.refuse = true ∧ t.mode = .running ∧ t.kindle.peerGone = true ∧
        (x.ended = .no → x.cancelled = false → x.retired = false →
          ∃ u, t.steps.get b = some u ∧ u.ended = .marked 0x72 ∧ u.cancelled = true)) ∧
    (s.clocked = true → s.mode ≠ .faulted →
      ∃ t, exec .lockstepMismatch s = .next t ∧ t.mode = .faulted ∧ t.obj Obj.RZ_STATE_REASON = 9 ∧
        t.obj Obj.RZ_SEQ_STATE = 0 ∧ (t.obj Obj.RZ_ALERT_CAUSE).testBit 3 = true)

/-! ### The rack fabric -/

/-- LOAD, STORE and MSTORE (R188 to R190, R205): a LOAD is answered with the bytes at its address; a STORE or MSTORE writes its
payload there and no other byte, and is answered once; one that breaks R190's rules is answered with its status and does
nothing else. -/
def Obligations.FabricLoadsAndStores : Prop :=
  ∀ (s : State) (h : BitVec 256) (payload : List Byte) (port : Bool), portFor s.fabUp (FHdr.srcNode h) = some port →
    let answer (st : Nat) (bytes : List Byte) : Msg :=
      .fab port (replyHdr s.node h st false bytes.length 0) (.bytes bytes)
    let written := s.mem.write (FHdr.addr h) payload
    let answered := s.fabric.mreplied.contains (mreplyOf h)
    (Taken s h 0x01 →
      (memCheck h [] = none → ∃ t, exec (.load h) s = .next t ∧ { t with egress := s.egress } = s ∧
        t.egress = s.egress ++ [answer 0 (s.readMem (FHdr.addr h) (FHdr.len h))]) ∧
      (∀ st, memCheck h [] = some st → ∃ t, exec (.load h) s = .next t ∧ t = { s with egress := s.egress ++ [answer st []] })) ∧
    (Taken s h 0x02 →
      (memCheck h payload = none → ∃ t, exec (.store h payload) s = .next t ∧
        { t with egress := s.egress } = { s with mem := written } ∧
        t.egress = s.egress ++ (if answered then [] else [answer 0 []])) ∧
      (∀ st, memCheck h payload = some st →
        ∃ t, exec (.store h payload) s = .next t ∧ t = { s with egress := s.egress ++ [answer st []] })) ∧
    (Taken s h 0x03 →
      (memCheck h payload = none → ∃ t, exec (.mstore h payload) s = .next t ∧ t.mem = written ∧
        t.egress = s.egress ++ (if answered then [] else [answer 0 []]) ∧ mreplyOf h ∈ t.fabric.mreplied ∧
        { t with egress := s.egress, mem := s.mem, fabric := s.fabric } = s) ∧
      (∀ st, memCheck h payload = some st →
        ∃ t, exec (.mstore h payload) s = .next t ∧ t = { s with egress := s.egress ++ [answer st []] })) ∧
    (memCheck h payload = none → ∀ a, (a < FHdr.addr h ∨ FHdr.addr h + FHdr.len h ≤ a) → (FHdr.op h = 2 ∨ FHdr.op h = 3) →
      written.readByte a = s.mem.readByte a)

/-- ATOM_FADD, ATOM_SWAP and ATOM_CAS the first time (R190, R191, R197): the 8 bytes at ADDR take the new value, no other byte
changes, the reply and the cache entry carry the old value.
RED_ADD and RED_MAX the first time (R191, R197): each element at ADDR becomes the sum, or the larger, of itself and the
payload's, no other byte changes, and the reply carries no data. The memory is canonical (StepKeepsCanonical). -/
def Obligations.FabricAtomicsAndReductions : Prop :=
  (∀ (s : State) (h : BitVec 256) (payload : List Byte) (port : Bool), portFor s.fabUp (FHdr.srcNode h) = some port →
    FirstTime s h → memCheck h payload = none →
    let old := s.mem.readNat (FHdr.addr h) 8
    let stores (i : Instr) (new : Nat) : Prop := ∃ t, exec i s = .next t ∧ t.mem.read (FHdr.addr h) 8 = leBytes 8 new ∧
      (∀ a, a < FHdr.addr h ∨ FHdr.addr h + 8 ≤ a → t.mem.readByte a = s.mem.readByte a) ∧
      t.egress = s.egress ++ [.fab port (replyHdr s.node h 0 false 0 (BitVec.ofNat 64 old)) (.bytes [])] ∧
      (∃ c, t.rcLookup h = some c ∧ c.status = 0 ∧ c.data = BitVec.ofNat 64 old) ∧ ObjsBut [] s t ∧
      { t with mem := s.mem, egress := s.egress, fabric := s.fabric } = s
    (Taken s h 0x08 → stores (.atomFadd h payload false) ((old + leNat payload) % 2 ^ 64)) ∧
    (Taken s h 0x09 → stores (.atomSwap h payload false) (leNat payload)) ∧
    (Taken s h 0x0A → stores (.atomCas h payload false)
      (if old = leNat (payload.take 8) then leNat (payload.drop 8) else old))) ∧
  (∀ (s : State) (h : BitVec 256) (payload : List Byte) (port : Bool), s.canonical →
    portFor s.fabUp (FHdr.srcNode h) = some port → FirstTime s h → memCheck h payload = none →
    let w := efmtSize (FHdr.efmt h)
    let reduces (i : Instr) (f : Nat → Nat → Nat → Nat) : Prop := ∃ t, exec i s = .next t ∧
      (∀ n, n < FHdr.len h / w → t.mem.read (FHdr.addr h + n * w) w =
        leBytes w (f (FHdr.efmt h) (s.mem.readNat (FHdr.addr h + n * w) w) (leNat ((payload.drop (n * w)).take w)))) ∧
      (∀ a, a < FHdr.addr h ∨ FHdr.addr h + FHdr.len h ≤ a → t.mem.readByte a = s.mem.readByte a) ∧
      t.egress = s.egress ++ [.fab port (replyHdr s.node h 0 false 0 0) (.bytes [])] ∧ ObjsBut [] s t ∧
      { t with mem := s.mem, egress := s.egress, fabric := s.fabric } = s
    (Taken s h 0x10 → reduces (.redAdd h payload false) redAdd) ∧
    (Taken s h 0x11 → reduces (.redMax h payload false) redMax))

/-- Requests that are not applied: one too old is discarded (R196); a malformed one is answered BAD_OP (R188), one whose
SHARE is 0 too (the model's choice, log entry 37); an exactly-once request the cache knows is answered from it and not
applied again, one it has no room for is answered RETRY_LATER, one whose entry cannot be read UNKNOWN (R197). -/
def Obligations.FabricRequestsTurnedAway : Prop :=
  ∀ (s : State) (h : BitVec 256) (payload : List Byte) (p : Packet) (chk : Arrival) (err port : Bool),
    s.fabOpenIn = true → s.addressed h = true → portFor s.fabUp (FHdr.srcNode h) = some port →
    let answer (st : Nat) (cached : Bool) (data : BitVec 64) : Msg :=
      .fab port (replyHdr s.node h st cached 0 data) (.bytes [])
    let once (err : Bool) : List (Nat × Instr) :=
      [(0x08, .atomFadd h payload err), (0x09, .atomSwap h payload err), (0x0A, .atomCas h payload err),
       (0x10, .redAdd h payload err), (0x11, .redMax h payload err)]
    (∀ x ∈ [(0x01, Instr.load h), (0x02, .store h payload), (0x03, .mstore h payload), (0x05, .flueStore h p chk err)] ++ once err,
      FHdr.op h = x.1 →
      (1995 ≤ s.ageOf h → ∃ t, exec x.2 s = .next t ∧ t.obj Obj.RZ_STALE_REQ = (s.obj Obj.RZ_STALE_REQ + 1) % 2 ^ 32 ∧
        ObjsBut [Obj.RZ_STALE_REQ] s t ∧ { t with objs := s.objs } = s) ∧
      (s.ageOf h < 1995 → (FHdr.reservedOk h = false ∨ FHdr.share h = 0 ∨ efmtOk h = false) →
        ∃ t, exec x.2 s = .next t ∧ t = { s with egress := s.egress ++ [answer 6 false 0] })) ∧
    (∀ x ∈ once false, Taken s h x.1 →
      (∀ c, s.rcLookup h = some c → c.gen.toNat = FHdr.gen h → c.origT.toNat = FHdr.origT h → s.rcLive c = true →
        ∃ t, exec x.2 s = .next t ∧ t.egress = s.egress ++ [answer c.status true c.data] ∧
          t.obj Obj.RZ_RCACHE_HIT = (s.obj Obj.RZ_RCACHE_HIT + 1) % 2 ^ odWidth Obj.RZ_RCACHE_HIT ∧
          ObjsBut [Obj.RZ_RCACHE_HIT] s t ∧ { t with objs := s.objs, egress := s.egress } = s) ∧
      (s.rcLookup h = none → s.rcFull = true →
        ∃ t, exec x.2 s = .next t ∧ t.egress = s.egress ++ [answer 3 false 0] ∧ ObjsBut [Obj.RZ_RCACHE_FULL] s t ∧
          t.obj Obj.RZ_RCACHE_FULL = (s.obj Obj.RZ_RCACHE_FULL + 1) % 2 ^ odWidth Obj.RZ_RCACHE_FULL ∧
          { t with objs := s.objs, egress := s.egress } = s)) ∧
    (∀ x ∈ once true, Taken s h x.1 →
      ∃ t, exec x.2 s = .next t ∧ t.egress = s.egress ++ [answer 7 false 0] ∧ t.mem = s.mem ∧ t.fabric = s.fabric)

/-- FLUE_STORE the first time (R189, R197, R222): its reply carries the flue's status: DONE for a return of no open step, which
is counted, and for a sound receipt, which closes its position; REPLAY for a payload that fails; ALIGN where its length is not
its packet's. -/
def Obligations.FlueStores : Prop :=
  ∀ (s : State) (h : BitVec 256) (p : Packet) (chk : Arrival) (port : Bool),
    portFor s.fabUp (FHdr.srcNode h) = some port → Taken s h 0x05 → FirstTime s h →
    let stored (t : State) : Prop := exec (.flueStore h p chk false) s = .next t
    let answer (st : Nat) : Msg := .fab port (replyHdr s.node h st false 0 0) (.bytes [])
    let fits := FHdr.len h = 32 + 64 * RHdr.cells p.hdr ∧ FHdr.len h ≤ 65568 ∧ p.payload.length = 64 * RHdr.cells p.hdr
    (¬fits → ∃ t, stored t ∧ t = { s with egress := s.egress ++ [answer 5] }) ∧
    (fits → RHdr.type p.hdr ≠ 8 →
      (s.returnStep p.hdr = none →
        ∃ t, stored t ∧ t.egress = s.egress ++ [answer 0] ∧ t.flue = s.flue ∧ t.mem = s.mem ∧
          t.obj Obj.RZ_STALE_RETURN = (s.obj Obj.RZ_STALE_RETURN + 1) % 2 ^ 64 ∧ ObjsBut [Obj.RZ_STALE_RETURN] s t) ∧
      (∀ x, s.returnStep p.hdr = some x →
        let sound := payloadOk (RHdr.cells p.hdr) (RHdr.payCrc p.hdr).toNat p.payload chk
        let e := RHdr.entry p.hdr
        let pos := posOf x.desc (RHdr.shared p.hdr) (RHdr.slot p.hdr)
        (sound = false → ∃ t, stored t ∧ t.egress = s.egress ++ [answer 1] ∧ t.flue = s.flue ∧ ObjsBut [] s t) ∧
        (sound = true → s.returnCheck x p.hdr = 0 → RHdr.poison p.hdr = false → Desc.k x.desc ≤ 8 →
          (RHdr.type p.hdr = 7 → ∃ t, stored t ∧ (t.pos (Desc.k x.desc) e pos).rstate = 6 ∧
            ∃ more, t.egress = s.egress ++ more ++ [answer 0]) ∧
          (∀ n, RHdr.type p.hdr = 5 → Desc.arrival x.desc = false → s.freeFlueCtx = some n →
            p.payload.length / 64 ≤ s.stashFree →
            ∃ t, stored t ∧ t.egress = s.egress ++ [answer 0] ∧ (t.pos (Desc.k x.desc) e pos).rstate = 4 ∧
              (t.pos (Desc.k x.desc) e pos).ctx = n))))

/-- The requester's side (R168, R194, R195, R210): a reply to an operation closes it, an orphan is counted; a lost attempt is sent
again while R195 allows it, its SHARE from the flows that hold a request ready, and an operation whose time is over ends as unknown; answers to packets over the peer path free
their contexts or begin the back-off; a busy answer breaks the timing of the packet's step; a gateway's answer for a
dispatch packet of an unknown key changes nothing. -/
def Obligations.RepliesAndRetries : Prop :=
  ∀ s : State,
    (∀ (h : BitVec 256) (bytes : List Byte), s.active = true → (s.fabUp false = true ∨ s.fabUp true = true) →
      (s.openFor h = none ∨ s.replyFormed h = false →
        ∃ t, exec (.reply (.fab h bytes)) s = .next t ∧
          t.obj Obj.RZ_REPLY_ORPHAN = (s.obj Obj.RZ_REPLY_ORPHAN + 1) % 2 ^ odWidth Obj.RZ_REPLY_ORPHAN ∧
          ObjsBut [Obj.RZ_REPLY_ORPHAN] s t ∧ { t with objs := s.objs } = s) ∧
      (∀ o k, OnlyOp s o → s.openFor h = some o → s.replyFormed h = true → FHdr.status h = 0 → o.serve = .notice k →
        ∃ t, exec (.reply (.fab h bytes)) s = .next t ∧ t = { s with fabric := { s.fabric with ops := [] } })) ∧
    (∀ (h : BitVec 256) (st : BitVec 4) (n : Nat), s.active = true →
      (5 ≤ DHdr.type h → s.sendCtx h = some n → st ≠ 1 →
        ∃ t, exec (.reply (.peer h st)) s = .next t ∧ t = s.dropSent n (RHdr.key h)) ∧
      (∀ c, DHdr.type h < 5 → s.sentCtx h = some n → s.dispCtx n = some c →
        (st = 2 → ∃ t, exec (.reply (.peer h st)) s = .next t ∧
          t.bellows = (s.setDispCtx { c with st := .backoff s.core }).bellows ∧ ObjsBut [] s t ∧ t.mem = s.mem ∧
          ∀ b x, s.bankOf (DHdr.key c.hdr) = some b → s.steps.get b = some x →
            ∃ u, t.steps.get b = some u ∧ u.broken = true ∧ u.resend = true) ∧
        (st = 0 → ∃ t, exec (.reply (.peer h st)) s = .next t ∧
          t.bellows.ctxs = s.bellows.ctxs.filter (fun x => x.num != n) ∧ ObjsBut [] s t ∧ t.mem = s.mem)) ∧
      (DHdr.type h < 5 → s.keyStep (DHdr.key h) = none → ∃ t, exec (.reply (.gate h st)) s = .next t ∧ t = s)) ∧
    (∀ (o : FabOp) (port : Bool) (tag : BitVec 10), OnlyOp s o → o.port = port → o.tag = tag.toNat →
      (∀ p, o.lastAt + 240000 ≤ s.core → o.attempt < 8 → s.core ≤ o.firstAt + 1920000 → portFor s.fabUp o.dst = some p →
        ∃ t, exec (.fabricRetryTimer port tag) s = .next t ∧ t.fabric.ops = [nextTry s o p] ∧
          t.egress = s.egress ++ [.fab p ((s.countFlows p [o.toFabWait]).attemptHdr (nextTry s o p) p (FHdr.op o.hdr) o.dst
            (FHdr.mgroup o.hdr)) o.body] ∧
          t.obj Obj.RZ_FAB_RETRY = (s.obj Obj.RZ_FAB_RETRY + 1) % 2 ^ 64 ∧ ObjsBut [Obj.RZ_FAB_RETRY] s t ∧ t.mem = s.mem) ∧
      ((o.firstAt + 2160000 ≤ s.core ∨ (o.attempt = 8 ∧ o.lastAt + 240000 ≤ s.core)) → o.serve = .notice none →
        ∃ t, exec (.fabricUnknown port tag) s = .next t ∧ t.fabric.ops = [] ∧ t.mem = s.mem ∧ t.egress = s.egress ∧
          t.obj Obj.RZ_FAB_UNKNOWN = (s.obj Obj.RZ_FAB_UNKNOWN + 1) % 2 ^ 32))

/-- Routes and ports (R195, R199 to R202): a route change sets the port's epoch, a drained epoch's attempts go out again at
once, those of a port that goes down on the other port; a port that is down comes up with the epoch it is given, the first
time after kindling with the reply cache clear and a hold on sending, which ends. -/
def Obligations.RoutesAndPorts : Prop :=
  ∀ (s : State) (port : Bool),
    let p := s.fabric.ports.get port
    let again (s' t : State) (o : FabOp) (q : Bool) : Prop := t.fabric.ops = [nextTry s o q] ∧
      t.egress = s.egress ++ [.fab q ((s'.countFlows q [o.toFabWait]).attemptHdr (nextTry s o q) q (FHdr.op o.hdr) o.dst
        (FHdr.mgroup o.hdr)) o.body] ∧
      t.obj Obj.RZ_FAB_RETRY = (s.obj Obj.RZ_FAB_RETRY + 1) % 2 ^ 64 ∧ t.mem = s.mem
    (∀ epoch : BitVec 4, s.active = true → s.fabUp port = true →
      (∀ o, OnlyOp s o → o.lastPort = port → o.epoch = epoch.toNat → o.attempt < 8 → s.core ≤ o.firstAt + 1920000 →
        ∃ t, exec (.drain port epoch) s = .next t ∧ again s t o port) ∧
      (s.fabric.ops.any (fun o => o.onEpoch port epoch.toNat) = false →
        (∃ t, exec (.drain port epoch) s = .next t ∧ t = s) ∧
        (∃ t, exec (.routeChange port epoch) s = .next t ∧
          t.fabric = { s.fabric with ports := s.fabric.ports.set port { p with epoch := epoch.toNat } } ∧
          t.obj Obj.RZ_ROUTE_CHANGE = (s.obj Obj.RZ_ROUTE_CHANGE + 1) % 2 ^ 32 ∧ ObjsBut [Obj.RZ_ROUTE_CHANGE] s t ∧
          { t with objs := s.objs, fabric := s.fabric } = s)) ∧
      (s.fabric.ops.any (fun o => o.onEpoch port epoch.toNat) = true →
        ∃ t, exec (.routeChange port epoch) s = .next t ∧
          t.obj Obj.RZ_EPOCH_WRAP_LOSS = (s.obj Obj.RZ_EPOCH_WRAP_LOSS + 1) % 2 ^ 32)) ∧
    (s.active = true → s.fabUp port = true →
      let down := { s with fabric := { s.fabric with ports := s.fabric.ports.set port { p with up := false } } }
      (s.fabric.ops = [] → ∃ t, exec (.fabPortDown port) s = .next t ∧ t.fabUp port = false ∧
        t.fabric = { s.fabric with ports := s.fabric.ports.set port { p with up := false } } ∧ t.egress = s.egress) ∧
      (∀ o, OnlyOp s o → o.lastPort = port → s.fabUp (!port) = true → o.attempt < 8 → s.core ≤ o.firstAt + 1920000 →
        ∃ t, exec (.fabPortDown port) s = .next t ∧ t.fabUp port = false ∧ t.fabUp (!port) = true ∧ again down t o (!port))) ∧
    (∀ (e0 e1 : Option (BitVec 4)) (gate : Bool), s.active = true → s.rcacheSet = true → s.fabric.waitQ = [] →
      s.bellows.waiting = [] →
      ∃ t, exec (.fabricPortsUp e0 e1 gate) s = .next t ∧ ObjsBut [] s t ∧ t.egress = s.egress ∧
        t.fabric.gateUp = (s.fabric.gateUp || gate) ∧ t.fabric.rcReady = true ∧
        (∀ q, t.fabric.ports.get q = match (if q then e1 else e0) with
          | none => s.fabric.ports.get q
          | some e =>
            if (s.fabric.ports.get q).up || (s.fabric.ports.get q).lost then s.fabric.ports.get q
            else { s.fabric.ports.get q with up := true, epoch := e.toNat }) ∧
        (s.fabric.rcReady = true → t.fabric.rcache = s.fabric.rcache ∧ t.fabric.hold = s.fabric.hold ∧ t.mem = s.mem) ∧
        (s.fabric.rcReady = false → t.fabric.rcache = [] ∧ t.fabric.hold = true ∧
          (∀ a, s.obj Obj.RZ_RCACHE_BASE ≤ a → a < s.obj Obj.RZ_RCACHE_BASE + 32 * s.obj Obj.RZ_RCACHE_ENTRIES →
            t.mem.readByte a = 0) ∧
          (∀ a, a < s.obj Obj.RZ_RCACHE_BASE ∨ s.obj Obj.RZ_RCACHE_BASE + 32 * s.obj Obj.RZ_RCACHE_ENTRIES ≤ a →
            t.mem.readByte a = s.mem.readByte a))) ∧
    (s.active = true → s.fabric.hold = true → (s.fabric.ports.b0.up = true ∨ s.fabric.ports.b1.up = true) →
      s.fabric.waitQ = [] →
      ∃ t, exec .fabricSendHoldEnd s = .next t ∧ t = { s with fabric := { s.fabric with hold := false } })

/-! ### Time, temperature, faults, test -/

/-- Fabric time (R277, R278, R208, R371): a value written to RZ_FTIME_NEXT is taken at the first pulse after that cycle, and
with it the incarnation; a pulse in the write's own cycle finds the setting before it. Any other pulse moves valid time to the
nearest millisecond, counts a step of more than 4 cycles and ends validity at one of more than 12; a missed pulse ends it. -/
def Obligations.FabricTime : Prop :=
  ∀ (s : State) (p : Path) (tag : ReqTag) (v : BitVec 64),
    ((s.mode = .ready ∨ s.mode = .running ∨ s.mode = .banked) → s.hearsRow p tag = true → v.toNat % 1200000 = 0 →
      ∃ t, exec (.ftimeNextWrite p tag v) s = .next t ∧ t.obj Obj.RZ_FTIME_NEXT = v.toNat ∧
        t.ftime.armed = some s.core ∧ t.ftime.value = s.ftime.value ∧ t.ftime.valid = s.ftime.valid ∧
        t.ftime.before = (match s.ftime.armed with
          | some c => if c < s.core then some (BitVec.ofNat 64 (s.obj Obj.RZ_FTIME_NEXT)) else s.ftime.before
          | none => none) ∧ ObjsBut [Obj.RZ_FTIME_NEXT] s t) ∧
    (s.readsPins = true → s.clocked = true →
      let takes (t : State) (x : BitVec 64) : Prop := t.ftime.value = x ∧ t.ftime.valid = true ∧ t.ftime.before = none ∧
        (s.bellows.incarn = none → t.bellows.incarn = some (BitVec.ofNat 32 (x.toNat / 1200000))) ∧
        (s.bellows.incarn.isSome = true → t.bellows.incarn = s.bellows.incarn)
      let unset : Prop := s.ftime.armed = none ∨ (∃ c, s.ftime.armed = some c ∧ s.core ≤ c ∧ s.ftime.before = none)
      (∀ c, s.ftime.armed = some c → c < s.core →
        ∃ t, exec .timepulse s = .next t ∧ takes t (BitVec.ofNat 64 (s.obj Obj.RZ_FTIME_NEXT)) ∧ t.ftime.armed = none) ∧
      (∀ c x, s.ftime.armed = some c → s.core ≤ c → s.ftime.before = some x →
        ∃ t, exec .timepulse s = .next t ∧ takes t x ∧ t.ftime.armed = some c) ∧
      (unset → s.ftime.valid = true →
        let r := s.ftime.value.toNat % 1200000
        (2 * r < 1200000 → ∃ t, exec .timepulse s = .next t ∧
          t.ftime = { s.ftime with value := s.ftime.value - BitVec.ofNat 64 r, valid := decide (r ≤ 12) } ∧
          t.obj Obj.RZ_FTIME_STEP = (if 4 < r then (s.obj Obj.RZ_FTIME_STEP + 1) % 2 ^ odWidth Obj.RZ_FTIME_STEP
            else s.obj Obj.RZ_FTIME_STEP)) ∧
        (1200000 < 2 * r → ∃ t, exec .timepulse s = .next t ∧
          t.ftime = { s.ftime with value := s.ftime.value + BitVec.ofNat 64 (1200000 - r)
                                   valid := decide (1200000 - r ≤ 12) } ∧
          t.obj Obj.RZ_FTIME_STEP = (if 4 < 1200000 - r then (s.obj Obj.RZ_FTIME_STEP + 1) % 2 ^ odWidth Obj.RZ_FTIME_STEP
            else s.obj Obj.RZ_FTIME_STEP))) ∧
      (s.ftime.valid = true → ∃ t, exec .timepulseMissed s = .next t ∧ t.ftime = { s.ftime with valid := false } ∧ t.mem = s.mem) ∧
      (unset → s.ftime.valid = false →
        ∃ t, exec .timepulse s = .next t ∧ t = { s with pins := { s.pins with timeEdge := some s.core } }))

/-- Temperature (R327, R328, R330): a sample shows the highest of its four readings; at 110.0 °C the clock is throttled, at
once outside RUNNING; below RZ_THROTTLE_EXIT for 10 ms it is restored; at 120.0 °C in RUNNING both steps are marked and, once
none is in flight, the engine is BANKED by reason 8; in READY layout jobs are held. Stoke and frequency changes (R327, R329):
the ramp's end switches the clock up, but not while it is throttled; at 105.0 °C stoke is to end at the next step boundary, or
after 1 ms without one, at its limit it ends at once, RZ_STOKE_MS shows the whole milliseconds of all periods, and the
cool-down begins, which ends; a change that met no step boundary
is made at its deadline and breaks the timing of the steps whose check assumed more. -/
def Obligations.ThermalAndFrequency : Prop :=
  (∀ (s : State) (t0 t1 t2 t3 : BitVec 32),
    let tj := max (max t0.toInt t1.toInt) (max t2.toInt t3.toInt)
    let sample : Instr := .thermalSample t0 t1 t2 t3
    (s.mode ≠ .off →
      ∃ t, exec sample s = .next t ∧ t.obj Obj.RZ_TJ = i32Bits tj ∧
        t.obj Obj.RZ_TJ_MAX = i32Bits (max tj (i32 (s.obj Obj.RZ_TJ_MAX))) ∧
        (tj < 1050 → ObjsBut [Obj.RZ_TJ, Obj.RZ_TJ_MAX] s t ∧ t.mem = s.mem ∧ t.steps = s.steps)) ∧
    (s.mode ≠ .off → 1100 ≤ tj → tj < 1200 → i32 (s.obj Obj.RZ_THROTTLE_EXIT) ≤ tj → s.therm.throttled = false →
      s.therm.change = none → s.therm.stoke = .off →
      ∃ t, exec sample s = .next t ∧ (t.obj Obj.RZ_ALERT_CAUSE).testBit 5 = true ∧
        t.obj Obj.RZ_THROTTLE_COUNT = (s.obj Obj.RZ_THROTTLE_COUNT + 1) % 2 ^ odWidth Obj.RZ_THROTTLE_COUNT ∧
        (s.mode = .running → t.therm.change = some (true, s.core) ∧ t.therm.throttled = false) ∧
        (s.mode ≠ .running → t.therm.change = none ∧ t.therm.throttled = true)) ∧
    (∀ c, s.mode ≠ .off → tj < 1050 → tj < i32 (s.obj Obj.RZ_THROTTLE_EXIT) → s.therm.throttled = true →
      s.therm.change = none → s.therm.coolSince = some c → c + 12000000 ≤ s.core →
      ∃ t, exec sample s = .next t ∧ (s.mode = .running → t.therm.change = some (false, s.core)) ∧
        (s.mode ≠ .running → t.therm.throttled = false ∧ t.therm.change = none)) ∧
    (1200 ≤ tj →
      (s.mode = .running → s.therm.bankWait = false →
        ∃ t, exec sample s = .next t ∧ t.therm.bankWait = true ∧ t.seq.wait = .none ∧ t.mode = .running ∧ t.log.replay = false ∧
          t.obj Obj.RZ_THERMAL_BANK = (s.obj Obj.RZ_THERMAL_BANK + 1) % 2 ^ odWidth Obj.RZ_THERMAL_BANK ∧
          ∀ b x, s.bankStep b = some x → x.ended = .no → x.cancelled = false →
            ∃ u, t.steps.get b = some u ∧ u.marked = true ∧ u.cancelled = true) ∧
      (s.mode = .ready → ∃ t, exec sample s = .next t ∧ t.therm.jobsHeld = true ∧ t.mode = .ready)) ∧
    (s.mode = .running → s.therm.bankWait = true → s.inFlight = false →
      ∃ t, exec .thermalBankEntry s = .next t ∧ t.mode = .banked ∧ t.obj Obj.RZ_STATE_REASON = 8 ∧
        (t.obj Obj.RZ_ALERT_CAUSE).testBit 5 = true ∧ t.therm.bankWait = false ∧ t.fabric.ports.b0.up = false ∧
        t.fabric.ports.b1.up = false ∧ LandingCleared s t ∧ t.lp = s.lp)) ∧
  (∀ s : State,
    (∀ since ending, s.therm.stoke = .on since false ending → s.therm.throttled = false →
      ∃ t, exec .stokeRampEnd s = .next t ∧ t = { s with therm := { s.therm with stoke := .on since true ending } }) ∧
    (∀ since sw ending, s.therm.stoke = .on since sw ending →
      let ends (t : State) : Prop :=
        t.therm = { s.therm with stoke := .off, cooldown := true, stokeTime := s.therm.stokeTime + (s.core - since) } ∧
        t.readObj Obj.RZ_STOKE_MS = (s.therm.stokeTime + (s.core - since)) / 1200000 % 2 ^ 64 ∧
        t.readObj Obj.RZ_STOKE_MS = s.readObj Obj.RZ_STOKE_MS ∧ { t with therm := s.therm } = s
      (since + s.obj Obj.RZ_STOKE_LIMIT * 1200000 ≤ s.core → ∃ t, exec .stokeLimitExpiry s = .next t ∧ ends t) ∧
      (∀ c, ending = some c → c + 1200000 ≤ s.core → s.mode = .running → s.therm.change = none →
        ∃ t, exec .frequencyChangeDeadline s = .next t ∧ ends t) ∧
      (∀ v : BitVec 32, ending = none → s.mode ≠ .off → 1050 ≤ v.toInt →
        ∃ t, exec (.thermalSample v v v v) s = .next t ∧
          (v.toInt < 1100 → t.therm.stoke = .on since sw (some s.core) ∧
            t.obj Obj.RZ_THROTTLE_COUNT = (s.obj Obj.RZ_THROTTLE_COUNT + 1) % 2 ^ odWidth Obj.RZ_THROTTLE_COUNT) ∧
          (t.obj Obj.RZ_ALERT_CAUSE).testBit 5 = true)) ∧
    (∃ t, exec .stokeCooldownEnd s = .next t ∧ t = { s with therm := { s.therm with cooldown := false } }) ∧
    (∀ thr c, s.mode = .running → s.therm.change = some (thr, c) → c + 1200000 ≤ s.core → s.therm.stoke = .off →
      ∃ t, exec .frequencyChangeDeadline s = .next t ∧ t.therm = { s.therm with throttled := thr, change := none } ∧
        ObjsBut [] s t ∧ (thr = false → t.steps = s.steps) ∧
        (thr = true → ∀ b x, s.bankStep b = some x →
          t.steps.get b = some (if x.model.slow then x else { x with broken := true, throttle := true }))))

/-- Every event that the soot log takes (R353): its entry at or above RZ_SOOT_ALERT_SEV sets cause SOOT, and so does a merge into
such an entry. -/
def Obligations.SootLog : Prop :=
  ∀ (s : State) (ev : SootEv), s.sootQueued < 64 →
    let newest := Tabs.get sootZero s.soot.ring ((s.obj Obj.RZ_SOOT_HEAD + 1023) % 1024)
    let full := decide (1024 ≤ (s.obj Obj.RZ_SOOT_HEAD + 2 ^ 32 - s.obj Obj.RZ_SOOT_TAIL) % 2 ^ 32)
    let merges := newest ≠ 0 ∧ sootMerges newest (sootEntry s ev (full || s.soot.lost) 0 (s.obj Obj.RZ_SOOT_HEAD)) = true
    (¬merges → s.obj Obj.RZ_SOOT_ALERT_SEV ≤ ev.sev → ((s.soot_ ev).obj Obj.RZ_ALERT_CAUSE).testBit 2 = true) ∧
    (merges → s.obj Obj.RZ_SOOT_ALERT_SEV ≤ fld newest 247 245 →
      ((s.soot_ ev).obj Obj.RZ_ALERT_CAUSE).testBit 2 = true)

/-- Faults that the monitors find (R319, R341 to R343, R347): the loss of a clock that only FAULTED answers, of a fabric port's,
the gateway's, a die's, the xSPI part's or the test multiplexer's; a word in error on a path, repeated or not; errors in
arrays, of a step's counts and of a group; the end of a scrub pass, which is dated. The model's choices here: which bank a
histogram word's index names (index / 65536) and which group a member's (index / 4096), log entry 32; RZ_SCRUB_LAST counted from
the start of kindling, log entry 38.
An error as the soot log shows it (R343, R349, R351): a corrected array error's new entry stands at the head with its code,
severity and number, and a full ring loses its oldest; an event like the newest entry's within 1 ms is counted in that entry; an
event that finds the queue of 64 full is lost and counted, and the next entry says so (when the queue empties is the model's
choice, log entry 38). -/
def Obligations.MonitorsFindFaults : Prop :=
  (∀ (s : State) (array : ArrayId) (index : Nat) (syn : BitVec 32), s.arrayLive array = true → secded array = true →
    let head := s.obj Obj.RZ_SOOT_HEAD
    let last := (head + 1023) % 1024
    let newest := Tabs.get sootZero s.soot.ring last
    let ev : SootEv := { code := 0x12, sev := 1, action := 0, detail := syn.toNat,
                         loc := s.arrayCode array index * 2 ^ 24 + wordIndex array index % 2 ^ 24 }
    let full := 1024 ≤ (head + 2 ^ 32 - s.obj Obj.RZ_SOOT_TAIL) % 2 ^ 32
    let merges := newest ≠ 0 ∧ sootMerges newest (sootEntry s ev (decide full || s.soot.lost) 0 head) = true
    let found : Instr := .patrolScrub (some { array := array, index := index, double := false, syndrome := syn }) false
    let corrected (t : State) : Prop :=
      t.obj Obj.RZ_SECDED_CORR = (s.obj Obj.RZ_SECDED_CORR + 1) % 2 ^ odWidth Obj.RZ_SECDED_CORR
    (64 ≤ s.sootQueued →
      ∃ t, exec found s = .next t ∧ corrected t ∧
        t.obj Obj.RZ_SOOT_LOST = (s.obj Obj.RZ_SOOT_LOST + 1) % 2 ^ odWidth Obj.RZ_SOOT_LOST ∧
        ObjsBut [Obj.RZ_SECDED_CORR, Obj.RZ_SOOT_LOST] s t ∧
        { t with objs := s.objs } = { s with soot := { s.soot with lost := true } }) ∧
    (s.sootQueued < 64 →
      ∃ t, exec found s = .next t ∧ corrected t ∧ t.soot.queued = s.sootQueued + 1 ∧ t.soot.cycle = s.core ∧
        ObjsBut [Obj.RZ_SECDED_CORR, Obj.RZ_SOOT_HEAD, Obj.RZ_SOOT_TAIL, Obj.RZ_SOOT_LOST, Obj.RZ_ALERT_CAUSE] s t ∧
        { t with objs := s.objs, soot := s.soot } = s ∧
        let cause (sev : Nat) : Prop := t.obj Obj.RZ_ALERT_CAUSE =
          if s.obj Obj.RZ_SOOT_ALERT_SEV ≤ sev then s.obj Obj.RZ_ALERT_CAUSE ||| 4 else s.obj Obj.RZ_ALERT_CAUSE
        (merges → cause (fld newest 247 245) ∧ t.obj Obj.RZ_SOOT_HEAD = head ∧ t.obj Obj.RZ_SOOT_TAIL = s.obj Obj.RZ_SOOT_TAIL ∧
          Tabs.get sootZero t.soot.ring last = setFld newest 239 224 (min 0xFFFF (fld newest 239 224 + 1)) ∧
          ∀ k, k ≠ last → Tabs.get sootZero t.soot.ring k = Tabs.get sootZero s.soot.ring k) ∧
        (¬merges → cause 1 ∧ t.obj Obj.RZ_SOOT_HEAD = (head + 1) % 2 ^ 32 ∧ t.soot.lost = false ∧
          (let e := Tabs.get sootZero t.soot.ring (head % 1024)
           fld e 255 248 = 0x12 ∧ fld e 247 245 = 1 ∧ fld e 240 240 = b2n (decide full || s.soot.lost) ∧
           fld e 63 32 = syn.toNat ∧ fld e 31 0 = head % 2 ^ 32) ∧
          (∀ k, k ≠ head % 1024 → Tabs.get sootZero t.soot.ring k = Tabs.get sootZero s.soot.ring k) ∧
          t.obj Obj.RZ_SOOT_TAIL = (if full then (s.obj Obj.RZ_SOOT_TAIL + 1) % 2 ^ 32 else s.obj Obj.RZ_SOOT_TAIL)))) ∧
  (∀ (s : State) (n : BitVec 5), s.clocked = true →
    (s.watched n.toNat = true → (s.obj Obj.RZ_CLK_LOST).testBit n.toNat = false →
      ∃ t, exec (.clockLoss n) s = .next t ∧ (t.obj Obj.RZ_CLK_LOST).testBit n.toNat = true ∧
        (clkKind n.toNat = .fatal → s.mode ≠ .faulted → t.mode = .faulted ∧ t.obj Obj.RZ_STATE_REASON = 9) ∧
        (∀ d, clkKind n.toNat = .ddl d → t.diePresent d = false ∧ t.mode = s.mode) ∧
        (∀ p, clkKind n.toNat = .fab p → t.fabUp p = false ∧ t.mode = s.mode) ∧
        (clkKind n.toNat = .gate → t.gateOpen = false ∧ t.mode = s.mode) ∧
        ((clkKind n.toNat = .xspi ∨ clkKind n.toNat = .dbg) →
          { t with objs := s.objs, soot := s.soot } = s ∧ ObjsBut [Obj.RZ_CLK_LOST, Obj.RZ_SOOT_HEAD, Obj.RZ_SOOT_TAIL,
            Obj.RZ_SOOT_LOST, Obj.RZ_ALERT_CAUSE] s t)) ∧
    (∀ path word : BitVec 32,
      (∃ t, exec (.datapathParityError path word false none) s = .next t ∧ t.steps = s.steps ∧ t.mem = s.mem ∧
        t.obj Obj.RZ_PARITY_REPLAY = (s.obj Obj.RZ_PARITY_REPLAY + 1) % 2 ^ 64) ∧
      (∀ b x, s.bankStep b = some x →
        (∃ t, exec (.datapathParityError path word false (some b)) s = .next t ∧
          t.steps = s.steps.set b (some { x with broken := true }) ∧
          t.obj Obj.RZ_PARITY_REPLAY = (s.obj Obj.RZ_PARITY_REPLAY + 1) % 2 ^ 64) ∧
        (x.ended = .no → x.cancelled = false →
          ∃ t u, exec (.datapathParityError path word true (some b)) s = .next t ∧ t.steps.get b = some u ∧
            u.ended = .marked 0x11 ∧ u.cancelled = true))) ∧
    (∃ t, exec (.patrolScrub none true) s = .next t ∧
      t.obj Obj.RZ_SCRUB_LAST = (s.core - s.kindle.started) / 1200000 % 2 ^ 32 ∧ ObjsBut [Obj.RZ_SCRUB_LAST] s t ∧
      { t with objs := s.objs } = s) ∧
    (∀ (index : Nat) (syn : BitVec 32),
      let found (a : ArrayId) : Instr := .patrolScrub (some { array := a, index := index, double := true, syndrome := syn }) false
      (∀ x, s.arrayLive .hist = true → s.bankStep (index / 65536 % 2 == 1) = some x → x.ended = .no → x.cancelled = false →
        ∃ t u, exec (found .hist) s = .next t ∧ t.steps.get (index / 65536 % 2 == 1) = some u ∧
          u.ended = .marked 0x16 ∧ u.cancelled = true ∧
          t.obj Obj.RZ_SECDED_UNCORR = (s.obj Obj.RZ_SECDED_UNCORR + 1) % 2 ^ 32) ∧
      (s.arrayLive .groupTable = true → ∃ t, exec (found .groupTable) s = .next t ∧ index / 4096 ∈ t.tables.badGroups ∧
        t.steps = s.steps ∧ t.obj Obj.RZ_SECDED_UNCORR = (s.obj Obj.RZ_SECDED_UNCORR + 1) % 2 ^ 32)))

/-- The test multiplexer, JTAG and the tray line's other pulses (R366, R369, R372, R373): IDCODE, BYPASS and MUX_CAPTURE
select their data registers and change nothing else; MUX_CAPTURE takes the list in force, or what a lost clock holds; a
frame shows the list's groups, group 0 the alternating pattern and group 0xFFF zero; a pulse of another width is counted,
and one the master did not drive in phase 9 is a fault, whose reason 10 is the model's choice (log entry 8). -/
def Obligations.TestAndTrayLine : Prop :=
  ∀ s : State,
    (s.mode ≠ .off →
      (∃ t, exec .idcode s = .next t ∧ t.pins = { s.pins with jtagIr := 0x01, jtagDr := BitVec.ofNat 256 idcodeValue } ∧
        t.egress = s.egress ++ [.jtag 32 (BitVec.ofNat 256 idcodeValue)] ∧ { t with pins := s.pins, egress := s.egress } = s) ∧
      (∀ code : Byte, code ≠ 0x01 → code ≠ 0x20 →
        ∃ t, exec (.bypass code) s = .next t ∧ t.pins = { s.pins with jtagIr := code, jtagDr := 0 } ∧
          t.egress = s.egress ++ [.jtag 1 0] ∧ { t with pins := s.pins, egress := s.egress } = s) ∧
      (∀ words, (s.obj Obj.RZ_CLK_LOST).testBit 21 = true → s.pins.dbgObs = [words] →
        ∃ t, exec .muxCapture s = .next t ∧ t.pins = { s.pins with jtagIr := 0x20, jtagDr := words.setWidth 256 }) ∧
      (∀ g, (s.obj Obj.RZ_CLK_LOST).testBit 21 = false → (g = 0 ∨ g = 0xFFF) →
        let w : BitVec 16 := if g = 0xFFF then 0 else if s.pins.dbgZero % 2 = 0 then 0xA5C3 else 0x5A3C
        (s.pins.dbgList = [g] →
          ∃ t, exec .muxCapture s = .next t ∧ t.pins = { s.pins with jtagIr := 0x20, jtagDr := w.setWidth 256 } ∧
          t.egress = s.egress ++ [.jtag 256 (w.setWidth 256)] ∧ { t with pins := s.pins, egress := s.egress } = s) ∧
        (s.dbgSel = [g] → s.clocked = true →
          ∃ t, exec .dbgFrame s = .next t ∧ t.pins.dbgList = [g] ∧ t.pins.dbgObs = [w] ∧
            t.pins.dbgZero = s.pins.dbgZero + (if g = 0 then 1 else 0) ∧ t.pins.dbgFrames = s.pins.dbgFrames + 1 ∧
            t.egress = s.egress ++ (if s.dbgDriven = true then [.dbg [w]] else []) ∧
            { t with pins := s.pins, egress := s.egress } = s))) ∧
    (∀ (high : Nat) (own : Bool), s.readsSync = true → (high < 4 ∨ (16 < high ∧ high < 48) ∨ 80 < high) →
      (s.foreignEdge own = false →
        ∃ t, exec (.syncGlitch high own) s = .next t ∧ t.obj Obj.RZ_SYNC_GLITCH = (s.obj Obj.RZ_SYNC_GLITCH + 1) % 2 ^ 32 ∧
          ObjsBut [Obj.RZ_SYNC_GLITCH] s t ∧
          { t with objs := s.objs } = { s with pins := { s.pins with syncUntil := s.core + ceilDiv (high * 96) 25 } }) ∧
      (s.foreignEdge own = true →
        ∃ t, exec (.syncGlitch high own) s = .next t ∧ t.mode = .faulted ∧ t.obj Obj.RZ_STATE_REASON = 10))
end

