-- ==== Sys2Proof/Laws/Tab.lean ====
section
/-!
SUPPORT. The sparse tables and memories: every operation keeps the canonical form, and what a read answers after a write.
-/

namespace Sys2Proof.Machine

namespace Tabs

variable {α : Type} [DecidableEq α] {d : Nat → α} {t : Tab α}

theorem wf_iff : wf d t = true ↔ t.Pairwise (fun p q => p.1 < q.1) ∧ ∀ p ∈ t, p.2 ≠ d p.1 := by
  simp [wf]

theorem wf_nil : wf d ([] : Tab α) = true := by simp [wf_iff]

/-- The keys of a run lie in its range. -/
theorem run_range (vs : List α) (a : Nat) : ∀ p ∈ run d a vs, a ≤ p.1 ∧ p.1 < a + vs.length := by
  induction vs generalizing a with
  | nil => simp [run]
  | cons v vs ih =>
    intro p hp
    have h := ih (a + 1)
    simp only [run] at hp
    split at hp
    · have := h p hp
      simp only [List.length_cons]; omega
    · rcases List.mem_cons.mp hp with rfl | hp
      · simp
      · have := h p hp
        simp only [List.length_cons]; omega

theorem run_wf (vs : List α) (a : Nat) : wf d (run d a vs) = true := by
  induction vs generalizing a with
  | nil => simp [run, wf_iff]
  | cons v vs ih =>
    simp only [run]
    split
    · exact ih (a + 1)
    · next hv =>
      have h := wf_iff.mp (ih (a + 1))
      refine wf_iff.mpr ⟨List.pairwise_cons.mpr ⟨fun p hp => ?_, h.1⟩, fun p hp => ?_⟩
      · exact (run_range vs (a + 1) p hp).1
      · rcases List.mem_cons.mp hp with rfl | hp
        · exact hv
        · exact h.2 p hp

/-- Leaving entries out keeps the form. -/
theorem filter_wf (h : wf d t = true) (f : Nat × α → Bool) : wf d (t.filter f) = true := by
  have h := wf_iff.mp h
  exact wf_iff.mpr ⟨h.1.filter f, fun p hp => h.2 p (List.mem_of_mem_filter hp)⟩

theorem clearRun_wf (h : wf d t = true) (a n : Nat) : wf d (clearRun t a n) = true := filter_wf h _

/-- A write keeps the form. -/
theorem setRun_wf (h : wf d t = true) (a : Nat) (vs : List α) : wf d (setRun d t a vs) = true := by
  have h1 := wf_iff.mp (filter_wf h (fun p => decide (p.1 < a)))
  have h2 := wf_iff.mp (run_wf (d := d) vs a)
  have h3 := wf_iff.mp (filter_wf h (fun p => decide (a + vs.length ≤ p.1)))
  have r := run_range (d := d) vs a
  refine wf_iff.mpr ⟨?_, fun p hp => ?_⟩
  · unfold setRun
    refine List.pairwise_append.mpr ⟨List.pairwise_append.mpr ⟨h1.1, h2.1, fun p hp q hq => ?_⟩, h3.1, fun p hp q hq => ?_⟩
    · have := (List.mem_filter.mp hp).2
      have := (r q hq).1
      simp_all; omega
    · have hq := (List.mem_filter.mp hq).2
      rcases List.mem_append.mp hp with hp | hp
      · have := (List.mem_filter.mp hp).2
        simp_all; omega
      · have := (r p hp).2
        simp_all; omega
  · unfold setRun at hp
    rcases List.mem_append.mp hp with hp | hp
    · rcases List.mem_append.mp hp with hp | hp
      · exact h1.2 p hp
      · exact h2.2 p hp
    · exact h3.2 p hp

theorem set_wf (h : wf d t = true) (k : Nat) (v : α) : wf d (set d t k v) = true := setRun_wf h k [v]

/-! ### Reads after writes -/

omit [DecidableEq α] in
/-- A lookup in a list without the key. -/
theorem lookup_none (k : Nat) : ∀ (t : Tab α), (∀ p ∈ t, p.1 ≠ k) → t.lookup k = none
  | [], _ => rfl
  | (j, v) :: t, h => by
    have hj : (k == j) = false := by simpa using fun e => h (j, v) List.mem_cons_self e.symm
    simp [List.lookup, hj, lookup_none k t (fun p hp => h p (List.mem_cons_of_mem _ hp))]

omit [DecidableEq α] in
theorem lookup_append (k : Nat) (t u : Tab α) : (t ++ u).lookup k = (t.lookup k).or (u.lookup k) := by
  induction t with
  | nil => simp
  | cons p t ih =>
    obtain ⟨j, v⟩ := p
    simp only [List.cons_append, List.lookup]
    cases h : k == j <;> simp [ih]

omit [DecidableEq α] in
/-- A filter that keeps a key's entries leaves its lookup. -/
theorem lookup_filter (k : Nat) (f : Nat × α → Bool) :
    ∀ (t : Tab α), (∀ v, f (k, v) = true) → (t.filter f).lookup k = t.lookup k
  | [], _ => rfl
  | (j, v) :: t, h => by
    cases hk : k == j with
    | true =>
      obtain rfl : k = j := by simpa using hk
      simp [h v, List.lookup]
    | false =>
      cases hf : f (j, v) <;> simp [hf, List.lookup, hk, lookup_filter k f t h]

/-- What a run's entries answer: the value written, where it differs from the default. -/
theorem get_run (vs : List α) (a k : Nat) (h : a ≤ k) (h' : k < a + vs.length) :
    get d (run d a vs) k = vs.getD (k - a) (d k) := by
  induction vs generalizing a with
  | nil => simp at h'; omega
  | cons v vs ih =>
    by_cases hk : k = a
    · subst hk
      simp only [run, Nat.sub_self, List.getD_cons_zero]
      split
      · next hv =>
        have : (run d (k + 1) vs).lookup k = none :=
          lookup_none k _ (fun p hp => by have := (run_range vs (k + 1) p hp).1; omega)
        simp [get, this, hv]
      · simp [get, List.lookup]
    · have e : k - a = (k - (a + 1)) + 1 := by omega
      have i := ih (a + 1) (by omega) (by simp only [List.length_cons] at h'; omega)
      rw [e, List.getD_cons_succ, ← i]
      simp only [run]
      split
      · rfl
      · have : (k == a) = false := by simpa using hk
        simp [get, List.lookup, this]

/-- A read of an index that a write covers gives the value written. -/
theorem get_setRun_in (t : Tab α) (a k : Nat) (vs : List α) (h : a ≤ k) (h' : k < a + vs.length) :
    get d (setRun d t a vs) k = vs.getD (k - a) (d k) := by
  rw [← get_run vs a k h h']
  have e1 : (t.filter (fun p => decide (p.1 < a))).lookup k = none :=
    lookup_none k _ (fun p hp => by have := (List.mem_filter.mp hp).2; simp at this; omega)
  have e3 : (t.filter (fun p => decide (a + vs.length ≤ p.1))).lookup k = none :=
    lookup_none k _ (fun p hp => by have := (List.mem_filter.mp hp).2; simp at this; omega)
  simp [get, setRun, lookup_append, e1, e3]

/-- A write leaves every other index alone. -/
theorem get_setRun_out (t : Tab α) (a k : Nat) (vs : List α) (h : k < a ∨ a + vs.length ≤ k) :
    get d (setRun d t a vs) k = get d t k := by
  have e2 : (run d a vs).lookup k = none :=
    lookup_none k _ (fun p hp => by have := run_range vs a p hp; omega)
  rcases h with h | h
  · have e1 := lookup_filter k (fun p : Nat × α => decide (p.1 < a)) t (fun v => by simpa using h)
    have e3 : (t.filter (fun p => decide (a + vs.length ≤ p.1))).lookup k = none :=
      lookup_none k _ (fun p hp => by have := (List.mem_filter.mp hp).2; simp at this; omega)
    simp [get, setRun, lookup_append, e1, e2, e3]
  · have e1 : (t.filter (fun p => decide (p.1 < a))).lookup k = none :=
      lookup_none k _ (fun p hp => by have := (List.mem_filter.mp hp).2; simp at this; omega)
    have e3 := lookup_filter k (fun p : Nat × α => decide (a + vs.length ≤ p.1)) t (fun v => by simpa using h)
    simp [get, setRun, lookup_append, e1, e2, e3]

theorem get_set_self (t : Tab α) (k : Nat) (v : α) : get d (set d t k v) k = v := by
  have := get_setRun_in (d := d) t k k [v] (Nat.le_refl k) (by simp)
  simpa [set] using this

theorem get_set_other (t : Tab α) (j k : Nat) (v : α) (h : k ≠ j) : get d (set d t j v) k = get d t k :=
  get_setRun_out t j k [v] (by simp only [List.length_singleton]; omega)

omit [DecidableEq α] in
/-- A cleared run leaves every index outside it alone. -/
theorem get_clearRun_out (t : Tab α) (a n k : Nat) (h : k < a ∨ a + n ≤ k) :
    get d (clearRun t a n) k = get d t k := by
  have := lookup_filter k (fun p : Nat × α => decide (p.1 < a) || decide (a + n ≤ p.1)) t (fun v => by simpa using h)
  simp [get, clearRun, this]

end Tabs

namespace Memory

theorem write_wf {m : Memory} (h : m.wf = true) (a : Nat) (bs : List Byte) : (Memory.write m a bs).wf = true :=
  Tabs.setRun_wf h a bs

theorem nil_wf : Memory.wf [] = true := Tabs.wf_nil

theorem readByte_write_out (m : Memory) (a k : Nat) (bs : List Byte) (h : k < a ∨ a + bs.length ≤ k) :
    Memory.readByte (Memory.write m a bs) k = Memory.readByte m k :=
  Tabs.get_setRun_out m a k bs h

theorem readByte_write_in (m : Memory) (a k : Nat) (bs : List Byte) (h : a ≤ k) (h' : k < a + bs.length) :
    Memory.readByte (Memory.write m a bs) k = bs.getD (k - a) 0 :=
  Tabs.get_setRun_in m a k bs h h'

end Memory

end Sys2Proof.Machine
end

