-- ==== Sys2Proof/Laws/State.lean ====
section
/-!
SUPPORT. State field by field under the named operations of Machine/Ops.lean: one lemma for each field and update; what a
read of an object gives after them; what the end of a scalar access leaves alone.
-/

namespace Sys2Proof.Machine

variable (s : State)

/-! ### One field under one update -/

@[simp] theorem State.setObj_pending (k v : Nat) : (s.setObj k v).pending = s.pending := rfl
@[simp] theorem State.setObj_core (k v : Nat) : (s.setObj k v).core = s.core := rfl
@[simp] theorem State.setObj_mode (k v : Nat) : (s.setObj k v).mode = s.mode := rfl
@[simp] theorem State.setObj_ident (k v : Nat) : (s.setObj k v).ident = s.ident := rfl
@[simp] theorem State.setObj_objs (k v : Nat) : (s.setObj k v).objs = Tabs.set odDefault s.objs k v := rfl
@[simp] theorem State.setObj_kindle (k v : Nat) : (s.setObj k v).kindle = s.kindle := rfl
@[simp] theorem State.setObj_dict (k v : Nat) : (s.setObj k v).dict = s.dict := rfl
@[simp] theorem State.setObj_pins (k v : Nat) : (s.setObj k v).pins = s.pins := rfl
@[simp] theorem State.setObj_ftime (k v : Nat) : (s.setObj k v).ftime = s.ftime := rfl
@[simp] theorem State.setObj_therm (k v : Nat) : (s.setObj k v).therm = s.therm := rfl
@[simp] theorem State.setObj_xspi (k v : Nat) : (s.setObj k v).xspi = s.xspi := rfl
@[simp] theorem State.setObj_soot (k v : Nat) : (s.setObj k v).soot = s.soot := rfl
@[simp] theorem State.setObj_log (k v : Nat) : (s.setObj k v).log = s.log := rfl
@[simp] theorem State.setObj_digests (k v : Nat) : (s.setObj k v).digests = s.digests := rfl
@[simp] theorem State.setObj_seq (k v : Nat) : (s.setObj k v).seq = s.seq := rfl
@[simp] theorem State.setObj_steps (k v : Nat) : (s.setObj k v).steps = s.steps := rfl
@[simp] theorem State.setObj_accepted (k v : Nat) : (s.setObj k v).accepted = s.accepted := rfl
@[simp] theorem State.setObj_tables (k v : Nat) : (s.setObj k v).tables = s.tables := rfl
@[simp] theorem State.setObj_stores (k v : Nat) : (s.setObj k v).stores = s.stores := rfl
@[simp] theorem State.setObj_job (k v : Nat) : (s.setObj k v).job = s.job := rfl
@[simp] theorem State.setObj_colls (k v : Nat) : (s.setObj k v).colls = s.colls := rfl
@[simp] theorem State.setObj_bellows (k v : Nat) : (s.setObj k v).bellows = s.bellows := rfl
@[simp] theorem State.setObj_pool (k v : Nat) : (s.setObj k v).pool = s.pool := rfl
@[simp] theorem State.setObj_dies (k v : Nat) : (s.setObj k v).dies = s.dies := rfl
@[simp] theorem State.setObj_flue (k v : Nat) : (s.setObj k v).flue = s.flue := rfl
@[simp] theorem State.setObj_fabric (k v : Nat) : (s.setObj k v).fabric = s.fabric := rfl
@[simp] theorem State.setObj_mem (k v : Nat) : (s.setObj k v).mem = s.mem := rfl
@[simp] theorem State.setObj_lp (k v : Nat) : (s.setObj k v).lp = s.lp := rfl
@[simp] theorem State.setObj_free (k v : Nat) : (s.setObj k v).free = s.free := rfl
@[simp] theorem State.setObj_egress (k v : Nat) : (s.setObj k v).egress = s.egress := rfl

@[simp] theorem State.emit_pending (m : Msg) : (s.emit m).pending = s.pending := rfl
@[simp] theorem State.emit_core (m : Msg) : (s.emit m).core = s.core := rfl
@[simp] theorem State.emit_mode (m : Msg) : (s.emit m).mode = s.mode := rfl
@[simp] theorem State.emit_ident (m : Msg) : (s.emit m).ident = s.ident := rfl
@[simp] theorem State.emit_objs (m : Msg) : (s.emit m).objs = s.objs := rfl
@[simp] theorem State.emit_kindle (m : Msg) : (s.emit m).kindle = s.kindle := rfl
@[simp] theorem State.emit_dict (m : Msg) : (s.emit m).dict = s.dict := rfl
@[simp] theorem State.emit_pins (m : Msg) : (s.emit m).pins = s.pins := rfl
@[simp] theorem State.emit_ftime (m : Msg) : (s.emit m).ftime = s.ftime := rfl
@[simp] theorem State.emit_therm (m : Msg) : (s.emit m).therm = s.therm := rfl
@[simp] theorem State.emit_xspi (m : Msg) : (s.emit m).xspi = s.xspi := rfl
@[simp] theorem State.emit_soot (m : Msg) : (s.emit m).soot = s.soot := rfl
@[simp] theorem State.emit_log (m : Msg) : (s.emit m).log = s.log := rfl
@[simp] theorem State.emit_digests (m : Msg) : (s.emit m).digests = s.digests := rfl
@[simp] theorem State.emit_seq (m : Msg) : (s.emit m).seq = s.seq := rfl
@[simp] theorem State.emit_steps (m : Msg) : (s.emit m).steps = s.steps := rfl
@[simp] theorem State.emit_accepted (m : Msg) : (s.emit m).accepted = s.accepted := rfl
@[simp] theorem State.emit_tables (m : Msg) : (s.emit m).tables = s.tables := rfl
@[simp] theorem State.emit_stores (m : Msg) : (s.emit m).stores = s.stores := rfl
@[simp] theorem State.emit_job (m : Msg) : (s.emit m).job = s.job := rfl
@[simp] theorem State.emit_colls (m : Msg) : (s.emit m).colls = s.colls := rfl
@[simp] theorem State.emit_bellows (m : Msg) : (s.emit m).bellows = s.bellows := rfl
@[simp] theorem State.emit_pool (m : Msg) : (s.emit m).pool = s.pool := rfl
@[simp] theorem State.emit_dies (m : Msg) : (s.emit m).dies = s.dies := rfl
@[simp] theorem State.emit_flue (m : Msg) : (s.emit m).flue = s.flue := rfl
@[simp] theorem State.emit_fabric (m : Msg) : (s.emit m).fabric = s.fabric := rfl
@[simp] theorem State.emit_mem (m : Msg) : (s.emit m).mem = s.mem := rfl
@[simp] theorem State.emit_lp (m : Msg) : (s.emit m).lp = s.lp := rfl
@[simp] theorem State.emit_free (m : Msg) : (s.emit m).free = s.free := rfl
@[simp] theorem State.emit_egress (m : Msg) : (s.emit m).egress = s.egress ++ [m] := rfl

@[simp] theorem State.emits_pending (ms : List Msg) : (s.emits ms).pending = s.pending := rfl
@[simp] theorem State.emits_core (ms : List Msg) : (s.emits ms).core = s.core := rfl
@[simp] theorem State.emits_mode (ms : List Msg) : (s.emits ms).mode = s.mode := rfl
@[simp] theorem State.emits_ident (ms : List Msg) : (s.emits ms).ident = s.ident := rfl
@[simp] theorem State.emits_objs (ms : List Msg) : (s.emits ms).objs = s.objs := rfl
@[simp] theorem State.emits_kindle (ms : List Msg) : (s.emits ms).kindle = s.kindle := rfl
@[simp] theorem State.emits_dict (ms : List Msg) : (s.emits ms).dict = s.dict := rfl
@[simp] theorem State.emits_pins (ms : List Msg) : (s.emits ms).pins = s.pins := rfl
@[simp] theorem State.emits_ftime (ms : List Msg) : (s.emits ms).ftime = s.ftime := rfl
@[simp] theorem State.emits_therm (ms : List Msg) : (s.emits ms).therm = s.therm := rfl
@[simp] theorem State.emits_xspi (ms : List Msg) : (s.emits ms).xspi = s.xspi := rfl
@[simp] theorem State.emits_soot (ms : List Msg) : (s.emits ms).soot = s.soot := rfl
@[simp] theorem State.emits_log (ms : List Msg) : (s.emits ms).log = s.log := rfl
@[simp] theorem State.emits_digests (ms : List Msg) : (s.emits ms).digests = s.digests := rfl
@[simp] theorem State.emits_seq (ms : List Msg) : (s.emits ms).seq = s.seq := rfl
@[simp] theorem State.emits_steps (ms : List Msg) : (s.emits ms).steps = s.steps := rfl
@[simp] theorem State.emits_accepted (ms : List Msg) : (s.emits ms).accepted = s.accepted := rfl
@[simp] theorem State.emits_tables (ms : List Msg) : (s.emits ms).tables = s.tables := rfl
@[simp] theorem State.emits_stores (ms : List Msg) : (s.emits ms).stores = s.stores := rfl
@[simp] theorem State.emits_job (ms : List Msg) : (s.emits ms).job = s.job := rfl
@[simp] theorem State.emits_colls (ms : List Msg) : (s.emits ms).colls = s.colls := rfl
@[simp] theorem State.emits_bellows (ms : List Msg) : (s.emits ms).bellows = s.bellows := rfl
@[simp] theorem State.emits_pool (ms : List Msg) : (s.emits ms).pool = s.pool := rfl
@[simp] theorem State.emits_dies (ms : List Msg) : (s.emits ms).dies = s.dies := rfl
@[simp] theorem State.emits_flue (ms : List Msg) : (s.emits ms).flue = s.flue := rfl
@[simp] theorem State.emits_fabric (ms : List Msg) : (s.emits ms).fabric = s.fabric := rfl
@[simp] theorem State.emits_mem (ms : List Msg) : (s.emits ms).mem = s.mem := rfl
@[simp] theorem State.emits_lp (ms : List Msg) : (s.emits ms).lp = s.lp := rfl
@[simp] theorem State.emits_free (ms : List Msg) : (s.emits ms).free = s.free := rfl
@[simp] theorem State.emits_egress (ms : List Msg) : (s.emits ms).egress = s.egress ++ ms := rfl

@[simp] theorem State.writeMem_pending (a : Nat) (bs : List Byte) : (s.writeMem a bs).pending = s.pending := rfl
@[simp] theorem State.writeMem_core (a : Nat) (bs : List Byte) : (s.writeMem a bs).core = s.core := rfl
@[simp] theorem State.writeMem_mode (a : Nat) (bs : List Byte) : (s.writeMem a bs).mode = s.mode := rfl
@[simp] theorem State.writeMem_ident (a : Nat) (bs : List Byte) : (s.writeMem a bs).ident = s.ident := rfl
@[simp] theorem State.writeMem_objs (a : Nat) (bs : List Byte) : (s.writeMem a bs).objs = s.objs := rfl
@[simp] theorem State.writeMem_kindle (a : Nat) (bs : List Byte) : (s.writeMem a bs).kindle = s.kindle := rfl
@[simp] theorem State.writeMem_dict (a : Nat) (bs : List Byte) : (s.writeMem a bs).dict = s.dict := rfl
@[simp] theorem State.writeMem_pins (a : Nat) (bs : List Byte) : (s.writeMem a bs).pins = s.pins := rfl
@[simp] theorem State.writeMem_ftime (a : Nat) (bs : List Byte) : (s.writeMem a bs).ftime = s.ftime := rfl
@[simp] theorem State.writeMem_therm (a : Nat) (bs : List Byte) : (s.writeMem a bs).therm = s.therm := rfl
@[simp] theorem State.writeMem_xspi (a : Nat) (bs : List Byte) : (s.writeMem a bs).xspi = s.xspi := rfl
@[simp] theorem State.writeMem_soot (a : Nat) (bs : List Byte) : (s.writeMem a bs).soot = s.soot := rfl
@[simp] theorem State.writeMem_log (a : Nat) (bs : List Byte) : (s.writeMem a bs).log = s.log := rfl
@[simp] theorem State.writeMem_digests (a : Nat) (bs : List Byte) : (s.writeMem a bs).digests = s.digests := rfl
@[simp] theorem State.writeMem_seq (a : Nat) (bs : List Byte) : (s.writeMem a bs).seq = s.seq := rfl
@[simp] theorem State.writeMem_steps (a : Nat) (bs : List Byte) : (s.writeMem a bs).steps = s.steps := rfl
@[simp] theorem State.writeMem_accepted (a : Nat) (bs : List Byte) : (s.writeMem a bs).accepted = s.accepted := rfl
@[simp] theorem State.writeMem_tables (a : Nat) (bs : List Byte) : (s.writeMem a bs).tables = s.tables := rfl
@[simp] theorem State.writeMem_stores (a : Nat) (bs : List Byte) : (s.writeMem a bs).stores = s.stores := rfl
@[simp] theorem State.writeMem_job (a : Nat) (bs : List Byte) : (s.writeMem a bs).job = s.job := rfl
@[simp] theorem State.writeMem_colls (a : Nat) (bs : List Byte) : (s.writeMem a bs).colls = s.colls := rfl
@[simp] theorem State.writeMem_bellows (a : Nat) (bs : List Byte) : (s.writeMem a bs).bellows = s.bellows := rfl
@[simp] theorem State.writeMem_pool (a : Nat) (bs : List Byte) : (s.writeMem a bs).pool = s.pool := rfl
@[simp] theorem State.writeMem_dies (a : Nat) (bs : List Byte) : (s.writeMem a bs).dies = s.dies := rfl
@[simp] theorem State.writeMem_flue (a : Nat) (bs : List Byte) : (s.writeMem a bs).flue = s.flue := rfl
@[simp] theorem State.writeMem_fabric (a : Nat) (bs : List Byte) : (s.writeMem a bs).fabric = s.fabric := rfl
@[simp] theorem State.writeMem_mem (a : Nat) (bs : List Byte) : (s.writeMem a bs).mem = s.mem.write a bs := rfl
@[simp] theorem State.writeMem_lp (a : Nat) (bs : List Byte) : (s.writeMem a bs).lp = s.lp := rfl
@[simp] theorem State.writeMem_free (a : Nat) (bs : List Byte) : (s.writeMem a bs).free = s.free := rfl
@[simp] theorem State.writeMem_egress (a : Nat) (bs : List Byte) : (s.writeMem a bs).egress = s.egress := rfl

@[simp] theorem State.writeMemNat_pending (a n v : Nat) : (s.writeMemNat a n v).pending = s.pending := rfl
@[simp] theorem State.writeMemNat_core (a n v : Nat) : (s.writeMemNat a n v).core = s.core := rfl
@[simp] theorem State.writeMemNat_mode (a n v : Nat) : (s.writeMemNat a n v).mode = s.mode := rfl
@[simp] theorem State.writeMemNat_ident (a n v : Nat) : (s.writeMemNat a n v).ident = s.ident := rfl
@[simp] theorem State.writeMemNat_objs (a n v : Nat) : (s.writeMemNat a n v).objs = s.objs := rfl
@[simp] theorem State.writeMemNat_kindle (a n v : Nat) : (s.writeMemNat a n v).kindle = s.kindle := rfl
@[simp] theorem State.writeMemNat_dict (a n v : Nat) : (s.writeMemNat a n v).dict = s.dict := rfl
@[simp] theorem State.writeMemNat_pins (a n v : Nat) : (s.writeMemNat a n v).pins = s.pins := rfl
@[simp] theorem State.writeMemNat_ftime (a n v : Nat) : (s.writeMemNat a n v).ftime = s.ftime := rfl
@[simp] theorem State.writeMemNat_therm (a n v : Nat) : (s.writeMemNat a n v).therm = s.therm := rfl
@[simp] theorem State.writeMemNat_xspi (a n v : Nat) : (s.writeMemNat a n v).xspi = s.xspi := rfl
@[simp] theorem State.writeMemNat_soot (a n v : Nat) : (s.writeMemNat a n v).soot = s.soot := rfl
@[simp] theorem State.writeMemNat_log (a n v : Nat) : (s.writeMemNat a n v).log = s.log := rfl
@[simp] theorem State.writeMemNat_digests (a n v : Nat) : (s.writeMemNat a n v).digests = s.digests := rfl
@[simp] theorem State.writeMemNat_seq (a n v : Nat) : (s.writeMemNat a n v).seq = s.seq := rfl
@[simp] theorem State.writeMemNat_steps (a n v : Nat) : (s.writeMemNat a n v).steps = s.steps := rfl
@[simp] theorem State.writeMemNat_accepted (a n v : Nat) : (s.writeMemNat a n v).accepted = s.accepted := rfl
@[simp] theorem State.writeMemNat_tables (a n v : Nat) : (s.writeMemNat a n v).tables = s.tables := rfl
@[simp] theorem State.writeMemNat_stores (a n v : Nat) : (s.writeMemNat a n v).stores = s.stores := rfl
@[simp] theorem State.writeMemNat_job (a n v : Nat) : (s.writeMemNat a n v).job = s.job := rfl
@[simp] theorem State.writeMemNat_colls (a n v : Nat) : (s.writeMemNat a n v).colls = s.colls := rfl
@[simp] theorem State.writeMemNat_bellows (a n v : Nat) : (s.writeMemNat a n v).bellows = s.bellows := rfl
@[simp] theorem State.writeMemNat_pool (a n v : Nat) : (s.writeMemNat a n v).pool = s.pool := rfl
@[simp] theorem State.writeMemNat_dies (a n v : Nat) : (s.writeMemNat a n v).dies = s.dies := rfl
@[simp] theorem State.writeMemNat_flue (a n v : Nat) : (s.writeMemNat a n v).flue = s.flue := rfl
@[simp] theorem State.writeMemNat_fabric (a n v : Nat) : (s.writeMemNat a n v).fabric = s.fabric := rfl
@[simp] theorem State.writeMemNat_mem (a n v : Nat) : (s.writeMemNat a n v).mem = s.mem.writeNat a n v := rfl
@[simp] theorem State.writeMemNat_lp (a n v : Nat) : (s.writeMemNat a n v).lp = s.lp := rfl
@[simp] theorem State.writeMemNat_free (a n v : Nat) : (s.writeMemNat a n v).free = s.free := rfl
@[simp] theorem State.writeMemNat_egress (a n v : Nat) : (s.writeMemNat a n v).egress = s.egress := rfl

@[simp] theorem State.writeLp_pending (a : Nat) (bs : List Byte) : (s.writeLp a bs).pending = s.pending := rfl
@[simp] theorem State.writeLp_core (a : Nat) (bs : List Byte) : (s.writeLp a bs).core = s.core := rfl
@[simp] theorem State.writeLp_mode (a : Nat) (bs : List Byte) : (s.writeLp a bs).mode = s.mode := rfl
@[simp] theorem State.writeLp_ident (a : Nat) (bs : List Byte) : (s.writeLp a bs).ident = s.ident := rfl
@[simp] theorem State.writeLp_objs (a : Nat) (bs : List Byte) : (s.writeLp a bs).objs = s.objs := rfl
@[simp] theorem State.writeLp_kindle (a : Nat) (bs : List Byte) : (s.writeLp a bs).kindle = s.kindle := rfl
@[simp] theorem State.writeLp_dict (a : Nat) (bs : List Byte) : (s.writeLp a bs).dict = s.dict := rfl
@[simp] theorem State.writeLp_pins (a : Nat) (bs : List Byte) : (s.writeLp a bs).pins = s.pins := rfl
@[simp] theorem State.writeLp_ftime (a : Nat) (bs : List Byte) : (s.writeLp a bs).ftime = s.ftime := rfl
@[simp] theorem State.writeLp_therm (a : Nat) (bs : List Byte) : (s.writeLp a bs).therm = s.therm := rfl
@[simp] theorem State.writeLp_xspi (a : Nat) (bs : List Byte) : (s.writeLp a bs).xspi = s.xspi := rfl
@[simp] theorem State.writeLp_soot (a : Nat) (bs : List Byte) : (s.writeLp a bs).soot = s.soot := rfl
@[simp] theorem State.writeLp_log (a : Nat) (bs : List Byte) : (s.writeLp a bs).log = s.log := rfl
@[simp] theorem State.writeLp_digests (a : Nat) (bs : List Byte) : (s.writeLp a bs).digests = s.digests := rfl
@[simp] theorem State.writeLp_seq (a : Nat) (bs : List Byte) : (s.writeLp a bs).seq = s.seq := rfl
@[simp] theorem State.writeLp_steps (a : Nat) (bs : List Byte) : (s.writeLp a bs).steps = s.steps := rfl
@[simp] theorem State.writeLp_accepted (a : Nat) (bs : List Byte) : (s.writeLp a bs).accepted = s.accepted := rfl
@[simp] theorem State.writeLp_tables (a : Nat) (bs : List Byte) : (s.writeLp a bs).tables = s.tables := rfl
@[simp] theorem State.writeLp_stores (a : Nat) (bs : List Byte) : (s.writeLp a bs).stores = s.stores := rfl
@[simp] theorem State.writeLp_job (a : Nat) (bs : List Byte) : (s.writeLp a bs).job = s.job := rfl
@[simp] theorem State.writeLp_colls (a : Nat) (bs : List Byte) : (s.writeLp a bs).colls = s.colls := rfl
@[simp] theorem State.writeLp_bellows (a : Nat) (bs : List Byte) : (s.writeLp a bs).bellows = s.bellows := rfl
@[simp] theorem State.writeLp_pool (a : Nat) (bs : List Byte) : (s.writeLp a bs).pool = s.pool := rfl
@[simp] theorem State.writeLp_dies (a : Nat) (bs : List Byte) : (s.writeLp a bs).dies = s.dies := rfl
@[simp] theorem State.writeLp_flue (a : Nat) (bs : List Byte) : (s.writeLp a bs).flue = s.flue := rfl
@[simp] theorem State.writeLp_fabric (a : Nat) (bs : List Byte) : (s.writeLp a bs).fabric = s.fabric := rfl
@[simp] theorem State.writeLp_mem (a : Nat) (bs : List Byte) : (s.writeLp a bs).mem = s.mem := rfl
@[simp] theorem State.writeLp_lp (a : Nat) (bs : List Byte) : (s.writeLp a bs).lp = s.lp.write a bs := rfl
@[simp] theorem State.writeLp_free (a : Nat) (bs : List Byte) : (s.writeLp a bs).free = s.free := rfl
@[simp] theorem State.writeLp_egress (a : Nat) (bs : List Byte) : (s.writeLp a bs).egress = s.egress := rfl

@[simp] theorem State.setStep_pending (b : Bool) (t : Step) : (s.setStep b t).pending = s.pending := rfl
@[simp] theorem State.setStep_core (b : Bool) (t : Step) : (s.setStep b t).core = s.core := rfl
@[simp] theorem State.setStep_mode (b : Bool) (t : Step) : (s.setStep b t).mode = s.mode := rfl
@[simp] theorem State.setStep_ident (b : Bool) (t : Step) : (s.setStep b t).ident = s.ident := rfl
@[simp] theorem State.setStep_objs (b : Bool) (t : Step) : (s.setStep b t).objs = s.objs := rfl
@[simp] theorem State.setStep_kindle (b : Bool) (t : Step) : (s.setStep b t).kindle = s.kindle := rfl
@[simp] theorem State.setStep_dict (b : Bool) (t : Step) : (s.setStep b t).dict = s.dict := rfl
@[simp] theorem State.setStep_pins (b : Bool) (t : Step) : (s.setStep b t).pins = s.pins := rfl
@[simp] theorem State.setStep_ftime (b : Bool) (t : Step) : (s.setStep b t).ftime = s.ftime := rfl
@[simp] theorem State.setStep_therm (b : Bool) (t : Step) : (s.setStep b t).therm = s.therm := rfl
@[simp] theorem State.setStep_xspi (b : Bool) (t : Step) : (s.setStep b t).xspi = s.xspi := rfl
@[simp] theorem State.setStep_soot (b : Bool) (t : Step) : (s.setStep b t).soot = s.soot := rfl
@[simp] theorem State.setStep_log (b : Bool) (t : Step) : (s.setStep b t).log = s.log := rfl
@[simp] theorem State.setStep_digests (b : Bool) (t : Step) : (s.setStep b t).digests = s.digests := rfl
@[simp] theorem State.setStep_seq (b : Bool) (t : Step) : (s.setStep b t).seq = s.seq := rfl
@[simp] theorem State.setStep_steps (b : Bool) (t : Step) : (s.setStep b t).steps = s.steps.set b (some t) := rfl
@[simp] theorem State.setStep_accepted (b : Bool) (t : Step) : (s.setStep b t).accepted = s.accepted := rfl
@[simp] theorem State.setStep_tables (b : Bool) (t : Step) : (s.setStep b t).tables = s.tables := rfl
@[simp] theorem State.setStep_stores (b : Bool) (t : Step) : (s.setStep b t).stores = s.stores := rfl
@[simp] theorem State.setStep_job (b : Bool) (t : Step) : (s.setStep b t).job = s.job := rfl
@[simp] theorem State.setStep_colls (b : Bool) (t : Step) : (s.setStep b t).colls = s.colls := rfl
@[simp] theorem State.setStep_bellows (b : Bool) (t : Step) : (s.setStep b t).bellows = s.bellows := rfl
@[simp] theorem State.setStep_pool (b : Bool) (t : Step) : (s.setStep b t).pool = s.pool := rfl
@[simp] theorem State.setStep_dies (b : Bool) (t : Step) : (s.setStep b t).dies = s.dies := rfl
@[simp] theorem State.setStep_flue (b : Bool) (t : Step) : (s.setStep b t).flue = s.flue := rfl
@[simp] theorem State.setStep_fabric (b : Bool) (t : Step) : (s.setStep b t).fabric = s.fabric := rfl
@[simp] theorem State.setStep_mem (b : Bool) (t : Step) : (s.setStep b t).mem = s.mem := rfl
@[simp] theorem State.setStep_lp (b : Bool) (t : Step) : (s.setStep b t).lp = s.lp := rfl
@[simp] theorem State.setStep_free (b : Bool) (t : Step) : (s.setStep b t).free = s.free := rfl
@[simp] theorem State.setStep_egress (b : Bool) (t : Step) : (s.setStep b t).egress = s.egress := rfl

@[simp] theorem State.takeFree_pending : s.takeFree.2.pending = s.pending := rfl
@[simp] theorem State.takeFree_core : s.takeFree.2.core = s.core := rfl
@[simp] theorem State.takeFree_mode : s.takeFree.2.mode = s.mode := rfl
@[simp] theorem State.takeFree_ident : s.takeFree.2.ident = s.ident := rfl
@[simp] theorem State.takeFree_objs : s.takeFree.2.objs = s.objs := rfl
@[simp] theorem State.takeFree_kindle : s.takeFree.2.kindle = s.kindle := rfl
@[simp] theorem State.takeFree_dict : s.takeFree.2.dict = s.dict := rfl
@[simp] theorem State.takeFree_pins : s.takeFree.2.pins = s.pins := rfl
@[simp] theorem State.takeFree_ftime : s.takeFree.2.ftime = s.ftime := rfl
@[simp] theorem State.takeFree_therm : s.takeFree.2.therm = s.therm := rfl
@[simp] theorem State.takeFree_xspi : s.takeFree.2.xspi = s.xspi := rfl
@[simp] theorem State.takeFree_soot : s.takeFree.2.soot = s.soot := rfl
@[simp] theorem State.takeFree_log : s.takeFree.2.log = s.log := rfl
@[simp] theorem State.takeFree_digests : s.takeFree.2.digests = s.digests := rfl
@[simp] theorem State.takeFree_seq : s.takeFree.2.seq = s.seq := rfl
@[simp] theorem State.takeFree_steps : s.takeFree.2.steps = s.steps := rfl
@[simp] theorem State.takeFree_accepted : s.takeFree.2.accepted = s.accepted := rfl
@[simp] theorem State.takeFree_tables : s.takeFree.2.tables = s.tables := rfl
@[simp] theorem State.takeFree_stores : s.takeFree.2.stores = s.stores := rfl
@[simp] theorem State.takeFree_job : s.takeFree.2.job = s.job := rfl
@[simp] theorem State.takeFree_colls : s.takeFree.2.colls = s.colls := rfl
@[simp] theorem State.takeFree_bellows : s.takeFree.2.bellows = s.bellows := rfl
@[simp] theorem State.takeFree_pool : s.takeFree.2.pool = s.pool := rfl
@[simp] theorem State.takeFree_dies : s.takeFree.2.dies = s.dies := rfl
@[simp] theorem State.takeFree_flue : s.takeFree.2.flue = s.flue := rfl
@[simp] theorem State.takeFree_fabric : s.takeFree.2.fabric = s.fabric := rfl
@[simp] theorem State.takeFree_mem : s.takeFree.2.mem = s.mem := rfl
@[simp] theorem State.takeFree_lp : s.takeFree.2.lp = s.lp := rfl
@[simp] theorem State.takeFree_free : s.takeFree.2.free = s.free + 1 := rfl
@[simp] theorem State.takeFree_egress : s.takeFree.2.egress = s.egress := rfl

@[simp] theorem State.count_pending (k n : Nat) : (s.count k n).pending = s.pending := rfl
@[simp] theorem State.count_core (k n : Nat) : (s.count k n).core = s.core := rfl
@[simp] theorem State.count_mode (k n : Nat) : (s.count k n).mode = s.mode := rfl
@[simp] theorem State.count_ident (k n : Nat) : (s.count k n).ident = s.ident := rfl
@[simp] theorem State.count_kindle (k n : Nat) : (s.count k n).kindle = s.kindle := rfl
@[simp] theorem State.count_dict (k n : Nat) : (s.count k n).dict = s.dict := rfl
@[simp] theorem State.count_pins (k n : Nat) : (s.count k n).pins = s.pins := rfl
@[simp] theorem State.count_ftime (k n : Nat) : (s.count k n).ftime = s.ftime := rfl
@[simp] theorem State.count_therm (k n : Nat) : (s.count k n).therm = s.therm := rfl
@[simp] theorem State.count_xspi (k n : Nat) : (s.count k n).xspi = s.xspi := rfl
@[simp] theorem State.count_soot (k n : Nat) : (s.count k n).soot = s.soot := rfl
@[simp] theorem State.count_log (k n : Nat) : (s.count k n).log = s.log := rfl
@[simp] theorem State.count_digests (k n : Nat) : (s.count k n).digests = s.digests := rfl
@[simp] theorem State.count_seq (k n : Nat) : (s.count k n).seq = s.seq := rfl
@[simp] theorem State.count_steps (k n : Nat) : (s.count k n).steps = s.steps := rfl
@[simp] theorem State.count_accepted (k n : Nat) : (s.count k n).accepted = s.accepted := rfl
@[simp] theorem State.count_tables (k n : Nat) : (s.count k n).tables = s.tables := rfl
@[simp] theorem State.count_stores (k n : Nat) : (s.count k n).stores = s.stores := rfl
@[simp] theorem State.count_job (k n : Nat) : (s.count k n).job = s.job := rfl
@[simp] theorem State.count_colls (k n : Nat) : (s.count k n).colls = s.colls := rfl
@[simp] theorem State.count_bellows (k n : Nat) : (s.count k n).bellows = s.bellows := rfl
@[simp] theorem State.count_pool (k n : Nat) : (s.count k n).pool = s.pool := rfl
@[simp] theorem State.count_dies (k n : Nat) : (s.count k n).dies = s.dies := rfl
@[simp] theorem State.count_flue (k n : Nat) : (s.count k n).flue = s.flue := rfl
@[simp] theorem State.count_fabric (k n : Nat) : (s.count k n).fabric = s.fabric := rfl
@[simp] theorem State.count_mem (k n : Nat) : (s.count k n).mem = s.mem := rfl
@[simp] theorem State.count_lp (k n : Nat) : (s.count k n).lp = s.lp := rfl
@[simp] theorem State.count_free (k n : Nat) : (s.count k n).free = s.free := rfl
@[simp] theorem State.count_egress (k n : Nat) : (s.count k n).egress = s.egress := rfl

/-! ### Objects -/

@[simp] theorem State.obj_setObj_self (k v : Nat) : (s.setObj k v).obj k = v := Tabs.get_set_self ..

theorem State.obj_setObj_other (j k v : Nat) (h : k ≠ j) : (s.setObj j v).obj k = s.obj k := Tabs.get_set_other _ _ _ _ h

/-- An object's value after a write of any object, in a form that the simplifier decides on numerals. -/
@[simp] theorem State.obj_setObj (j k v : Nat) : (s.setObj j v).obj k = if k = j then v else s.obj k := by
  split
  · subst k; exact s.obj_setObj_self j v
  · exact s.obj_setObj_other j k v ‹_›

@[simp] theorem State.obj_count (j k n : Nat) :
    (s.count j n).obj k = if k = j then (s.obj j + n) % 2 ^ odWidth j else s.obj k := s.obj_setObj ..

@[simp] theorem State.obj_emit (m : Msg) (k : Nat) : (s.emit m).obj k = s.obj k := rfl
@[simp] theorem State.obj_emits (ms : List Msg) (k : Nat) : (s.emits ms).obj k = s.obj k := rfl
@[simp] theorem State.obj_writeMem (a : Nat) (bs : List Byte) (k : Nat) : (s.writeMem a bs).obj k = s.obj k := rfl
@[simp] theorem State.obj_writeMemNat (a n v k : Nat) : (s.writeMemNat a n v).obj k = s.obj k := rfl
@[simp] theorem State.obj_writeLp (a : Nat) (bs : List Byte) (k : Nat) : (s.writeLp a bs).obj k = s.obj k := rfl
@[simp] theorem State.obj_setStep (b : Bool) (t : Step) (k : Nat) : (s.setStep b t).obj k = s.obj k := rfl
@[simp] theorem State.obj_takeFree (k : Nat) : s.takeFree.2.obj k = s.obj k := rfl

/-! ### The end of a scalar access -/

@[simp] theorem State.setPort_pending (r : OdReq) (d : BitVec 64) : (s.setPort r d).pending = s.pending := by
  unfold State.setPort; split <;> rfl
@[simp] theorem State.setPort_core (r : OdReq) (d : BitVec 64) : (s.setPort r d).core = s.core := by
  unfold State.setPort; split <;> rfl
@[simp] theorem State.setPort_mode (r : OdReq) (d : BitVec 64) : (s.setPort r d).mode = s.mode := by
  unfold State.setPort; split <;> rfl
@[simp] theorem State.setPort_ident (r : OdReq) (d : BitVec 64) : (s.setPort r d).ident = s.ident := by
  unfold State.setPort; split <;> rfl
@[simp] theorem State.setPort_kindle (r : OdReq) (d : BitVec 64) : (s.setPort r d).kindle = s.kindle := by
  unfold State.setPort; split <;> rfl
@[simp] theorem State.setPort_pins (r : OdReq) (d : BitVec 64) : (s.setPort r d).pins = s.pins := by
  unfold State.setPort; split <;> rfl
@[simp] theorem State.setPort_ftime (r : OdReq) (d : BitVec 64) : (s.setPort r d).ftime = s.ftime := by
  unfold State.setPort; split <;> rfl
@[simp] theorem State.setPort_therm (r : OdReq) (d : BitVec 64) : (s.setPort r d).therm = s.therm := by
  unfold State.setPort; split <;> rfl
@[simp] theorem State.setPort_xspi (r : OdReq) (d : BitVec 64) : (s.setPort r d).xspi = s.xspi := by
  unfold State.setPort; split <;> rfl
@[simp] theorem State.setPort_soot (r : OdReq) (d : BitVec 64) : (s.setPort r d).soot = s.soot := by
  unfold State.setPort; split <;> rfl
@[simp] theorem State.setPort_log (r : OdReq) (d : BitVec 64) : (s.setPort r d).log = s.log := by
  unfold State.setPort; split <;> rfl
@[simp] theorem State.setPort_digests (r : OdReq) (d : BitVec 64) : (s.setPort r d).digests = s.digests := by
  unfold State.setPort; split <;> rfl
@[simp] theorem State.setPort_seq (r : OdReq) (d : BitVec 64) : (s.setPort r d).seq = s.seq := by
  unfold State.setPort; split <;> rfl
@[simp] theorem State.setPort_steps (r : OdReq) (d : BitVec 64) : (s.setPort r d).steps = s.steps := by
  unfold State.setPort; split <;> rfl
@[simp] theorem State.setPort_accepted (r : OdReq) (d : BitVec 64) : (s.setPort r d).accepted = s.accepted := by
  unfold State.setPort; split <;> rfl
@[simp] theorem State.setPort_tables (r : OdReq) (d : BitVec 64) : (s.setPort r d).tables = s.tables := by
  unfold State.setPort; split <;> rfl
@[simp] theorem State.setPort_stores (r : OdReq) (d : BitVec 64) : (s.setPort r d).stores = s.stores := by
  unfold State.setPort; split <;> rfl
@[simp] theorem State.setPort_job (r : OdReq) (d : BitVec 64) : (s.setPort r d).job = s.job := by
  unfold State.setPort; split <;> rfl
@[simp] theorem State.setPort_colls (r : OdReq) (d : BitVec 64) : (s.setPort r d).colls = s.colls := by
  unfold State.setPort; split <;> rfl
@[simp] theorem State.setPort_bellows (r : OdReq) (d : BitVec 64) : (s.setPort r d).bellows = s.bellows := by
  unfold State.setPort; split <;> rfl
@[simp] theorem State.setPort_pool (r : OdReq) (d : BitVec 64) : (s.setPort r d).pool = s.pool := by
  unfold State.setPort; split <;> rfl
@[simp] theorem State.setPort_dies (r : OdReq) (d : BitVec 64) : (s.setPort r d).dies = s.dies := by
  unfold State.setPort; split <;> rfl
@[simp] theorem State.setPort_flue (r : OdReq) (d : BitVec 64) : (s.setPort r d).flue = s.flue := by
  unfold State.setPort; split <;> rfl
@[simp] theorem State.setPort_fabric (r : OdReq) (d : BitVec 64) : (s.setPort r d).fabric = s.fabric := by
  unfold State.setPort; split <;> rfl
@[simp] theorem State.setPort_mem (r : OdReq) (d : BitVec 64) : (s.setPort r d).mem = s.mem := by
  unfold State.setPort; split <;> rfl
@[simp] theorem State.setPort_lp (r : OdReq) (d : BitVec 64) : (s.setPort r d).lp = s.lp := by
  unfold State.setPort; split <;> rfl
@[simp] theorem State.setPort_free (r : OdReq) (d : BitVec 64) : (s.setPort r d).free = s.free := by
  unfold State.setPort; split <;> rfl
@[simp] theorem State.setPort_objs (r : OdReq) (d : BitVec 64) : (s.setPort r d).objs = s.objs := by
  unfold State.setPort; split <;> rfl
@[simp] theorem State.setPort_egress (r : OdReq) (d : BitVec 64) : (s.setPort r d).egress = s.egress := by
  unfold State.setPort; split <;> rfl
@[simp] theorem State.obj_setPort (r : OdReq) (d : BitVec 64) (k : Nat) : (s.setPort r d).obj k = s.obj k := by
  unfold State.obj; rw [State.setPort_objs]

@[simp] theorem State.answer_pending (r : OdReq) (op st : Nat) (d : List Byte) : (s.answer r op st d).pending = s.pending := by
  unfold State.answer; cases r.path <;> dsimp only <;> split <;> rfl
@[simp] theorem State.answer_core (r : OdReq) (op st : Nat) (d : List Byte) : (s.answer r op st d).core = s.core := by
  unfold State.answer; cases r.path <;> dsimp only <;> split <;> rfl
@[simp] theorem State.answer_mode (r : OdReq) (op st : Nat) (d : List Byte) : (s.answer r op st d).mode = s.mode := by
  unfold State.answer; cases r.path <;> dsimp only <;> split <;> rfl
@[simp] theorem State.answer_ident (r : OdReq) (op st : Nat) (d : List Byte) : (s.answer r op st d).ident = s.ident := by
  unfold State.answer; cases r.path <;> dsimp only <;> split <;> rfl
@[simp] theorem State.answer_kindle (r : OdReq) (op st : Nat) (d : List Byte) : (s.answer r op st d).kindle = s.kindle := by
  unfold State.answer; cases r.path <;> dsimp only <;> split <;> rfl
@[simp] theorem State.answer_pins (r : OdReq) (op st : Nat) (d : List Byte) : (s.answer r op st d).pins = s.pins := by
  unfold State.answer; cases r.path <;> dsimp only <;> split <;> rfl
@[simp] theorem State.answer_ftime (r : OdReq) (op st : Nat) (d : List Byte) : (s.answer r op st d).ftime = s.ftime := by
  unfold State.answer; cases r.path <;> dsimp only <;> split <;> rfl
@[simp] theorem State.answer_therm (r : OdReq) (op st : Nat) (d : List Byte) : (s.answer r op st d).therm = s.therm := by
  unfold State.answer; cases r.path <;> dsimp only <;> split <;> rfl
@[simp] theorem State.answer_xspi (r : OdReq) (op st : Nat) (d : List Byte) : (s.answer r op st d).xspi = s.xspi := by
  unfold State.answer; cases r.path <;> dsimp only <;> split <;> rfl
@[simp] theorem State.answer_soot (r : OdReq) (op st : Nat) (d : List Byte) : (s.answer r op st d).soot = s.soot := by
  unfold State.answer; cases r.path <;> dsimp only <;> split <;> rfl
@[simp] theorem State.answer_log (r : OdReq) (op st : Nat) (d : List Byte) : (s.answer r op st d).log = s.log := by
  unfold State.answer; cases r.path <;> dsimp only <;> split <;> rfl
@[simp] theorem State.answer_digests (r : OdReq) (op st : Nat) (d : List Byte) : (s.answer r op st d).digests = s.digests := by
  unfold State.answer; cases r.path <;> dsimp only <;> split <;> rfl
@[simp] theorem State.answer_seq (r : OdReq) (op st : Nat) (d : List Byte) : (s.answer r op st d).seq = s.seq := by
  unfold State.answer; cases r.path <;> dsimp only <;> split <;> rfl
@[simp] theorem State.answer_steps (r : OdReq) (op st : Nat) (d : List Byte) : (s.answer r op st d).steps = s.steps := by
  unfold State.answer; cases r.path <;> dsimp only <;> split <;> rfl
@[simp] theorem State.answer_accepted (r : OdReq) (op st : Nat) (d : List Byte) : (s.answer r op st d).accepted = s.accepted := by
  unfold State.answer; cases r.path <;> dsimp only <;> split <;> rfl
@[simp] theorem State.answer_tables (r : OdReq) (op st : Nat) (d : List Byte) : (s.answer r op st d).tables = s.tables := by
  unfold State.answer; cases r.path <;> dsimp only <;> split <;> rfl
@[simp] theorem State.answer_stores (r : OdReq) (op st : Nat) (d : List Byte) : (s.answer r op st d).stores = s.stores := by
  unfold State.answer; cases r.path <;> dsimp only <;> split <;> rfl
@[simp] theorem State.answer_job (r : OdReq) (op st : Nat) (d : List Byte) : (s.answer r op st d).job = s.job := by
  unfold State.answer; cases r.path <;> dsimp only <;> split <;> rfl
@[simp] theorem State.answer_colls (r : OdReq) (op st : Nat) (d : List Byte) : (s.answer r op st d).colls = s.colls := by
  unfold State.answer; cases r.path <;> dsimp only <;> split <;> rfl
@[simp] theorem State.answer_bellows (r : OdReq) (op st : Nat) (d : List Byte) : (s.answer r op st d).bellows = s.bellows := by
  unfold State.answer; cases r.path <;> dsimp only <;> split <;> rfl
@[simp] theorem State.answer_pool (r : OdReq) (op st : Nat) (d : List Byte) : (s.answer r op st d).pool = s.pool := by
  unfold State.answer; cases r.path <;> dsimp only <;> split <;> rfl
@[simp] theorem State.answer_dies (r : OdReq) (op st : Nat) (d : List Byte) : (s.answer r op st d).dies = s.dies := by
  unfold State.answer; cases r.path <;> dsimp only <;> split <;> rfl
@[simp] theorem State.answer_flue (r : OdReq) (op st : Nat) (d : List Byte) : (s.answer r op st d).flue = s.flue := by
  unfold State.answer; cases r.path <;> dsimp only <;> split <;> rfl
@[simp] theorem State.answer_fabric (r : OdReq) (op st : Nat) (d : List Byte) : (s.answer r op st d).fabric = s.fabric := by
  unfold State.answer; cases r.path <;> dsimp only <;> split <;> rfl
@[simp] theorem State.answer_mem (r : OdReq) (op st : Nat) (d : List Byte) : (s.answer r op st d).mem = s.mem := by
  unfold State.answer; cases r.path <;> dsimp only <;> split <;> rfl
@[simp] theorem State.answer_lp (r : OdReq) (op st : Nat) (d : List Byte) : (s.answer r op st d).lp = s.lp := by
  unfold State.answer; cases r.path <;> dsimp only <;> split <;> rfl
@[simp] theorem State.answer_free (r : OdReq) (op st : Nat) (d : List Byte) : (s.answer r op st d).free = s.free := by
  unfold State.answer; cases r.path <;> dsimp only <;> split <;> rfl

/-- The answer of an access that passed leaves every object alone. -/
@[simp] theorem State.answer_ok_objs (r : OdReq) (op : Nat) (d : List Byte) : (s.answer r op St.ok d).objs = s.objs := by
  unfold State.answer; cases r.path <;> rfl

@[simp] theorem State.obj_answer_ok (r : OdReq) (op : Nat) (d : List Byte) (k : Nat) :
    (s.answer r op St.ok d).obj k = s.obj k := by
  unfold State.obj; rw [State.answer_ok_objs]

/-- A refused access counts in RZ_OD_REFUSED, and changes no other object. -/
theorem State.obj_answer (r : OdReq) (op st : Nat) (d : List Byte) (k : Nat) (h : k ≠ Obj.RZ_OD_REFUSED) :
    (s.answer r op st d).obj k = s.obj k := by
  have e : (s.answer r op st d).objs = (if st = St.ok then s else s.count Obj.RZ_OD_REFUSED 1).objs := by
    unfold State.answer; cases r.path <;> rfl
  unfold State.obj
  rw [e]
  split
  · rfl
  · exact s.obj_setObj_other _ _ _ h

/-- A request that the engine hears is run. -/
theorem State.onRequest_hears (r : OdReq) (scalar : Bool) (run : State → State) (h : s.hears r scalar = true) :
    s.onRequest r scalar run = run s := by
  simp only [State.hears, Bool.and_eq_true, bne_iff_ne, ne_eq, Bool.not_eq_true', Option.isNone_iff_eq_none] at h
  obtain ⟨⟨⟨hm, hc⟩, hb⟩, ho⟩ := h
  simp only [State.onRequest, hm, hc, hb, ho, decide_false, Bool.not_true, Bool.or_self, if_false, Bool.false_eq_true]

end Sys2Proof.Machine
end

