-- ==== Sys2Proof/Laws/Access.lean ====
section
/-!
SUPPORT. The checks of a scalar write (R301): the port's registers play no part in them, and for a command row's own request
only the access, the replay, the lock, the state, the open command and the value can fail.
-/

namespace Sys2Proof.Machine

/-- setPort changes two of the window's registers. -/
theorem State.setPort_window (s : State) (r : OdReq) (d : BitVec 64) :
    ∃ a b, s.setPort r d = { s with dict := { s.dict with oaAddr := a, oaData := b } } := by
  unfold State.setPort; split
  · exact ⟨_, _, rfl⟩
  · exact ⟨s.dict.oaAddr, s.dict.oaData, rfl⟩

@[simp] theorem State.setPort_unlockMctp (s : State) (r : OdReq) (d : BitVec 64) :
    (s.setPort r d).dict.unlockMctp = s.dict.unlockMctp := by
  obtain ⟨a, b, h⟩ := s.setPort_window r d
  rw [h]

@[simp] theorem State.setPort_unlockBand (s : State) (r : OdReq) (d : BitVec 64) :
    (s.setPort r d).dict.unlockBand = s.dict.unlockBand := by
  obtain ⟨a, b, h⟩ := s.setPort_window r d
  rw [h]

@[simp] theorem firstFail_nil : firstFail [] = St.ok := rfl

@[simp] theorem firstFail_true (st : Nat) (l : List (Bool × Nat)) : firstFail ((true, st) :: l) = st := rfl

@[simp] theorem firstFail_false (st : Nat) (l : List (Bool × Nat)) : firstFail ((false, st) :: l) = firstFail l := rfl

theorem firstFail_pass (c : Bool) (st st' : Nat) (l : List (Bool × Nat)) :
    firstFail ((c, st) :: (false, st') :: l) = firstFail ((c, st) :: l) := by
  cases c <;> rfl

@[simp] theorem State.setPort_unlocked (s : State) (r : OdReq) (d : BitVec 64) (p : Path) :
    (s.setPort r d).unlocked p = s.unlocked p := by
  simp only [State.unlocked, State.setPort_unlockMctp, State.setPort_unlockBand]

@[simp] theorem State.setPort_accepts (s : State) (r : OdReq) (d : BitVec 64) (a : OdAccess) (k : Nat) :
    (s.setPort r d).accepts a k = s.accepts a k := by
  unfold State.accepts State.shown; rw [State.setPort_mode, State.setPort_pins]

@[simp] theorem State.setPort_odWriteOk (s : State) (r : OdReq) (d : BitVec 64) (row : OdRow) (v : Nat) :
    odWriteOk (s.setPort r d) row v = odWriteOk s row v := by
  simp only [odWriteOk, odValueOk, State.flag, State.obj_setPort]

@[simp] theorem writeStatus_setPort (s : State) (r q : OdReq) (d : BitVec 64) (own : OwnRules) :
    writeStatus (s.setPort q d) r own = writeStatus s r own := by
  simp only [writeStatus, State.primary, State.setPort_ident, State.setPort_log, State.setPort_unlocked,
    State.setPort_accepts, State.setPort_seq, State.setPort_odWriteOk]

/-- A write that passes every check has its effect and is answered OK. -/
theorem odWrite_passed {s : State} {r : OdReq} {own : OwnRules} {eff : State → State} (h : s.hears r true = true)
    (k : writeStatus s r own = St.ok) :
    odWrite s r own eff = (eff (s.setPort r (BitVec.ofNat 64 (odVal r)))).answer r 0x02 St.ok [] := by
  simp [odWrite, s.onRequest_hears r true _ h, k]

/-- A write that fails a check has no effect but its answer. -/
theorem odWrite_failed {s : State} {r : OdReq} {own : OwnRules} {eff : State → State} (h : s.hears r true = true)
    (k : writeStatus s r own ≠ St.ok) :
    odWrite s r own eff =
      (s.setPort r (BitVec.ofNat 64 (odVal r))).answer r 0x02 (writeStatus s r own) [] := by
  simp [odWrite, s.onRequest_hears r true _ h, k]

/-! ### The request of a command row -/

@[simp] theorem length_leBytes (n v : Nat) : (leBytes n v).length = n := by
  induction n generalizing v with
  | zero => rfl
  | succ n ih => simp [leBytes, ih]

@[simp] theorem length_toBytes {n : Nat} (x : BitVec n) : (toBytes x).length = n / 8 := length_leBytes ..

@[simp] theorem leNat_leBytes (n v : Nat) : leNat (leBytes n v) = v % 256 ^ n := by
  induction n generalizing v with
  | zero => simp [leBytes, leNat, Nat.mod_one]
  | succ n ih =>
    rw [leBytes, leNat, ih, Nat.pow_succ', Nat.mod_mul]
    simp

theorem odKey_scalarReq (p : Path) (tag : ReqTag) {key : Nat} (v : Nat) (h : key < 2 ^ 24) :
    odKey (scalarReq p tag key v) = key := by
  simp only [odKey, scalarReq, BitVec.toNat_ofNat]
  omega

theorem odVal_scalarReq (p : Path) (tag : ReqTag) {key : Nat} (v : Nat) (h : key < 2 ^ 24) :
    odVal (scalarReq p tag key v) = v % 256 ^ (odWidth key / 8) := by
  rw [odVal, odKey_scalarReq p tag v h]
  have e : (scalarReq p tag key v).data = leBytes (odWidth key / 8) v := rfl
  rw [e, List.take_of_length_le (by simp), ite_self, leNat_leBytes]

/-- The status of a command row's own request: its form is good, so six checks are left. -/
theorem writeStatus_scalarReq (s : State) (p : Path) (tag : ReqTag) {key : Nat} (v : Nat) (own : OwnRules) {row : OdRow}
    (hr : odRow key = some row) (hk : key < 2 ^ 24) (hs : row.ty.isScalar = true) :
    writeStatus s (scalarReq p tag key v) own = firstFail [
      (row.acc == .ro || row.acc == .const || (hostInputs.contains key && !s.primary), St.access),
      (s.log.replay && replayInputs.contains key, St.replay),
      (odExpert key && !s.unlocked p, St.locked),
      (!s.accepts row.acc key || !own.state, St.state),
      ((row.acc == .rws && s.seq.checking) || own.busy, St.busy),
      (!odWriteOk s row (v % 256 ^ row.ty.size) || !own.value, St.value)] := by
  have w : odWidth key / 8 = row.ty.size := by simp [odWidth, hr]
  have z : row.ty.size < 65536 := by cases row.ty <;> decide
  have b : badRequest (scalarReq p tag key v) false = false := by simp [badRequest, scalarReq]
  have l : badLength (scalarReq p tag key v) row.ty.size true = false := by
    simp [badLength, scalarReq, w, Nat.mod_eq_of_lt z]
  have t : (scalarReq p tag key v).path = p := rfl
  simp only [writeStatus, odKey_scalarReq p tag v hk, odVal_scalarReq p tag v hk, hr, b, l, w, t, hs, firstFail_false,
    firstFail_pass, Bool.not_true, Bool.or_false]

/-- What hears a command row's request, in terms of its path and tag. -/
theorem State.hears_scalarReq (s : State) (p : Path) (tag : ReqTag) {key : Nat} (v : Nat) (h : odWidth key / 8 ≤ 47) :
    s.hears (scalarReq p tag key v) true = s.hearsRow p tag := by
  have n : packetCount (reqBytes (scalarReq p tag key v)) = 1 := by
    simp only [packetCount, reqBytes, scalarReq, length_leBytes, ceilDiv]
    omega
  have a : (scalarReq p tag key v).path = p := rfl
  have b : (scalarReq p tag key v).tag = tag := rfl
  have c : (scalarReq p tag key v).badOp = none := rfl
  cases p <;> simp [State.hears, State.hearsRow, State.reqComes, State.queuedNow,  State.portBusy, n, packetFlags, a, b, c]

end Sys2Proof.Machine
end

