-- ==== Sys2Proof/Laws/Frames.lean ====
section
/-!
SUPPORT. Which objects the shared operations may change (ObjsBut), and the state's fields that those of alerts, soot entries,
status records and entry to a state leave alone.
-/

namespace Sys2Proof.Machine

variable {s t u : State} {ks : List Nat}

/-! ### ObjsBut -/

theorem ObjsBut.refl (s : State) : ObjsBut ks s s := fun _ _ => rfl

theorem ObjsBut.trans (h : ObjsBut ks s t) (k : ObjsBut ks t u) : ObjsBut ks s u := fun j hj => (k j hj).trans (h j hj)

theorem ObjsBut.mono {ls : List Nat} (h : ObjsBut ks s t) (k : ∀ x ∈ ks, x ∈ ls) : ObjsBut ls s t :=
  fun j hj => h j (fun m => hj (k j m))

theorem ObjsBut.of_objs (h : t.objs = s.objs) : ObjsBut ks s t := fun _ _ => by unfold State.obj; rw [h]

theorem ObjsBut.set (h : ObjsBut ks s t) {k v : Nat} (m : k ∈ ks) : ObjsBut ks s (t.setObj k v) :=
  fun j hj => (t.obj_setObj_other k j v (fun e => hj (e ▸ m))).trans (h j hj)

theorem ObjsBut.count (h : ObjsBut ks s t) {k n : Nat} (m : k ∈ ks) : ObjsBut ks s (t.count k n) := h.set m

theorem ObjsBut.foldl {α : Type} (f : State → α → State) (l : List α) (h : ObjsBut ks s t)
    (k : ∀ x a, ObjsBut ks x (f x a)) : ObjsBut ks s (l.foldl f t) := by
  induction l generalizing t with
  | nil => exact h
  | cons a l ih => exact ih (h.trans (k t a))

theorem ObjsBut.obj (h : ObjsBut ks s t) {k : Nat} (m : k ∉ ks) : t.obj k = s.obj k := h k m

/-! ### Alerts, soot entries, status records -/

theorem State.alert_but (s : State) (b : Nat) : ObjsBut [Obj.RZ_ALERT_CAUSE] s (s.alert b) :=
  (ObjsBut.refl s).set (by simp)

theorem State.alert_cause (s : State) (b : Nat) : (s.alert b).obj Obj.RZ_ALERT_CAUSE = s.obj Obj.RZ_ALERT_CAUSE ||| 2 ^ b :=
  s.obj_setObj_self ..

theorem State.alert_shape (s : State) (b : Nat) : ∃ o, s.alert b = { s with objs := o } := ⟨_, rfl⟩

theorem State.sootAlert_but (s : State) (n : Nat) : ObjsBut [Obj.RZ_ALERT_CAUSE] s (s.sootAlert n) := by
  unfold State.sootAlert
  split
  · exact s.alert_but _
  · exact .refl s

theorem State.sootAlert_shape (s : State) (n : Nat) : ∃ o, s.sootAlert n = { s with objs := o } := by
  unfold State.sootAlert
  split
  · exact ⟨_, rfl⟩
  · exact ⟨s.objs, rfl⟩

/-- The objects that a soot entry may change. -/
def sootObjs : List Nat := [Obj.RZ_SOOT_HEAD, Obj.RZ_SOOT_TAIL, Obj.RZ_SOOT_LOST, Obj.RZ_ALERT_CAUSE]

theorem State.sootWrite_but (s : State) (e : SootEv) : ObjsBut sootObjs s (s.sootWrite e) := by
  unfold State.sootWrite
  dsimp only
  split
  · exact ObjsBut.trans (.of_objs rfl) ((State.sootAlert_but _ _).mono (by simp [sootObjs]))
  · refine ObjsBut.trans ?_ ((State.sootAlert_but _ _).mono (by simp [sootObjs]))
    refine ObjsBut.count ?_ (by simp [sootObjs])
    refine ObjsBut.trans ?_ (ObjsBut.of_objs rfl)
    split
    · exact ((ObjsBut.refl s).count (by simp [sootObjs])).count (by simp [sootObjs])
    · exact .refl s

theorem State.sootWrite_shape (s : State) (e : SootEv) : ∃ o r, s.sootWrite e = { s with objs := o, soot := r } := by
  unfold State.sootWrite
  dsimp only
  split
  · obtain ⟨o, h⟩ := State.sootAlert_shape (State.mk ..) _
    exact ⟨o, _, h⟩
  · generalize sootEntry s e _ 0 _ = x
    split
    · obtain ⟨o, h⟩ := State.sootAlert_shape (State.mk ..) _
      exact ⟨o, _, h⟩
    · obtain ⟨o, h⟩ := State.sootAlert_shape (State.mk ..) _
      exact ⟨o, _, h⟩

theorem State.soot_but (s : State) (e : SootEv) : ObjsBut sootObjs s (s.soot_ e) := by
  unfold State.soot_
  dsimp only
  split
  · exact ObjsBut.trans (.of_objs rfl) ((ObjsBut.refl _).count (by simp [sootObjs]))
  · exact ObjsBut.trans (.of_objs rfl) (State.sootWrite_but _ e)

/-- A soot event changes nothing but objects and the soot log. -/
theorem State.soot_shape (s : State) (e : SootEv) : ∃ o r, s.soot_ e = { s with objs := o, soot := r } := by
  unfold State.soot_
  dsimp only
  split
  · exact ⟨_, _, rfl⟩
  · obtain ⟨o, r, h⟩ := State.sootWrite_shape { s with soot := { s.soot with queued := s.sootQueued + 1, cycle := s.core } } e
    exact ⟨o, r, h⟩

/-- The objects that a status record may change. -/
def statusObjs : List Nat := [Obj.RZ_STATUS_HEAD, Obj.RZ_STATUS_TAIL, Obj.RZ_STATUS_LOST]

theorem State.postStatus_but (s : State) (r : BitVec 128) : ObjsBut statusObjs s (s.postStatus r) := by
  unfold State.postStatus
  dsimp only
  split
  · exact (ObjsBut.refl s).count (by simp [statusObjs])
  · refine ObjsBut.count ?_ (by simp [statusObjs])
    refine ObjsBut.trans ?_ (ObjsBut.of_objs rfl)
    split
    · exact ((ObjsBut.refl s).count (by simp [statusObjs])).count (by simp [statusObjs])
    · exact .refl s

/-- A status record changes nothing but objects and stacked memory. -/
theorem State.postStatus_shape (s : State) (r : BitVec 128) : ∃ o m, s.postStatus r = { s with objs := o, mem := m } := by
  unfold State.postStatus
  dsimp only
  split
  · exact ⟨_, s.mem, rfl⟩
  · split
    · exact ⟨_, _, rfl⟩
    · exact ⟨_, _, rfl⟩

/-! ### Entry to a state -/

theorem State.enter_but (s : State) (m : Mode) (r : Nat) :
    ObjsBut [Obj.RZ_STATE_REASON, Obj.RZ_ALERT_CAUSE] s (s.enter m r) := by
  unfold State.enter
  dsimp only
  have h : ∀ x : State, ObjsBut [Obj.RZ_STATE_REASON, Obj.RZ_ALERT_CAUSE] s x →
      ObjsBut [Obj.RZ_STATE_REASON, Obj.RZ_ALERT_CAUSE] s (State.setObj { x with mode := m } Obj.RZ_STATE_REASON r) :=
    fun x hx => ObjsBut.set (hx.trans (.of_objs rfl)) (by simp)
  split <;> split <;>
    first
    | exact (h _ (.of_objs rfl)).trans ((State.alert_but _ _).mono (by simp))
    | exact h _ (.of_objs rfl)

@[simp] theorem State.enter_mode (s : State) (m : Mode) (r : Nat) : (s.enter m r).mode = m := by
  unfold State.enter
  dsimp only
  repeat' split
  all_goals rfl

/-- Entry to a state changes the mode, the open domain transfer and objects. -/
theorem State.enter_shape (s : State) (m : Mode) (r : Nat) :
    ∃ o x a, s.enter m r = { s with objs := o, mode := m, dict := { s.dict with xfer := x, abandoned := a } } := by
  unfold State.enter
  dsimp only
  split <;> split <;>
    first
    | exact ⟨_, none, s.dict.dropped, rfl⟩
    | exact ⟨_, s.dict.xfer, s.dict.abandoned, rfl⟩

theorem State.enter_reason (s : State) (m : Mode) (r : Nat) : (s.enter m r).obj Obj.RZ_STATE_REASON = r := by
  unfold State.enter
  dsimp only
  repeat' split
  all_goals simp [State.alert]

/-! ### Entry to FAULTED (R361) -/

theorem State.logBytes_but (s : State) (bs : List Byte) : ObjsBut [Obj.RZ_LOG_HEAD] s (s.logBytes bs) := by
  unfold State.logBytes
  dsimp only
  refine ObjsBut.count ?_ (by simp)
  split <;> exact .of_objs rfl

theorem State.closeSegment_but (s : State) : ObjsBut [Obj.RZ_LOG_HEAD] s s.closeSegment := by
  unfold State.closeSegment
  dsimp only
  split <;> exact (State.logBytes_but s _).trans (.of_objs rfl)

theorem State.logPut_but (s : State) (e : LogEntry) : ObjsBut [Obj.RZ_LOG_HEAD] s (s.logPut e) := by
  unfold State.logPut
  dsimp only
  refine ObjsBut.trans ?_ (ObjsBut.of_objs rfl)
  refine ObjsBut.trans ?_ (State.logBytes_but _ _)
  split
  · exact s.closeSegment_but
  · exact .refl s

/-- A record of the log, written or waiting for room, moves no object but RZ_LOG_HEAD. -/
theorem State.logRecord_but (s : State) (e : LogEntry) : ObjsBut [Obj.RZ_LOG_HEAD] s (s.logRecord e) := by
  unfold State.logRecord
  split
  · exact .refl s
  · split
    · exact s.logPut_but e
    · exact .of_objs rfl

theorem State.logStep_but (s : State) (ty : Nat) (t : Step) (p : List Byte) : ObjsBut [Obj.RZ_LOG_HEAD] s (s.logStep ty t p) :=
  s.logRecord_but _

/-- The objects that a divergence from a replayed log may change. -/
def divergeObjs : List Nat := [Obj.RZ_REPLAY_STATE, Obj.RZ_REPLAY_POS, Obj.RZ_SEQ_STATE, Obj.RZ_ALERT_CAUSE]

theorem State.haltSeq_but (s : State) (code cause : Nat) : ObjsBut divergeObjs s (s.haltSeq code cause) := by
  unfold State.haltSeq
  dsimp only
  refine ObjsBut.trans ?_ (ObjsBut.of_objs rfl)
  exact ((ObjsBut.refl s).set (by simp [divergeObjs])).trans ((State.alert_but _ _).mono (by simp [divergeObjs]))

theorem State.diverge_but (s : State) (q : Nat) : ObjsBut divergeObjs s (s.diverge q) := by
  unfold State.diverge
  dsimp only
  refine ObjsBut.trans (ObjsBut.trans ?_ (State.haltSeq_but _ 9 Alert.replayDiverged)) (ObjsBut.of_objs rfl)
  exact ((ObjsBut.refl s).set (by simp [divergeObjs])).set (by simp [divergeObjs])

/-- The objects that the records of a step's end may change. -/
def endObjs : List Nat := statusObjs ++ divergeObjs ++ [Obj.RZ_LOG_HEAD, Obj.RZ_TIMING_BROKEN]

theorem State.writeResult_but (s : State) (t : Step) (st : Nat) : ObjsBut endObjs s (s.writeResult t st) := by
  have a : ObjsBut endObjs s (s.logStep 0x12 t (stepResult t st)) := (s.logStep_but _ _ _).mono (by simp [endObjs])
  unfold State.writeResult
  dsimp only
  split
  · split
    · split
      · exact a.trans (.of_objs rfl)
      · exact a.trans ((State.diverge_but _ _).mono (by simp [endObjs]; tauto))
    · exact a
  · exact a

theorem State.logTiming_but (s : State) (t : Step) : ObjsBut endObjs s (s.logTiming t) := by
  have a : ∃ x, x = (if t.broken = true then s.count Obj.RZ_TIMING_BROKEN 1 else s) ∧ ObjsBut endObjs s x := by
    refine ⟨_, rfl, ?_⟩
    split
    · exact (ObjsBut.refl s).count (by simp [endObjs])
    · exact .refl s
  obtain ⟨x, e, a⟩ := a
  unfold State.logTiming
  dsimp only
  rw [← e]
  split
  · exact (a.trans (ObjsBut.of_objs (t := x.takeFree.2) rfl)).trans ((State.logStep_but _ _ _ _).mono (by simp [endObjs]))
  · exact a

theorem State.endRecords_but (s : State) (t : Step) (st : Nat) : ObjsBut endObjs s (s.endRecords t st) :=
  (((s.postStatus_but _).mono (by simp [endObjs]; tauto)).trans (State.writeResult_but _ _ _)).trans (State.logTiming_but _ _)

theorem State.abandonStep_but (s : State) (c : Option Nat) (b : Bool) : ObjsBut endObjs s (s.abandonStep c b) := by
  unfold State.abandonStep
  split
  · split
    · dsimp only
      refine ObjsBut.trans ?_ (ObjsBut.of_objs rfl)
      split
      · exact (State.endRecords_but _ _ _).trans ((State.logStep_but _ _ _ _).mono (by simp [endObjs]))
      · exact .refl s
    · exact .refl s
  · exact .refl s

theorem State.abandonSteps_but (s : State) (c : Option Nat) : ObjsBut endObjs s (s.abandonSteps c) :=
  ObjsBut.foldl _ _ (.refl s) (fun x b => x.abandonStep_but c b)

theorem State.endStoke_objs (s : State) : s.endStoke.objs = s.objs := by
  unfold State.endStoke
  split <;> rfl

theorem State.applyChange_objs (s : State) : s.applyChange.objs = s.objs := by
  unfold State.applyChange
  split <;> rfl

theorem State.leaveRunning_objs (s : State) : s.leaveRunning.objs = s.objs :=
  (State.applyChange_objs _).trans s.endStoke_objs

/-- The objects that the beginning of a commit may change. -/
def commitObjs : List Nat :=
  [Obj.RZ_COMMIT_NEED, Obj.RZ_LAST_COMMIT_KIB, Obj.RZ_PERSIST_STATE, Obj.RZ_XSPI_STATE, Obj.RZ_HOLDUP_REFUSED,
   Obj.RZ_ALERT_CAUSE]

theorem State.startCommit_but (s : State) (c : Commit) : ObjsBut commitObjs s (s.startCommit c) := by
  have a : ObjsBut commitObjs s (s.setObj Obj.RZ_COMMIT_NEED (3500 + 42 * ceilDiv c.bytes.length 1024)) :=
    (ObjsBut.refl s).set (by simp [commitObjs])
  unfold State.startCommit
  dsimp only
  split
  · refine ObjsBut.trans ?_ (ObjsBut.of_objs rfl)
    split <;> exact (a.set (by simp [commitObjs])).set (by simp [commitObjs])
  · have b : ObjsBut commitObjs s (State.alert (if c.kind.persist = true
        then ((s.setObj Obj.RZ_COMMIT_NEED (3500 + 42 * ceilDiv c.bytes.length 1024)).count Obj.RZ_HOLDUP_REFUSED 1).setObj
          Obj.RZ_PERSIST_STATE 3
        else ((s.setObj Obj.RZ_COMMIT_NEED (3500 + 42 * ceilDiv c.bytes.length 1024)).count Obj.RZ_HOLDUP_REFUSED 1).setObj
          Obj.RZ_XSPI_STATE 4) Alert.persistFail) := by
      refine ObjsBut.set ?_ (by simp [commitObjs])
      split <;> exact (a.count (by simp [commitObjs])).set (by simp [commitObjs])
    split
    · exact b.trans (.of_objs rfl)
    · exact b

theorem State.autoSnapshot_but (s : State) : ObjsBut commitObjs s s.autoSnapshot := by
  unfold State.autoSnapshot
  split
  · dsimp only
    split
    · exact .of_objs rfl
    · exact State.startCommit_but _ _
  · exact .refl s

/-- The objects that entry to FAULTED may change. -/
def faultObjs : List Nat :=
  endObjs ++ commitObjs ++ [Obj.RZ_SEQ_STATE, Obj.RZ_STATE_REASON]

/-- The state as it is left and before FAULTED is entered. -/
def State.faultLeft (s : State) (cause : Nat) : State :=
  let s := (s.abandonSteps (some cause)).stopSeq.quiesce.portsDown.leaveRunning
  { s with therm := { s.therm with bankWait := false } }

theorem State.faultEntry_eq (s : State) (r c : Nat) (h : s.clocked = true) (h' : s.mode ≠ .faulted) :
    s.faultEntry r c = (((s.faultLeft c).enter .faulted r).alert Alert.faulted).autoSnapshot := by
  unfold State.faultEntry State.faultLeft
  cases m : s.mode <;> simp_all [State.clocked]

theorem State.faultLeft_but (s : State) (c : Nat) : ObjsBut faultObjs s (s.faultLeft c) := by
  refine ((s.abandonSteps_but (some c)).mono (by simp [faultObjs]; tauto)).trans ?_
  refine ObjsBut.trans ?_ (.of_objs (State.leaveRunning_objs _))
  refine ObjsBut.trans (t := (s.abandonSteps (some c)).stopSeq) ?_ (.of_objs rfl)
  unfold State.stopSeq
  exact ((ObjsBut.refl _).set (by simp [faultObjs])).trans (.of_objs rfl)

theorem State.faultEntry_but (s : State) (r c : Nat) : ObjsBut faultObjs s (s.faultEntry r c) := by
  by_cases h : s.clocked = true
  case neg =>
    have : s.mode = .off ∨ s.mode = .powerFail := by
      revert h; unfold State.clocked; cases s.mode <;> simp
    rcases this with m | m <;> (simp only [State.faultEntry, m]; exact .refl s)
  by_cases h' : s.mode = .faulted
  · simp only [State.faultEntry, h']; exact .refl s
  rw [s.faultEntry_eq r c h h']
  refine (s.faultLeft_but c).trans (.trans ((State.enter_but _ .faulted r).mono (by simp [faultObjs, commitObjs])) ?_)
  refine ((State.alert_but _ Alert.faulted).mono (by simp [faultObjs, commitObjs])).trans ?_
  exact (State.autoSnapshot_but _).mono (by simp [faultObjs]; tauto)

theorem State.startCommit_shape (s : State) (c : Commit) : ∃ o x b, s.startCommit c = { s with objs := o, xspi := x, stores := b } := by
  unfold State.startCommit State.alert State.count State.setObj
  generalize ceilDiv c.bytes.length 1024 = n
  dsimp only
  split
  · split <;> exact ⟨_, _, _, rfl⟩
  · split <;> split <;> exact ⟨_, _, s.stores, rfl⟩

theorem State.autoSnapshot_shape (s : State) : ∃ o x b, s.autoSnapshot = { s with objs := o, xspi := x, stores := b } := by
  unfold State.autoSnapshot
  split
  · dsimp only
    split
    · exact ⟨s.objs, _, s.stores, rfl⟩
    · exact State.startCommit_shape _ _
  · exact ⟨s.objs, s.xspi, s.stores, rfl⟩

theorem State.faultEntry_mode (s : State) (r c : Nat) (h : s.clocked = true) : (s.faultEntry r c).mode = .faulted := by
  by_cases h' : s.mode = .faulted
  · simp only [State.faultEntry, h']
  rw [s.faultEntry_eq r c h h']
  obtain ⟨o, x, b, e⟩ := State.autoSnapshot_shape (((s.faultLeft c).enter .faulted r).alert Alert.faulted)
  rw [e]
  exact State.enter_mode _ _ _

theorem State.faultEntry_reason (s : State) (r c : Nat) (h : s.clocked = true) (h' : s.mode ≠ .faulted) :
    (s.faultEntry r c).obj Obj.RZ_STATE_REASON = r := by
  rw [s.faultEntry_eq r c h h', (State.autoSnapshot_but _).obj (by decide), (State.alert_but _ _).obj (by decide),
    State.enter_reason]

/-- A cause bit once set stays set while later ones are set. -/
theorem State.alert_keeps (s : State) (b c : Nat) (h : (s.obj Obj.RZ_ALERT_CAUSE).testBit c = true) :
    ((s.alert b).obj Obj.RZ_ALERT_CAUSE).testBit c = true := by
  rw [State.alert_cause, Nat.testBit_or, h, Bool.true_or]

theorem State.alert_sets (s : State) (b : Nat) : ((s.alert b).obj Obj.RZ_ALERT_CAUSE).testBit b = true := by
  rw [State.alert_cause, Nat.testBit_or, Nat.testBit_two_pow_self, Bool.or_true]

theorem State.count_cause (s : State) (k n b : Nat) (h : k ≠ Obj.RZ_ALERT_CAUSE)
    (hb : (s.obj Obj.RZ_ALERT_CAUSE).testBit b = true) : ((s.count k n).obj Obj.RZ_ALERT_CAUSE).testBit b = true := by
  unfold State.count
  rw [s.obj_setObj_other k _ _ h.symm]
  exact hb

theorem State.startCommit_cause (s : State) (c : Commit) (b : Nat) (h : (s.obj Obj.RZ_ALERT_CAUSE).testBit b = true) :
    ((s.startCommit c).obj Obj.RZ_ALERT_CAUSE).testBit b = true := by
  have k : ∀ (k v : Nat) (x : State), k ≠ Obj.RZ_ALERT_CAUSE → (x.obj Obj.RZ_ALERT_CAUSE).testBit b = true →
      ((x.setObj k v).obj Obj.RZ_ALERT_CAUSE).testBit b = true := by
    intro k v x n hx
    rw [x.obj_setObj_other k _ v n.symm]; exact hx
  have a := k Obj.RZ_COMMIT_NEED (3500 + 42 * ceilDiv c.bytes.length 1024) s (by decide) h
  unfold State.startCommit
  dsimp only
  split
  · have a := k Obj.RZ_LAST_COMMIT_KIB (ceilDiv c.bytes.length 1024) _ (by decide) a
    split
    · exact k Obj.RZ_PERSIST_STATE 1 _ (by decide) a
    · exact k Obj.RZ_XSPI_STATE 1 _ (by decide) a
  · have a := State.count_cause _ Obj.RZ_HOLDUP_REFUSED 1 b (by decide) a
    have p := State.alert_keeps _ Alert.persistFail b (k Obj.RZ_PERSIST_STATE 3 _ (by decide) a)
    have x := State.alert_keeps _ Alert.persistFail b (k Obj.RZ_XSPI_STATE 4 _ (by decide) a)
    split <;> split
    · exact p
    · exact x
    · exact p
    · exact x

theorem State.autoSnapshot_cause (s : State) (b : Nat) (h : (s.obj Obj.RZ_ALERT_CAUSE).testBit b = true) :
    (s.autoSnapshot.obj Obj.RZ_ALERT_CAUSE).testBit b = true := by
  unfold State.autoSnapshot
  split
  · dsimp only
    split
    · exact h
    · exact State.startCommit_cause _ _ _ h
  · exact h

theorem State.faultEntry_cause (s : State) (r c : Nat) (h : s.clocked = true) (h' : s.mode ≠ .faulted) :
    ((s.faultEntry r c).obj Obj.RZ_ALERT_CAUSE).testBit Alert.faulted = true := by
  rw [s.faultEntry_eq r c h h']
  exact State.autoSnapshot_cause _ _ (State.alert_sets _ _)

/-- A failed kindling check, in KINDLING. -/
theorem State.kindleFail_spec (s : State) (check : Nat) (e : SootEv) (h : s.mode = .kindling) :
    (s.kindleFail check e).mode = .faulted ∧
    (s.kindleFail check e).obj Obj.RZ_KINDLE_FAIL = s.kindle.phase * 2 ^ 24 + check % 2 ^ 24 ∧
    (s.kindleFail check e).obj Obj.RZ_STATE_REASON = 10 ∧
    ((s.kindleFail check e).obj Obj.RZ_ALERT_CAUSE).testBit Alert.faulted = true := by
  obtain ⟨o, r, k⟩ := s.soot_shape e
  unfold State.kindleFail
  rw [k]
  dsimp only
  have q : ∀ x : State, x.mode = s.mode → x.clocked = true ∧ x.mode ≠ .faulted := fun x e => by
    simp [State.clocked, e, h]
  refine ⟨State.faultEntry_mode _ _ _ (q _ rfl).1, ?_, State.faultEntry_reason _ _ _ (q _ rfl).1 (q _ rfl).2,
    State.faultEntry_cause _ _ _ (q _ rfl).1 (q _ rfl).2⟩
  rw [(State.faultEntry_but _ _ _).obj (by decide)]
  exact State.obj_setObj_self ..

end Sys2Proof.Machine
end

