-- ==== Sys2Proof/Laws/Kept/Base.lean ====
section
/-!
SUPPORT. The relation Kept of Safety.lean: it is reflexive and transitive, an update of other fields keeps it, a fold of
operations that keep it keeps it; and what the primitive operations of Machine/Ops.lean keep.
-/

namespace Sys2Proof.Machine

theorem Kept.refl (s : State) : Kept s s := ⟨rfl, List.prefix_rfl, Nat.le_refl _, id⟩

theorem Kept.trans {s t u : State} (h : Kept s t) (k : Kept t u) : Kept s u :=
  ⟨k.queue.trans h.queue, h.output.trans k.output, Nat.le_trans h.free k.free, fun c => k.memory (h.memory c)⟩

theorem Kept.via {s t u : State} (h : Kept s t) (k : Kept s t → Kept s u) : Kept s u := k h

theorem Kept.eq₁ {α : Type} {s t : State} {p : State × α} {v : α} (h : p = (t, v)) (k : Kept s p.1) : Kept s t := by
  subst h; exact k

theorem Kept.eq₂ {α : Type} {s t : State} {p : α × State} {v : α} (h : p = (v, t)) (k : Kept s p.2) : Kept s t := by
  subst h; exact k

/-- An update that leaves the queue, the output, the memories and the objects alone. -/
theorem Kept.fields {s X : State} (h : Kept s X)
    {core} {mode} {ident} {kindle} {dict} {pins} {ftime} {therm} {xspi} {soot} {log} {digests} {seq} {steps} {accepted} {tables} {stores} {job} {colls} {bellows} {pool} {dies} {flue} {fabric}
    (hd : dict.mbBuf = X.dict.mbBuf) (hx : xspi.nor = X.xspi.nor) :
    Kept s
      { pending := X.pending, core := core, mode := mode, ident := ident, objs := X.objs, kindle := kindle,
        dict := dict, pins := pins, ftime := ftime, therm := therm, xspi := xspi, soot := soot,
        log := log, digests := digests, seq := seq, steps := steps, accepted := accepted, tables := tables,
        stores := stores, job := job, colls := colls, bellows := bellows, pool := pool, dies := dies, flue := flue,
        fabric := fabric, mem := X.mem, lp := X.lp, free := X.free, egress := X.egress } :=
  h.trans ⟨rfl, List.prefix_rfl, Nat.le_refl _, fun c => by simpa [State.canonical, hx, hd] using c⟩

theorem Kept.foldl {α : Type} {s t : State} (f : State → α → State) (l : List α) (h : Kept s t)
    (k : ∀ x a, Kept x (f x a)) : Kept s (l.foldl f t) := by
  induction l generalizing t with
  | nil => exact h
  | cons a l ih => exact ih (h.trans (k t a))

theorem Kept.foldl₁ {α β : Type} {s : State} {t : State × β} (f : State × β → α → State × β) (l : List α)
    (h : Kept s t.1) (k : ∀ x a, Kept x.1 (f x a).1) : Kept s (l.foldl f t).1 := by
  induction l generalizing t with
  | nil => exact h
  | cons a l ih => exact ih (h.trans (k t a))

theorem Kept.foldl₂ {α β : Type} {s : State} {t : β × State} (f : β × State → α → β × State) (l : List α)
    (h : Kept s t.2) (k : ∀ x a, Kept x.2 (f x a).2) : Kept s (l.foldl f t).2 := by
  induction l generalizing t with
  | nil => exact h
  | cons a l ih => exact ih (h.trans (k t a))

/-- What an operation that may have no result keeps. -/
def Kept.opt (s : State) : Option State → Prop
  | none => True
  | some t => Kept s t

def Kept.opt₂ {α : Type} (s : State) : Option (α × State) → Prop
  | none => True
  | some p => Kept s p.2

theorem Kept.opt_some {s : State} {o : Option State} (h : Kept.opt s o) : ∀ t, o = some t → Kept s t := by
  rintro t rfl; exact h

theorem Kept.opt₂_some {α : Type} {s : State} {o : Option (α × State)} (h : Kept.opt₂ s o) :
    ∀ t, o = some t → Kept s t.2 := by
  rintro t rfl; exact h

theorem Kept.opt_of {s : State} {o : Option State} (h : ∀ t, o = some t → Kept s t) : Kept.opt s o := by
  cases o with
  | none => exact trivial
  | some t => exact h t rfl

theorem Kept.opt₂_of {α : Type} {s : State} {o : Option (α × State)} (h : ∀ t, o = some t → Kept s t.2) :
    Kept.opt₂ s o := by
  cases o with
  | none => exact trivial
  | some t => exact h t rfl

theorem Kept.opt_eq {s t : State} {o : Option State} (h : o = some t) (k : Kept.opt s o) : Kept s t := by
  subst h; exact k

theorem Kept.opt₂_eq {α : Type} {s t : State} {v : α} {o : Option (α × State)} (h : o = some (v, t))
    (k : Kept.opt₂ s o) : Kept s t := by
  subst h; exact k

theorem Kept.opt_trans {s t : State} {o : Option State} (h : Kept s t) (k : Kept.opt t o) : Kept.opt s o := by
  cases o with
  | none => exact trivial
  | some u => exact Kept.trans h k

theorem Kept.opt₂_trans {α : Type} {s t : State} {o : Option (α × State)} (h : Kept s t) (k : Kept.opt₂ t o) :
    Kept.opt₂ s o := by
  cases o with
  | none => exact trivial
  | some u => exact Kept.trans h k

theorem Kept.opt_none {s : State} : Kept.opt s none := trivial

theorem Kept.opt₂_none {α : Type} {s : State} : Kept.opt₂ (α := α) s none := trivial

theorem Kept.opt_intro {s t : State} (h : Kept s t) : Kept.opt s (some t) := h

theorem Kept.opt₂_intro {α : Type} {s : State} {p : α × State} (h : Kept s p.2) : Kept.opt₂ s (some p) := h

theorem Kept.opt₂_mk {α : Type} {s t : State} {v : α} (h : Kept s t) : Kept.opt₂ s (some (v, t)) := h

theorem Kept.cond {s a b : State} {c : Prop} {d : Decidable c} (h : Kept s a) (k : Kept s b) :
    Kept s (@ite State c d a b) := by
  split <;> assumption

theorem Kept.cond₁ {α : Type} {s : State} {a b : State × α} {c : Prop} {d : Decidable c} (h : Kept s a.1)
    (k : Kept s b.1) : Kept s (@ite (State × α) c d a b).1 := by
  split <;> assumption

theorem Kept.opt_map {s : State} {o : Option State} (f : State → State) (h : Kept.opt s o) (k : ∀ t, Kept t (f t)) :
    Kept.opt s (o.map f) := by
  cases o with
  | none => exact trivial
  | some t => exact Kept.trans h (k t)

theorem Kept.opt_map₂ {α : Type} {s : State} {o : Option (α × State)} (f : α × State → State) (h : Kept.opt₂ s o)
    (k : ∀ p, Kept p.2 (f p)) : Kept.opt s (o.map f) := by
  cases o with
  | none => exact trivial
  | some t => exact Kept.trans h (k t)

theorem Kept.opt₂_map {α : Type} {s : State} {o : Option State} (f : State → α × State) (h : Kept.opt s o)
    (k : ∀ t, Kept t (f t).2) : Kept.opt₂ s (o.map f) := by
  cases o with
  | none => exact trivial
  | some t => exact Kept.trans h (k t)

theorem Kept.opt₂_pair {α : Type} {s : State} (v : α) (o : Option State) (h : ∀ u, o = some u → Kept s u) :
    Kept.opt₂ s (o.map (fun u => (v, u))) := by
  cases o with
  | none => exact trivial
  | some u => exact h u rfl

theorem Kept.opt_via {s t : State} {o : Option State} (h : Kept s t) (k : Kept s t → Kept.opt s o) : Kept.opt s o := k h

theorem Kept.opt₂_via {α : Type} {s t : State} {o : Option (α × State)} (h : Kept s t) (k : Kept s t → Kept.opt₂ s o) :
    Kept.opt₂ s o := k h

/-- A change of memories that keeps their form. -/
theorem Kept.ofForm {s t : State} (q : t.pending = s.pending) (o : t.egress = s.egress) (f : t.free = s.free)
    (m : s.canonical → t.canonical) : Kept s t :=
  ⟨q, o ▸ List.prefix_rfl, f ▸ Nat.le_refl _, m⟩

theorem State.setObj_kept (s : State) (k v : Nat) : Kept s (s.setObj k v) :=
  .ofForm rfl rfl rfl fun c => ⟨c.1, c.2.1, c.2.2.1, c.2.2.2.1, Tabs.set_wf c.2.2.2.2 k v⟩

theorem State.emit_kept (s : State) (m : Msg) : Kept s (s.emit m) :=
  ⟨rfl, List.prefix_append _ _, Nat.le_refl _, id⟩

theorem State.emits_kept (s : State) (ms : List Msg) : Kept s (s.emits ms) :=
  ⟨rfl, List.prefix_append _ _, Nat.le_refl _, id⟩

theorem State.takeFree_kept (s : State) : Kept s (s.takeFree).2 := ⟨rfl, List.prefix_rfl, Nat.le_succ _, id⟩

theorem State.writeMem_kept (s : State) (a : Nat) (bs : List Byte) : Kept s (s.writeMem a bs) :=
  .ofForm rfl rfl rfl fun c => ⟨Memory.write_wf c.1 a bs, c.2⟩

theorem State.writeMemNat_kept (s : State) (a n v : Nat) : Kept s (s.writeMemNat a n v) :=
  .ofForm rfl rfl rfl fun c => ⟨Memory.write_wf c.1 a _, c.2⟩

theorem State.writeLp_kept (s : State) (a : Nat) (bs : List Byte) : Kept s (s.writeLp a bs) :=
  .ofForm rfl rfl rfl fun c => ⟨c.1, Memory.write_wf c.2.1 a bs, c.2.2⟩

/-- A run of stacked memory cleared, other fields with it. -/
theorem Kept.clearMem {s t : State} (a n : Nat) (q : t.pending = s.pending) (o : t.egress = s.egress)
    (f : t.free = s.free) (m : t.mem = Tabs.clearRun s.mem a n) (l : t.lp = s.lp) (x : t.xspi.nor = s.xspi.nor)
    (d : t.dict.mbBuf = s.dict.mbBuf) (b : t.objs = s.objs) : Kept s t :=
  .ofForm q o f fun c => by
    have : (t.mem).wf = true := by rw [m]; exact Tabs.clearRun_wf c.1 a n
    simpa [State.canonical, this, l, x, d, b] using c.2

/-! ### The same for Steady -/

theorem Steady.refl (s : State) : Steady s s := ⟨Kept.refl s, rfl, rfl, rfl, rfl, rfl, rfl, rfl, rfl⟩

theorem Steady.trans {s t u : State} (h : Steady s t) (k : Steady t u) : Steady s u :=
  ⟨h.kept.trans k.kept, k.mode.trans h.mode, k.ident.trans h.ident, k.kindle.trans h.kindle, k.pins.trans h.pins,
    k.ftime.trans h.ftime, k.core.trans h.core, k.nor.trans h.nor, k.records.trans h.records⟩

/-- An update that leaves the queue, the output, the memories, the objects and what Steady names alone. -/
theorem Steady.fields {s X : State} (h : Steady s X)
    {dict} {therm} {xspi} {soot} {log} {digests} {seq} {steps} {accepted} {tables} {stores} {job} {colls} {bellows} {pool} {dies} {flue} {fabric}
    (hd : dict.mbBuf = X.dict.mbBuf) (hx : xspi.nor = X.xspi.nor ∧ xspi.sectors = X.xspi.sectors) :
    Steady s
      { pending := X.pending, core := X.core, mode := X.mode, ident := X.ident, objs := X.objs, kindle := X.kindle,
        dict := dict, pins := X.pins, ftime := X.ftime, therm := therm, xspi := xspi, soot := soot,
        log := log, digests := digests, seq := seq, steps := steps, accepted := accepted, tables := tables,
        stores := stores, job := job, colls := colls, bellows := bellows, pool := pool, dies := dies, flue := flue,
        fabric := fabric, mem := X.mem, lp := X.lp, free := X.free, egress := X.egress } :=
  h.trans ⟨Kept.fields (Kept.refl X) hd hx.1, rfl, rfl, rfl, rfl, rfl, rfl, hx.1, hx.2⟩

theorem Steady.via {s t u : State} (h : Steady s t) (k : Steady s t → Steady s u) : Steady s u := k h

theorem Steady.eq₁ {α : Type} {s t : State} {p : State × α} {v : α} (h : p = (t, v)) (k : Steady s p.1) : Steady s t := by
  subst h; exact k

theorem Steady.eq₂ {α : Type} {s t : State} {p : α × State} {v : α} (h : p = (v, t)) (k : Steady s p.2) : Steady s t := by
  subst h; exact k

theorem Steady.foldl {α : Type} {s t : State} (f : State → α → State) (l : List α) (h : Steady s t)
    (k : ∀ x a, Steady x (f x a)) : Steady s (l.foldl f t) := by
  induction l generalizing t with
  | nil => exact h
  | cons a l ih => exact ih (h.trans (k t a))

theorem Steady.foldl₁ {α β : Type} {s : State} {t : State × β} (f : State × β → α → State × β) (l : List α)
    (h : Steady s t.1) (k : ∀ x a, Steady x.1 (f x a).1) : Steady s (l.foldl f t).1 := by
  induction l generalizing t with
  | nil => exact h
  | cons a l ih => exact ih (h.trans (k t a))

theorem Steady.foldl₂ {α β : Type} {s : State} {t : β × State} (f : β × State → α → β × State) (l : List α)
    (h : Steady s t.2) (k : ∀ x a, Steady x.2 (f x a).2) : Steady s (l.foldl f t).2 := by
  induction l generalizing t with
  | nil => exact h
  | cons a l ih => exact ih (h.trans (k t a))

def Steady.opt (s : State) : Option State → Prop
  | none => True
  | some t => Steady s t

def Steady.opt₂ {α : Type} (s : State) : Option (α × State) → Prop
  | none => True
  | some p => Steady s p.2

theorem Steady.opt_some {s : State} {o : Option State} (h : Steady.opt s o) : ∀ t, o = some t → Steady s t := by
  rintro t rfl; exact h

theorem Steady.opt₂_some {α : Type} {s : State} {o : Option (α × State)} (h : Steady.opt₂ s o) :
    ∀ t, o = some t → Steady s t.2 := by
  rintro t rfl; exact h

theorem Steady.opt_of {s : State} {o : Option State} (h : ∀ t, o = some t → Steady s t) : Steady.opt s o := by
  cases o with
  | none => exact trivial
  | some t => exact h t rfl

theorem Steady.opt₂_of {α : Type} {s : State} {o : Option (α × State)} (h : ∀ t, o = some t → Steady s t.2) :
    Steady.opt₂ s o := by
  cases o with
  | none => exact trivial
  | some t => exact h t rfl

theorem Steady.opt_eq {s t : State} {o : Option State} (h : o = some t) (k : Steady.opt s o) : Steady s t := by
  subst h; exact k

theorem Steady.opt₂_eq {α : Type} {s t : State} {v : α} {o : Option (α × State)} (h : o = some (v, t))
    (k : Steady.opt₂ s o) : Steady s t := by
  subst h; exact k

theorem Steady.opt_trans {s t : State} {o : Option State} (h : Steady s t) (k : Steady.opt t o) : Steady.opt s o := by
  cases o with
  | none => exact trivial
  | some u => exact Steady.trans h k

theorem Steady.opt₂_trans {α : Type} {s t : State} {o : Option (α × State)} (h : Steady s t) (k : Steady.opt₂ t o) :
    Steady.opt₂ s o := by
  cases o with
  | none => exact trivial
  | some u => exact Steady.trans h k

theorem Steady.opt_none {s : State} : Steady.opt s none := trivial

theorem Steady.opt₂_none {α : Type} {s : State} : Steady.opt₂ (α := α) s none := trivial

theorem Steady.opt_intro {s t : State} (h : Steady s t) : Steady.opt s (some t) := h

theorem Steady.opt₂_intro {α : Type} {s : State} {p : α × State} (h : Steady s p.2) : Steady.opt₂ s (some p) := h

theorem Steady.opt₂_mk {α : Type} {s t : State} {v : α} (h : Steady s t) : Steady.opt₂ s (some (v, t)) := h

theorem Steady.cond {s a b : State} {c : Prop} {d : Decidable c} (h : Steady s a) (k : Steady s b) :
    Steady s (@ite State c d a b) := by
  split <;> assumption

theorem Steady.cond₁ {α : Type} {s : State} {a b : State × α} {c : Prop} {d : Decidable c} (h : Steady s a.1)
    (k : Steady s b.1) : Steady s (@ite (State × α) c d a b).1 := by
  split <;> assumption

theorem Steady.opt_map {s : State} {o : Option State} (f : State → State) (h : Steady.opt s o) (k : ∀ t, Steady t (f t)) :
    Steady.opt s (o.map f) := by
  cases o with
  | none => exact trivial
  | some t => exact Steady.trans h (k t)

theorem Steady.opt_map₂ {α : Type} {s : State} {o : Option (α × State)} (f : α × State → State) (h : Steady.opt₂ s o)
    (k : ∀ p, Steady p.2 (f p)) : Steady.opt s (o.map f) := by
  cases o with
  | none => exact trivial
  | some t => exact Steady.trans h (k t)

theorem Steady.opt₂_map {α : Type} {s : State} {o : Option State} (f : State → α × State) (h : Steady.opt s o)
    (k : ∀ t, Steady t (f t).2) : Steady.opt₂ s (o.map f) := by
  cases o with
  | none => exact trivial
  | some t => exact Steady.trans h (k t)

theorem Steady.opt₂_pair {α : Type} {s : State} (v : α) (o : Option State) (h : ∀ u, o = some u → Steady s u) :
    Steady.opt₂ s (o.map (fun u => (v, u))) := by
  cases o with
  | none => exact trivial
  | some u => exact h u rfl

theorem Steady.opt_via {s t : State} {o : Option State} (h : Steady s t) (k : Steady s t → Steady.opt s o) : Steady.opt s o := k h

theorem Steady.opt₂_via {α : Type} {s t : State} {o : Option (α × State)} (h : Steady s t) (k : Steady s t → Steady.opt₂ s o) :
    Steady.opt₂ s o := k h

/-- A change of memories that keeps their form, and of nothing that Steady names. -/
theorem Steady.ofForm {s t : State} (k : Kept s t) (mode : t.mode = s.mode) (ident : t.ident = s.ident)
    (kindle : t.kindle = s.kindle) (pins : t.pins = s.pins) (ftime : t.ftime = s.ftime) (core : t.core = s.core)
    (nor : t.xspi.nor = s.xspi.nor) (records : t.xspi.sectors = s.xspi.sectors) : Steady s t :=
  ⟨k, mode, ident, kindle, pins, ftime, core, nor, records⟩

theorem State.setObj_steady (s : State) (k v : Nat) : Steady s (s.setObj k v) :=
  ⟨s.setObj_kept k v, rfl, rfl, rfl, rfl, rfl, rfl, rfl, rfl⟩

theorem State.emit_steady (s : State) (m : Msg) : Steady s (s.emit m) :=
  ⟨s.emit_kept m, rfl, rfl, rfl, rfl, rfl, rfl, rfl, rfl⟩

theorem State.emits_steady (s : State) (ms : List Msg) : Steady s (s.emits ms) :=
  ⟨s.emits_kept ms, rfl, rfl, rfl, rfl, rfl, rfl, rfl, rfl⟩

theorem State.takeFree_steady (s : State) : Steady s (s.takeFree).2 :=
  ⟨s.takeFree_kept, rfl, rfl, rfl, rfl, rfl, rfl, rfl, rfl⟩

theorem State.writeMem_steady (s : State) (a : Nat) (bs : List Byte) : Steady s (s.writeMem a bs) :=
  ⟨s.writeMem_kept a bs, rfl, rfl, rfl, rfl, rfl, rfl, rfl, rfl⟩

theorem State.writeMemNat_steady (s : State) (a n v : Nat) : Steady s (s.writeMemNat a n v) :=
  ⟨s.writeMemNat_kept a n v, rfl, rfl, rfl, rfl, rfl, rfl, rfl, rfl⟩

theorem State.writeLp_steady (s : State) (a : Nat) (bs : List Byte) : Steady s (s.writeLp a bs) :=
  ⟨s.writeLp_kept a bs, rfl, rfl, rfl, rfl, rfl, rfl, rfl, rfl⟩

/-! ### The same for Still -/

theorem Still.kept {s t : State} (h : Still s t) : Kept s t := h.steady.kept

theorem Still.refl (s : State) : Still s s := ⟨Steady.refl s, rfl, rfl⟩

theorem Still.trans {s t u : State} (h : Still s t) (k : Still t u) : Still s u :=
  ⟨h.steady.trans k.steady, k.mem.trans h.mem, k.lp.trans h.lp⟩

/-- An update that leaves the queue, the output, the memories, the objects and what Steady names alone. -/
theorem Still.fields {s X : State} (h : Still s X)
    {dict} {therm} {xspi} {soot} {log} {digests} {seq} {steps} {accepted} {tables} {stores} {job} {colls} {bellows} {pool} {dies} {flue} {fabric}
    (hd : dict.mbBuf = X.dict.mbBuf) (hx : xspi.nor = X.xspi.nor ∧ xspi.sectors = X.xspi.sectors) :
    Still s
      { pending := X.pending, core := X.core, mode := X.mode, ident := X.ident, objs := X.objs, kindle := X.kindle,
        dict := dict, pins := X.pins, ftime := X.ftime, therm := therm, xspi := xspi, soot := soot,
        log := log, digests := digests, seq := seq, steps := steps, accepted := accepted, tables := tables,
        stores := stores, job := job, colls := colls, bellows := bellows, pool := pool, dies := dies, flue := flue,
        fabric := fabric, mem := X.mem, lp := X.lp, free := X.free, egress := X.egress } :=
  h.trans ⟨Steady.fields (Steady.refl X) hd hx, rfl, rfl⟩

theorem Still.via {s t u : State} (h : Still s t) (k : Still s t → Still s u) : Still s u := k h

theorem Still.eq₁ {α : Type} {s t : State} {p : State × α} {v : α} (h : p = (t, v)) (k : Still s p.1) : Still s t := by
  subst h; exact k

theorem Still.eq₂ {α : Type} {s t : State} {p : α × State} {v : α} (h : p = (v, t)) (k : Still s p.2) : Still s t := by
  subst h; exact k

theorem Still.foldl {α : Type} {s t : State} (f : State → α → State) (l : List α) (h : Still s t)
    (k : ∀ x a, Still x (f x a)) : Still s (l.foldl f t) := by
  induction l generalizing t with
  | nil => exact h
  | cons a l ih => exact ih (h.trans (k t a))

theorem Still.foldl₁ {α β : Type} {s : State} {t : State × β} (f : State × β → α → State × β) (l : List α)
    (h : Still s t.1) (k : ∀ x a, Still x.1 (f x a).1) : Still s (l.foldl f t).1 := by
  induction l generalizing t with
  | nil => exact h
  | cons a l ih => exact ih (h.trans (k t a))

theorem Still.foldl₂ {α β : Type} {s : State} {t : β × State} (f : β × State → α → β × State) (l : List α)
    (h : Still s t.2) (k : ∀ x a, Still x.2 (f x a).2) : Still s (l.foldl f t).2 := by
  induction l generalizing t with
  | nil => exact h
  | cons a l ih => exact ih (h.trans (k t a))

def Still.opt (s : State) : Option State → Prop
  | none => True
  | some t => Still s t

def Still.opt₂ {α : Type} (s : State) : Option (α × State) → Prop
  | none => True
  | some p => Still s p.2

theorem Still.opt_some {s : State} {o : Option State} (h : Still.opt s o) : ∀ t, o = some t → Still s t := by
  rintro t rfl; exact h

theorem Still.opt₂_some {α : Type} {s : State} {o : Option (α × State)} (h : Still.opt₂ s o) :
    ∀ t, o = some t → Still s t.2 := by
  rintro t rfl; exact h

theorem Still.opt_of {s : State} {o : Option State} (h : ∀ t, o = some t → Still s t) : Still.opt s o := by
  cases o with
  | none => exact trivial
  | some t => exact h t rfl

theorem Still.opt₂_of {α : Type} {s : State} {o : Option (α × State)} (h : ∀ t, o = some t → Still s t.2) :
    Still.opt₂ s o := by
  cases o with
  | none => exact trivial
  | some t => exact h t rfl

theorem Still.opt_eq {s t : State} {o : Option State} (h : o = some t) (k : Still.opt s o) : Still s t := by
  subst h; exact k

theorem Still.opt₂_eq {α : Type} {s t : State} {v : α} {o : Option (α × State)} (h : o = some (v, t))
    (k : Still.opt₂ s o) : Still s t := by
  subst h; exact k

theorem Still.opt_trans {s t : State} {o : Option State} (h : Still s t) (k : Still.opt t o) : Still.opt s o := by
  cases o with
  | none => exact trivial
  | some u => exact Still.trans h k

theorem Still.opt₂_trans {α : Type} {s t : State} {o : Option (α × State)} (h : Still s t) (k : Still.opt₂ t o) :
    Still.opt₂ s o := by
  cases o with
  | none => exact trivial
  | some u => exact Still.trans h k

theorem Still.opt_none {s : State} : Still.opt s none := trivial

theorem Still.opt₂_none {α : Type} {s : State} : Still.opt₂ (α := α) s none := trivial

theorem Still.opt_intro {s t : State} (h : Still s t) : Still.opt s (some t) := h

theorem Still.opt₂_intro {α : Type} {s : State} {p : α × State} (h : Still s p.2) : Still.opt₂ s (some p) := h

theorem Still.opt₂_mk {α : Type} {s t : State} {v : α} (h : Still s t) : Still.opt₂ s (some (v, t)) := h

theorem Still.cond {s a b : State} {c : Prop} {d : Decidable c} (h : Still s a) (k : Still s b) :
    Still s (@ite State c d a b) := by
  split <;> assumption

theorem Still.cond₁ {α : Type} {s : State} {a b : State × α} {c : Prop} {d : Decidable c} (h : Still s a.1)
    (k : Still s b.1) : Still s (@ite (State × α) c d a b).1 := by
  split <;> assumption

theorem Still.opt_map {s : State} {o : Option State} (f : State → State) (h : Still.opt s o) (k : ∀ t, Still t (f t)) :
    Still.opt s (o.map f) := by
  cases o with
  | none => exact trivial
  | some t => exact Still.trans h (k t)

theorem Still.opt_map₂ {α : Type} {s : State} {o : Option (α × State)} (f : α × State → State) (h : Still.opt₂ s o)
    (k : ∀ p, Still p.2 (f p)) : Still.opt s (o.map f) := by
  cases o with
  | none => exact trivial
  | some t => exact Still.trans h (k t)

theorem Still.opt₂_map {α : Type} {s : State} {o : Option State} (f : State → α × State) (h : Still.opt s o)
    (k : ∀ t, Still t (f t).2) : Still.opt₂ s (o.map f) := by
  cases o with
  | none => exact trivial
  | some t => exact Still.trans h (k t)

theorem Still.opt₂_pair {α : Type} {s : State} (v : α) (o : Option State) (h : ∀ u, o = some u → Still s u) :
    Still.opt₂ s (o.map (fun u => (v, u))) := by
  cases o with
  | none => exact trivial
  | some u => exact h u rfl

theorem Still.opt_via {s t : State} {o : Option State} (h : Still s t) (k : Still s t → Still.opt s o) : Still.opt s o := k h

theorem Still.opt₂_via {α : Type} {s t : State} {o : Option (α × State)} (h : Still s t) (k : Still s t → Still.opt₂ s o) :
    Still.opt₂ s o := k h

theorem State.setObj_still (s : State) (k v : Nat) : Still s (s.setObj k v) := ⟨s.setObj_steady k v, rfl, rfl⟩

theorem State.emit_still (s : State) (m : Msg) : Still s (s.emit m) := ⟨s.emit_steady m, rfl, rfl⟩

theorem State.emits_still (s : State) (ms : List Msg) : Still s (s.emits ms) := ⟨s.emits_steady ms, rfl, rfl⟩

theorem State.takeFree_still (s : State) : Still s (s.takeFree).2 := ⟨s.takeFree_steady, rfl, rfl⟩

end Sys2Proof.Machine
end

