-- ==== Sys2Proof/Laws/Kept/Ops.lean ====
section
/-!
SUPPORT. What the operations of Machine/Ops.lean keep (Safety.lean: Still, Steady, or Kept).
-/

namespace Sys2Proof.Machine

theorem State.count_still (s : State) (k : ℕ) (n : ℕ) :
    Still s (State.count s k n) := by
  unfold State.count
  repeat' (first
    | with_reducible assumption
    | with_reducible exact Still.refl _
    | with_reducible apply Still.trans _ (State.setObj_still ..))

theorem State.setStep_still (s : State) (b : Bool) (t : Step) :
    Still s (State.setStep s b t) := by
  unfold State.setStep
  repeat' (first
    | with_reducible assumption
    | with_reducible exact Still.refl _
    | split
    | (with_reducible refine Still.fields ?_ rfl ⟨rfl, rfl⟩; first | with_reducible assumption | with_reducible exact Still.refl _))

theorem State.onStep_still (s : State) (b : Bool) (f : Step → Step) :
    Still s (State.onStep s b f) := by
  unfold State.onStep
  repeat' (first
    | with_reducible assumption
    | with_reducible exact Still.refl _
    | with_reducible apply Still.trans _ (State.setStep_still ..)
    | split)

theorem State.toGate_still (s : State) (rack : ℕ) (m : EngMsg) :
    Still s (State.toGate s rack m) := by
  unfold State.toGate
  repeat' (first
    | with_reducible assumption
    | with_reducible exact Still.refl _
    | with_reducible apply Still.trans _ (State.emit_still ..)
    | split)

theorem State.toPeer_still (s : State) (m : EngMsg) :
    Still s (State.toPeer s m) := by
  unfold State.toPeer
  repeat' (first
    | with_reducible assumption
    | with_reducible exact Still.refl _
    | with_reducible apply Still.trans _ (State.emit_still ..)
    | split)

theorem State.setDie_still (s : State) (port : ℕ) (d : DiePort) :
    Still s (State.setDie s port d) := by
  unfold State.setDie
  repeat' (first
    | with_reducible assumption
    | with_reducible exact Still.refl _
    | split
    | (with_reducible refine Still.fields ?_ rfl ⟨rfl, rfl⟩; first | with_reducible assumption | with_reducible exact Still.refl _))

end Sys2Proof.Machine
end

