-- ==== Sys2Proof/Laws/Kept/Access.lean ====
section
/-!
SUPPORT. What the operations of Machine/Access.lean keep (Safety.lean: Still, Steady, or Kept).
-/

namespace Sys2Proof.Machine

theorem State.setPort_still (s : State) (r : Sys2Proof.OdReq) (data : BitVec 64) :
    Still s (State.setPort s r data) := by
  unfold State.setPort
  repeat' (first
    | with_reducible assumption
    | with_reducible exact Still.refl _
    | split
    | (with_reducible refine Still.fields ?_ rfl ⟨rfl, rfl⟩; first | with_reducible assumption | with_reducible exact Still.refl _))

theorem State.respond_still (s : State) (tag : ReqTag) (op st : ℕ) (data : List Sys2Proof.Byte) :
    Still s (State.respond s tag op st data) := by
  unfold State.respond
  repeat' (first
    | with_reducible assumption
    | with_reducible exact Still.refl _
    | with_reducible apply Still.trans _ (State.emit_still ..)
    | split
    | with_reducible refine Still.fields ?_ rfl ⟨rfl, rfl⟩)

theorem State.answer_still (s : State) (r : Sys2Proof.OdReq) (op : ℕ) (st : ℕ) (data : List Sys2Proof.Byte) :
    Still s (State.answer s r op st data) := by
  unfold State.answer
  repeat' (first
    | with_reducible assumption
    | with_reducible exact Still.refl _
    | with_reducible apply Still.trans _ (State.respond_still ..)
    | (extract_lets +onlyGivenNames x
       first
       | (refine Still.via (t := x) ?side (fun hx => ?main); (case' side => subst x); (case' main => (clear_value x; revert x; intro _ _)))
       | subst x)
    | with_reducible apply Still.trans _ (State.count_still ..)
    | with_reducible apply Still.trans _ (State.emit_still ..)
    | split
    | dsimp -zeta only
    | (with_reducible refine Still.fields ?_ rfl ⟨rfl, rfl⟩; with_reducible assumption))

theorem State.onRequest_still (s : State) (r : Sys2Proof.OdReq) (scalar : Bool) (run : State → State) (hrun : ∀ x0, Still x0 (run x0)) :
    Still s (State.onRequest s r scalar run) := by
  unfold State.onRequest
  repeat' (first
    | with_reducible assumption
    | with_reducible exact Still.refl _
    | with_reducible apply Still.trans _ (State.respond_still ..)
    | with_reducible apply Still.trans _ (State.count_still ..)
    | with_reducible apply Still.trans _ (State.emit_still ..)
    | split
    | with_reducible apply Still.trans _ (hrun ..))

theorem State.onRequest_steady (s : State) (r : Sys2Proof.OdReq) (scalar : Bool) (run : State → State) (hrun : ∀ x0, Steady x0 (run x0)) :
    Steady s (State.onRequest s r scalar run) := by
  unfold State.onRequest
  repeat' (first
    | with_reducible assumption
    | with_reducible exact Steady.refl _
    | with_reducible apply Steady.trans _ (State.respond_still ..).steady
    | with_reducible apply Steady.trans _ (State.count_still ..).steady
    | with_reducible apply Steady.trans _ (State.emit_steady ..)
    | split
    | with_reducible apply Steady.trans _ (hrun ..))

theorem State.onRequest_kept (s : State) (r : Sys2Proof.OdReq) (scalar : Bool) (run : State → State) (hrun : ∀ x0, Kept x0 (run x0)) :
    Kept s (State.onRequest s r scalar run) := by
  unfold State.onRequest
  repeat' (first
    | with_reducible assumption
    | with_reducible exact Kept.refl _
    | with_reducible apply Kept.trans _ (State.respond_still ..).kept
    | with_reducible apply Kept.trans _ (State.count_still ..).kept
    | with_reducible apply Kept.trans _ (State.emit_kept ..)
    | split
    | with_reducible apply Kept.trans _ (hrun ..))

theorem odWrite_still (s : State) (r : Sys2Proof.OdReq) (own : OwnRules) (eff : State → State) (heff : ∀ x0, Still x0 (eff x0)) :
    Still s (odWrite s r own eff) := by
  unfold odWrite
  repeat' (first
    | with_reducible assumption
    | with_reducible exact Still.refl _
    | with_reducible apply Still.trans _ (State.onRequest_still _ _ _ _ (fun _ => ?_))
    | with_reducible apply Still.trans _ (State.setPort_still ..)
    | with_reducible apply Still.trans _ (State.answer_still ..)
    | split
    | with_reducible apply Still.trans _ (heff ..))

theorem odWrite_steady (s : State) (r : Sys2Proof.OdReq) (own : OwnRules) (eff : State → State) (heff : ∀ x0, Steady x0 (eff x0)) :
    Steady s (odWrite s r own eff) := by
  unfold odWrite
  repeat' (first
    | with_reducible assumption
    | with_reducible exact Steady.refl _
    | with_reducible apply Steady.trans _ (State.onRequest_steady _ _ _ _ (fun _ => ?_))
    | with_reducible apply Steady.trans _ (State.setPort_still ..).steady
    | with_reducible apply Steady.trans _ (State.answer_still ..).steady
    | split
    | with_reducible apply Steady.trans _ (heff ..))

theorem odWrite_kept (s : State) (r : Sys2Proof.OdReq) (own : OwnRules) (eff : State → State) (heff : ∀ x0, Kept x0 (eff x0)) :
    Kept s (odWrite s r own eff) := by
  unfold odWrite
  repeat' (first
    | with_reducible assumption
    | with_reducible exact Kept.refl _
    | with_reducible apply Kept.trans _ (State.onRequest_kept _ _ _ _ (fun _ => ?_))
    | with_reducible apply Kept.trans _ (State.setPort_still ..).kept
    | with_reducible apply Kept.trans _ (State.answer_still ..).kept
    | split
    | with_reducible apply Kept.trans _ (heff ..))

theorem plainEffect_still (r : Sys2Proof.OdReq) (s : State) :
    Still s (plainEffect r s) := by
  unfold plainEffect
  repeat' (first
    | with_reducible assumption
    | with_reducible exact Still.refl _
    | with_reducible apply Still.trans _ (State.setObj_still ..))

end Sys2Proof.Machine
end

