-- ==== Sys2Proof/Laws/Kept/Flags.lean ====
section
/-!
SUPPORT. What the operations of Machine/Flags.lean keep (Safety.lean: Still, Steady, or Kept).
-/

namespace Sys2Proof.Machine

theorem State.logBytes_steady (s : State) (bs : List Sys2Proof.Byte) :
    Steady s (State.logBytes s bs) := by
  unfold State.logBytes
  repeat' (first
    | with_reducible assumption
    | with_reducible exact Steady.refl _
    | with_reducible apply Steady.trans _ (State.writeLp_steady ..)
    | with_reducible apply Steady.trans _ (State.count_still ..).steady
    | split)

theorem State.closeSegment_steady (s : State) :
    Steady s (State.closeSegment s) := by
  unfold State.closeSegment
  repeat' (first
    | with_reducible assumption
    | with_reducible exact Steady.refl _
    | (extract_lets +onlyGivenNames x
       first
       | (refine Steady.via (t := x) ?side (fun hx => ?main); (case' side => subst x); (case' main => (clear_value x; revert x; intro _ _)))
       | subst x)
    | with_reducible apply Steady.trans _ (State.logBytes_steady ..)
    | split
    | dsimp -zeta only
    | (with_reducible refine Steady.fields ?_ rfl ⟨rfl, rfl⟩; with_reducible assumption))

theorem State.logPut_steady (s : State) (e : LogEntry) :
    Steady s (State.logPut s e) := by
  unfold State.logPut
  repeat' (first
    | with_reducible assumption
    | with_reducible exact Steady.refl _
    | (extract_lets +onlyGivenNames x
       first
       | (refine Steady.via (t := x) ?side (fun hx => ?main); (case' side => subst x); (case' main => (clear_value x; revert x; intro _ _)))
       | subst x)
    | with_reducible apply Steady.trans _ (State.closeSegment_steady ..)
    | with_reducible apply Steady.trans _ (State.logBytes_steady ..)
    | with_reducible apply Steady.foldl _ _ _ (fun _ _ => ?_)
    | with_reducible apply Steady.foldl₁ _ _ _ (fun _ _ => ?_)
    | with_reducible apply Steady.foldl₂ _ _ _ (fun _ _ => ?_)
    | split
    | with_reducible refine Steady.eq₁ (by with_reducible assumption) ?_
    | with_reducible refine Steady.eq₂ (by with_reducible assumption) ?_
    | with_reducible refine Steady.opt_eq (by with_reducible assumption) ?_
    | with_reducible refine Steady.opt₂_eq (by with_reducible assumption) ?_
    | dsimp -zeta only
    | with_reducible refine Steady.fields ?_ rfl ⟨rfl, rfl⟩)

theorem State.logRecord_steady (s : State) (e : LogEntry) :
    Steady s (State.logRecord s e) := by
  unfold State.logRecord
  repeat' (first
    | with_reducible assumption
    | with_reducible exact Steady.refl _
    | (extract_lets +onlyGivenNames x
       subst x)
    | with_reducible apply Steady.trans _ (State.logPut_steady ..)
    | with_reducible apply Steady.foldl _ _ _ (fun _ _ => ?_)
    | with_reducible apply Steady.foldl₁ _ _ _ (fun _ _ => ?_)
    | with_reducible apply Steady.foldl₂ _ _ _ (fun _ _ => ?_)
    | split
    | with_reducible refine Steady.eq₁ (by with_reducible assumption) ?_
    | with_reducible refine Steady.eq₂ (by with_reducible assumption) ?_
    | with_reducible refine Steady.opt_eq (by with_reducible assumption) ?_
    | with_reducible refine Steady.opt₂_eq (by with_reducible assumption) ?_
    | dsimp -zeta only
    | with_reducible refine Steady.fields ?_ rfl ⟨rfl, rfl⟩)

theorem State.logStep_steady (s : State) (ty : ℕ) (t : Step) (payload : List Sys2Proof.Byte) :
    Steady s (State.logStep s ty t payload) := by
  unfold State.logStep
  repeat' (first
    | with_reducible assumption
    | with_reducible exact Steady.refl _
    | with_reducible apply Steady.trans _ (State.logRecord_steady ..))

theorem State.postStatus_steady (s : State) (r : BitVec 128) :
    Steady s (State.postStatus s r) := by
  unfold State.postStatus
  repeat' (first
    | with_reducible assumption
    | with_reducible exact Steady.refl _
    | (extract_lets +onlyGivenNames x
       first
       | (refine Steady.via (t := x) ?side (fun hx => ?main); (case' side => subst x); (case' main => (clear_value x; revert x; intro _ _)))
       | subst x)
    | with_reducible apply Steady.trans _ (State.count_still ..).steady
    | with_reducible apply Steady.trans _ (State.writeMem_steady ..)
    | split)

theorem State.alert_still (s : State) (bit : ℕ) :
    Still s (State.alert s bit) := by
  unfold State.alert
  repeat' (first
    | with_reducible assumption
    | with_reducible exact Still.refl _
    | with_reducible apply Still.trans _ (State.setObj_still ..))

theorem State.sootAlert_still (s : State) (sev : ℕ) :
    Still s (State.sootAlert s sev) := by
  unfold State.sootAlert
  repeat' (first
    | with_reducible assumption
    | with_reducible exact Still.refl _
    | with_reducible apply Still.trans _ (State.alert_still ..)
    | split)

theorem State.sootWrite_still (s : State) (e : SootEv) :
    Still s (State.sootWrite s e) := by
  unfold State.sootWrite
  repeat' (first
    | with_reducible assumption
    | with_reducible exact Still.refl _
    | (extract_lets +onlyGivenNames x
       first
       | (refine Still.via (t := x) ?side (fun hx => ?main); (case' side => subst x); (case' main => (clear_value x; revert x; intro _ _)))
       | subst x)
    | with_reducible apply Still.trans _ (State.sootAlert_still ..)
    | with_reducible apply Still.trans _ (State.count_still ..)
    | with_reducible apply Still.foldl _ _ _ (fun _ _ => ?_)
    | with_reducible apply Still.foldl₁ _ _ _ (fun _ _ => ?_)
    | with_reducible apply Still.foldl₂ _ _ _ (fun _ _ => ?_)
    | split
    | with_reducible refine Still.eq₁ (by with_reducible assumption) ?_
    | with_reducible refine Still.eq₂ (by with_reducible assumption) ?_
    | with_reducible refine Still.opt_eq (by with_reducible assumption) ?_
    | with_reducible refine Still.opt₂_eq (by with_reducible assumption) ?_
    | dsimp -zeta only
    | with_reducible refine Still.fields ?_ rfl ⟨rfl, rfl⟩)

theorem State.soot__still (s : State) (e : SootEv) :
    Still s (State.soot_ s e) := by
  unfold State.soot_
  repeat' (first
    | with_reducible assumption
    | with_reducible exact Still.refl _
    | (extract_lets +onlyGivenNames x
       subst x)
    | with_reducible apply Still.trans _ (State.count_still ..)
    | with_reducible apply Still.trans _ (State.sootWrite_still ..)
    | with_reducible apply Still.foldl _ _ _ (fun _ _ => ?_)
    | with_reducible apply Still.foldl₁ _ _ _ (fun _ _ => ?_)
    | with_reducible apply Still.foldl₂ _ _ _ (fun _ _ => ?_)
    | split
    | with_reducible refine Still.eq₁ (by with_reducible assumption) ?_
    | with_reducible refine Still.eq₂ (by with_reducible assumption) ?_
    | with_reducible refine Still.opt_eq (by with_reducible assumption) ?_
    | with_reducible refine Still.opt₂_eq (by with_reducible assumption) ?_
    | dsimp -zeta only
    | with_reducible refine Still.fields ?_ rfl ⟨rfl, rfl⟩)

theorem State.logFree_steady (s : State) (ty : ℕ) (payload : List Sys2Proof.Byte) :
    Steady s (State.logFree s ty payload) := by
  unfold State.logFree
  repeat' (first
    | with_reducible assumption
    | with_reducible exact Steady.refl _
    | with_reducible apply Steady.trans _ (State.logRecord_steady ..))

theorem State.orHold_still (s : State) (h : LogHeld) (ns : List ℕ) (apply : State → State) (happly : ∀ x0, Still x0 (apply x0)) :
    Still s (State.orHold s h ns apply) := by
  unfold State.orHold
  repeat' (first
    | with_reducible assumption
    | with_reducible exact Still.refl _
    | split
    | with_reducible apply Still.trans _ (happly ..)
    | (with_reducible refine Still.fields ?_ rfl ⟨rfl, rfl⟩; first | with_reducible assumption | with_reducible exact Still.refl _))

theorem State.orHold_steady (s : State) (h : LogHeld) (ns : List ℕ) (apply : State → State) (happly : ∀ x0, Steady x0 (apply x0)) :
    Steady s (State.orHold s h ns apply) := by
  unfold State.orHold
  repeat' (first
    | with_reducible assumption
    | with_reducible exact Steady.refl _
    | split
    | with_reducible apply Steady.trans _ (happly ..)
    | (with_reducible refine Steady.fields ?_ rfl ⟨rfl, rfl⟩; first | with_reducible assumption | with_reducible exact Steady.refl _))

theorem State.orHold_kept (s : State) (h : LogHeld) (ns : List ℕ) (apply : State → State) (happly : ∀ x0, Kept x0 (apply x0)) :
    Kept s (State.orHold s h ns apply) := by
  unfold State.orHold
  repeat' (first
    | with_reducible assumption
    | with_reducible exact Kept.refl _
    | split
    | with_reducible apply Kept.trans _ (happly ..)
    | (with_reducible refine Kept.fields ?_ rfl rfl; first | with_reducible assumption | with_reducible exact Kept.refl _))

theorem drainEntries_steady (a0 : List LogEntry) (a1 : State) :
    Steady a1 (drainEntries a0 a1) := by
  induction a0 generalizing a1 with
  | nil => exact Steady.refl _
  | cons e es ih =>
    unfold drainEntries
    split
    · exact (State.logPut_steady ..).trans (ih _)
    · exact Steady.fields (Steady.refl a1) rfl ⟨rfl, rfl⟩

end Sys2Proof.Machine
end

