-- ==== Sys2Proof/Laws/Kept/Issue.lean ====
section
/-!
SUPPORT. What the operations of Machine/Issue.lean keep (Safety.lean: Still, Steady, or Kept).
-/

namespace Sys2Proof.Machine

theorem State.freeAddr_still (s : State) :
    Still s (State.freeAddr s).2 := by
  unfold State.freeAddr
  repeat' (first
    | with_reducible assumption
    | with_reducible exact Still.refl _
    | with_reducible apply Still.trans _ (State.takeFree_still ..))

theorem State.freeLen_still (s : State) :
    Still s (State.freeLen s).2 := by
  unfold State.freeLen
  repeat' (first
    | with_reducible assumption
    | with_reducible exact Still.refl _
    | with_reducible apply Still.trans _ (State.takeFree_still ..))

theorem State.emitAttempt_still (s : State) (o : FabOp) (port : Bool) :
    Still s (State.emitAttempt s o port) := by
  unfold State.emitAttempt
  repeat' (first
    | with_reducible assumption
    | with_reducible exact Still.refl _
    | with_reducible apply Still.trans _ (State.emits_still ..)
    | with_reducible apply Still.trans _ (State.emit_still ..)
    | split)

theorem State.issueOn_still (s : State) (port : Bool) (tag : ℕ) (w : FabWait) :
    Still s (State.issueOn s port tag w) := by
  unfold State.issueOn
  repeat' (first
    | with_reducible assumption
    | with_reducible exact Still.refl _
    | with_reducible apply Still.trans _ (State.emitAttempt_still ..)
    | split
    | (with_reducible refine Still.fields ?_ rfl ⟨rfl, rfl⟩; first | with_reducible assumption | with_reducible exact Still.refl _))

theorem State.setArb_still (s : State) (port : Bool) (a : Arb) :
    Still s (State.setArb s port a) := by
  unfold State.setArb
  repeat' (first
    | with_reducible assumption
    | with_reducible exact Still.refl _
    | split
    | (with_reducible refine Still.fields ?_ rfl ⟨rfl, rfl⟩; first | with_reducible assumption | with_reducible exact Still.refl _))

theorem State.pumpPort_still (port : Bool) (a1 : ℕ) (a2 : State) :
    Still a2 (State.pumpPort port a1 a2) := by
  induction a1 generalizing a2 with
  | zero => exact Still.refl _
  | succ n ih =>
    unfold State.pumpPort
    split
    · exact ((State.setArb_still ..).trans (State.issueOn_still ..)).trans (ih _)
    · exact Still.refl _

theorem State.countFlows_still (s : State) (port : Bool) (more : List FabWait) :
    Still s (State.countFlows s port more) := by
  unfold State.countFlows
  repeat' (first
    | with_reducible assumption
    | with_reducible exact Still.refl _
    | (extract_lets +onlyGivenNames x
       subst x)
    | with_reducible apply Still.trans _ (State.setArb_still ..)
    | split)

theorem State.pumpFab_still (s : State) :
    Still s (State.pumpFab s) := by
  unfold State.pumpFab
  repeat' (first
    | with_reducible assumption
    | with_reducible exact Still.refl _
    | with_reducible apply Still.trans _ (State.pumpPort_still ..)
    | with_reducible apply Still.trans _ (State.countFlows_still ..)
    | split)

theorem State.request_still (s : State) (w : FabWait) :
    Still s (State.request s w) := by
  unfold State.request
  repeat' (first
    | with_reducible assumption
    | with_reducible exact Still.refl _
    | with_reducible apply Still.trans _ (State.pumpFab_still ..)
    | split
    | (with_reducible refine Still.fields ?_ rfl ⟨rfl, rfl⟩; first | with_reducible assumption | with_reducible exact Still.refl _))

theorem State.requestTo_still (s : State) (dst : ℕ) (op : ℕ) (tclass : ℕ) (len : ℕ) (efmt : ℕ) (addr : ℕ) (body : FabBody) (serve : Serve) :
    Still s (State.requestTo s dst op tclass len efmt addr body serve) := by
  unfold State.requestTo
  repeat' (first
    | with_reducible assumption
    | with_reducible exact Still.refl _
    | with_reducible apply Still.trans _ (State.request_still ..))

theorem State.sendLen_still (s : State) (dst : ℕ) (tclass : ℕ) (m : EngMsg) (serve : Serve) (len : Option ℕ) :
    Still s (State.sendLen s dst tclass m serve len) := by
  unfold State.sendLen
  repeat' (first
    | with_reducible assumption
    | with_reducible exact Still.refl _
    | with_reducible apply Still.trans _ (State.toGate_still ..)
    | (extract_lets +onlyGivenNames x
       subst x)
    | with_reducible apply Still.trans _ (State.toPeer_still ..)
    | with_reducible apply Still.trans _ (State.freeAddr_still ..)
    | with_reducible apply Still.trans _ (State.freeLen_still ..)
    | with_reducible apply Still.trans _ (State.requestTo_still ..)
    | with_reducible apply Still.trans _ (State.emit_still ..)
    | with_reducible apply Still.foldl _ _ _ (fun _ _ => ?_)
    | with_reducible apply Still.foldl₁ _ _ _ (fun _ _ => ?_)
    | with_reducible apply Still.foldl₂ _ _ _ (fun _ _ => ?_)
    | split
    | with_reducible refine Still.eq₁ (by with_reducible assumption) ?_
    | with_reducible refine Still.eq₂ (by with_reducible assumption) ?_)

theorem State.dropFetches_still (s : State) (p : FetchUse → Bool) :
    Still s (State.dropFetches s p) := by
  unfold State.dropFetches
  repeat' (first
    | with_reducible assumption
    | with_reducible exact Still.refl _
    | split
    | (with_reducible refine Still.fields ?_ rfl ⟨rfl, rfl⟩; first | with_reducible assumption | with_reducible exact Still.refl _))

theorem State.mstore_still (s : State) (g : ℕ) (tclass : ℕ) (len : ℕ) (addr : ℕ) (body : FabBody) (serve : Serve) :
    Still s (State.mstore s g tclass len addr body serve) := by
  unfold State.mstore
  repeat' (first
    | with_reducible assumption
    | with_reducible exact Still.refl _
    | (extract_lets +onlyGivenNames x
       subst x)
    | with_reducible apply Still.trans _ (State.soot__still ..)
    | with_reducible apply Still.trans _ (State.request_still ..)
    | split)

theorem State.sendMsg_still (s : State) (dst : ℕ) (tclass : ℕ) (m : EngMsg) (serve : Serve) :
    Still s (State.sendMsg s dst tclass m serve) := by
  unfold State.sendMsg
  repeat' (first
    | with_reducible assumption
    | with_reducible exact Still.refl _
    | with_reducible apply Still.trans _ (State.sendLen_still ..))

theorem State.sendAll_still (s : State) (dsts : List ℕ) (tclass : ℕ) (m : EngMsg) (serve : Serve) :
    Still s (State.sendAll s dsts tclass m serve) := by
  unfold State.sendAll
  repeat' (first
    | with_reducible assumption
    | with_reducible exact Still.refl _
    | (extract_lets +onlyGivenNames x
       subst x)
    | with_reducible apply Still.trans _ (State.sendMsg_still ..)
    | with_reducible apply Still.foldl _ _ _ (fun _ _ => ?_))

theorem State.dropFetch_still (s : State) (use : FetchUse) :
    Still s (State.dropFetch s use) := by
  unfold State.dropFetch
  repeat' (first
    | with_reducible assumption
    | with_reducible exact Still.refl _
    | with_reducible apply Still.trans _ (State.dropFetches_still ..))

theorem State.loadRange_still (s : State) (use : FetchUse) (id : ℕ) (node : ℕ) (addr : ℕ) (len : ℕ) :
    Still s (State.loadRange s use id node addr len) := by
  unfold State.loadRange
  repeat' (first
    | with_reducible assumption
    | with_reducible exact Still.refl _
    | (extract_lets +onlyGivenNames x
       subst x)
    | with_reducible apply Still.trans _ (State.requestTo_still ..)
    | with_reducible apply Still.foldl _ _ _ (fun _ _ => ?_))

theorem State.fetch_still (s : State) (use : FetchUse) (ranges : List (ℕ × ℕ × ℕ)) :
    Still s (State.fetch s use ranges) := by
  unfold State.fetch
  repeat' (first
    | with_reducible assumption
    | with_reducible exact Still.refl _
    | (extract_lets +onlyGivenNames x
       subst x)
    | with_reducible apply Still.trans _ (State.loadRange_still ..)
    | with_reducible apply Still.foldl _ _ _ (fun _ _ => ?_)
    | with_reducible apply Still.foldl₁ _ _ _ (fun _ _ => ?_)
    | with_reducible apply Still.foldl₂ _ _ _ (fun _ _ => ?_)
    | split
    | with_reducible refine Still.eq₁ (by with_reducible assumption) ?_
    | with_reducible refine Still.eq₂ (by with_reducible assumption) ?_
    | with_reducible refine Still.opt_eq (by with_reducible assumption) ?_
    | with_reducible refine Still.opt₂_eq (by with_reducible assumption) ?_
    | dsimp -zeta only
    | with_reducible refine Still.fields ?_ rfl ⟨rfl, rfl⟩)

theorem State.takeLoad_still (s : State) (id : ℕ) (dst : ℕ) (addr : ℕ) (bs : List Sys2Proof.Byte) :
    Still s (State.takeLoad s id dst addr bs) := by
  unfold State.takeLoad
  repeat' (first
    | with_reducible assumption
    | with_reducible exact Still.refl _
    | split
    | (with_reducible refine Still.fields ?_ rfl ⟨rfl, rfl⟩; first | with_reducible assumption | with_reducible exact Still.refl _))

theorem State.closeOp_still (s : State) (o : FabOp) :
    Still s (State.closeOp s o) := by
  unfold State.closeOp
  repeat' (first
    | with_reducible assumption
    | with_reducible exact Still.refl _
    | with_reducible apply Still.trans _ (State.pumpFab_still ..)
    | split
    | (with_reducible refine Still.fields ?_ rfl ⟨rfl, rfl⟩; first | with_reducible assumption | with_reducible exact Still.refl _))

theorem State.updateOp_still (s : State) (o : FabOp) :
    Still s (State.updateOp s o) := by
  unfold State.updateOp
  repeat' (first
    | with_reducible assumption
    | with_reducible exact Still.refl _
    | split
    | (with_reducible refine Still.fields ?_ rfl ⟨rfl, rfl⟩; first | with_reducible assumption | with_reducible exact Still.refl _))

theorem State.nextAttempt_still (s : State) (o : FabOp) (port : Bool) :
    Still s (State.nextAttempt s o port) := by
  unfold State.nextAttempt
  repeat' (first
    | with_reducible assumption
    | with_reducible exact Still.refl _
    | with_reducible apply Still.trans _ (State.count_still ..)
    | with_reducible apply Still.trans _ (State.emitAttempt_still ..)
    | with_reducible apply Still.trans _ (State.updateOp_still ..))

theorem State.reply_still (s : State) (req : BitVec 256) (status : ℕ) (cached : Bool) (bytes : List Sys2Proof.Byte) (data : BitVec 64) :
    Still s (State.reply s req status cached bytes data) := by
  unfold State.reply
  repeat' (first
    | with_reducible assumption
    | with_reducible exact Still.refl _
    | with_reducible apply Still.trans _ (State.emit_still ..)
    | split)

end Sys2Proof.Machine
end

