-- ==== Sys2Proof/Laws/Kept/Layout.lean ====
section
/-!
SUPPORT. What the operations of Machine/Layout.lean keep (Safety.lean: Still, Steady, or Kept).
-/

namespace Sys2Proof.Machine

theorem State.countEnc_still (s : State) (c : EncCounts) :
    Still s (State.countEnc s c) := by
  unfold State.countEnc
  repeat' (first
    | with_reducible assumption
    | with_reducible exact Still.refl _
    | with_reducible apply Still.trans _ (State.count_still ..))

theorem State.writeOwn_steady (s : State) (ws : List (Piece × List Sys2Proof.Byte)) :
    Steady s (State.writeOwn s ws) := by
  unfold State.writeOwn
  repeat' (first
    | with_reducible assumption
    | with_reducible exact Steady.refl _
    | (extract_lets +onlyGivenNames x
       subst x)
    | with_reducible apply Steady.trans _ (State.writeMem_steady ..)
    | with_reducible apply Steady.foldl _ _ _ (fun _ _ => ?_)
    | with_reducible apply Steady.foldl₁ _ _ _ (fun _ _ => ?_)
    | with_reducible apply Steady.foldl₂ _ _ _ (fun _ _ => ?_)
    | split)

end Sys2Proof.Machine
end

