-- ==== Sys2Proof/Laws/Kept/Flue.lean ====
section
/-!
SUPPORT. What the operations of Machine/Flue.lean keep (Safety.lean: Still, Steady, or Kept).
-/

namespace Sys2Proof.Machine

theorem State.cancelEntries_still (s : State) (b : Bool) :
    Still s (State.cancelEntries s b) := by
  unfold State.cancelEntries
  repeat' (first
    | with_reducible assumption
    | with_reducible exact Still.refl _
    | split
    | (with_reducible refine Still.fields ?_ rfl ⟨rfl, rfl⟩; first | with_reducible assumption | with_reducible exact Still.refl _))

theorem State.dropRows_still (s : State) (keep : ℕ → Bool) :
    Still s (State.dropRows s keep) := by
  unfold State.dropRows
  repeat' (first
    | with_reducible assumption
    | with_reducible exact Still.refl _
    | split
    | (with_reducible refine Still.fields ?_ rfl ⟨rfl, rfl⟩; first | with_reducible assumption | with_reducible exact Still.refl _))

theorem State.setEntry_still (s : State) (e : ℕ) (l : LEntry) :
    Still s (State.setEntry s e l) := by
  unfold State.setEntry
  repeat' (first
    | with_reducible assumption
    | with_reducible exact Still.refl _
    | split
    | (with_reducible refine Still.fields ?_ rfl ⟨rfl, rfl⟩; first | with_reducible assumption | with_reducible exact Still.refl _))

theorem State.setPos_steady (s : State) (k : ℕ) (e : ℕ) (p : ℕ) (v : Position) :
    Steady s (State.setPos s k e p v) := by
  unfold State.setPos
  repeat' (first
    | with_reducible assumption
    | with_reducible exact Steady.refl _
    | with_reducible apply Steady.trans _ (State.setEntry_still ..).steady
    | with_reducible apply Steady.trans _ (State.writeMem_steady ..)
    | split)

theorem State.setRstate_steady (s : State) (k : ℕ) (e : ℕ) (p : ℕ) (rs : ℕ) (ctx : ℕ) :
    Steady s (State.setRstate s k e p rs ctx) := by
  unfold State.setRstate
  repeat' (first
    | with_reducible assumption
    | with_reducible exact Steady.refl _
    | with_reducible apply Steady.trans _ (State.setPos_steady ..))

theorem State.freeEntry_still (s : State) (e : ℕ) :
    Still s (State.freeEntry s e) := by
  unfold State.freeEntry
  repeat' (first
    | with_reducible assumption
    | with_reducible exact Still.refl _
    | with_reducible apply Still.trans _ (State.setEntry_still ..)
    | with_reducible apply Still.trans _ (State.dropFetch_still ..)
    | split
    | (with_reducible refine Still.fields ?_ rfl ⟨rfl, rfl⟩; first | with_reducible assumption | with_reducible exact Still.refl _))

theorem State.addFlueCtx_still (s : State) (n : ℕ) (u : FlueUse) :
    Still s (State.addFlueCtx s n u) := by
  unfold State.addFlueCtx
  repeat' (first
    | with_reducible assumption
    | with_reducible exact Still.refl _
    | split
    | (with_reducible refine Still.fields ?_ rfl ⟨rfl, rfl⟩; first | with_reducible assumption | with_reducible exact Still.refl _))

theorem State.setFlueCtx_still (s : State) (n : ℕ) (u : FlueUse) :
    Still s (State.setFlueCtx s n u) := by
  unfold State.setFlueCtx
  repeat' (first
    | with_reducible assumption
    | with_reducible exact Still.refl _
    | split
    | (with_reducible refine Still.fields ?_ rfl ⟨rfl, rfl⟩; first | with_reducible assumption | with_reducible exact Still.refl _))

theorem State.storePieces_still (s : State) (ws : List (Piece × List Sys2Proof.Byte)) (tclass : ℕ) (serve : Serve) :
    Still s (State.storePieces s ws tclass serve) := by
  unfold State.storePieces
  repeat' (first
    | with_reducible assumption
    | with_reducible exact Still.refl _
    | (extract_lets +onlyGivenNames x
       subst x)
    | with_reducible apply Still.trans _ (State.requestTo_still ..)
    | with_reducible apply Still.foldl _ _ _ (fun _ _ => ?_))

theorem State.dropFlueKey_still (s : State) (n : ℕ) (holds : FlueUse → Bool) :
    Still s (State.dropFlueKey s n holds) := by
  unfold State.dropFlueKey
  repeat' (first
    | with_reducible assumption
    | with_reducible exact Still.refl _
    | split
    | (with_reducible refine Still.fields ?_ rfl ⟨rfl, rfl⟩; first | with_reducible assumption | with_reducible exact Still.refl _))

theorem State.dropFlueCtx_still (s : State) (n : ℕ) :
    Still s (State.dropFlueCtx s n) := by
  unfold State.dropFlueCtx
  repeat' (first
    | with_reducible assumption
    | with_reducible exact Still.refl _
    | split
    | (with_reducible refine Still.fields ?_ rfl ⟨rfl, rfl⟩; first | with_reducible assumption | with_reducible exact Still.refl _))

theorem State.sweepBank_still (s : State) (b : Bool) :
    Still s (State.sweepBank s b) := by
  unfold State.sweepBank
  repeat' (first
    | with_reducible assumption
    | with_reducible exact Still.refl _
    | split
    | (with_reducible refine Still.fields ?_ rfl ⟨rfl, rfl⟩; first | with_reducible assumption | with_reducible exact Still.refl _))

theorem State.writeHome_steady (s : State) (d : Desc) (e : ℕ) (bs : List Sys2Proof.Byte) :
    Steady s (State.writeHome s d e bs).1 := by
  unfold State.writeHome
  repeat' (first
    | with_reducible assumption
    | with_reducible exact Steady.refl _
    | with_reducible apply Steady.trans _ (State.storePieces_still ..).steady
    | with_reducible apply Steady.trans _ (State.writeOwn_steady ..)
    | split
    | with_reducible refine Steady.fields ?_ rfl ⟨rfl, rfl⟩)

theorem State.addOutFp_still (s : State) (b : Bool) (t : ℕ) (bs : List Sys2Proof.Byte) :
    Still s (State.addOutFp s b t bs) := by
  unfold State.addOutFp
  repeat' (first
    | with_reducible assumption
    | with_reducible exact Still.refl _
    | with_reducible apply Still.trans _ (State.onStep_still ..))

theorem State.writeZero_steady (s : State) (b : Bool) (d : Desc) (e : ℕ) :
    Steady s (State.writeZero s b d e).1 := by
  unfold State.writeZero
  repeat' (first
    | with_reducible assumption
    | with_reducible exact Steady.refl _
    | with_reducible apply Steady.trans _ (State.addOutFp_still ..).steady
    | with_reducible apply Steady.trans _ (State.count_still ..).steady
    | with_reducible apply Steady.trans _ (State.writeHome_steady ..))

end Sys2Proof.Machine
end

