-- ==== Sys2Proof/Laws/Kept/Gateway.lean ====
section
/-!
SUPPORT. What the operations of Machine/Gateway.lean keep (Safety.lean: Still, Steady, or Kept).
-/

namespace Sys2Proof.Machine

theorem State.unholdFar_still (s : State) (ns : List ℕ) :
    Still s (State.unholdFar s ns) := by
  unfold State.unholdFar
  repeat' (first
    | with_reducible assumption
    | with_reducible exact Still.refl _
    | split
    | (with_reducible refine Still.fields ?_ rfl ⟨rfl, rfl⟩; first | with_reducible assumption | with_reducible exact Still.refl _))

theorem State.fillAgg_steady (s : State) (a : Agg) (p : Sys2Proof.Packet) (ctx : Option ℕ) :
    Steady s (State.fillAgg s a p ctx).2 := by
  unfold State.fillAgg
  repeat' (first
    | with_reducible assumption
    | with_reducible exact Steady.refl _
    | with_reducible apply Steady.trans _ (State.writeMem_steady ..))

theorem State.emitBulk_still (s : State) (b : Bulk) :
    Still s (State.emitBulk s b) := by
  unfold State.emitBulk
  repeat' (first
    | with_reducible assumption
    | with_reducible exact Still.refl _
    | (extract_lets +onlyGivenNames x
       subst x)
    | with_reducible apply Still.trans _ (State.emit_still ..)
    | split)

theorem State.offerBulk_steady (s : State) (a : Agg) :
    ∀ out, State.offerBulk s a = some out → Steady s out := by
  refine Steady.opt_some ?_
  unfold State.offerBulk
  repeat' (first
    | with_reducible assumption
    | with_reducible apply Steady.opt_map _ _ (fun _ => ?_)
    | with_reducible apply Steady.opt_map₂ _ _ (fun _ => ?_)
    | with_reducible apply Steady.opt₂_map _ _ (fun _ => ?_)
    | with_reducible exact Steady.refl _
    | (extract_lets +onlyGivenNames x
       first
       | (refine Steady.opt_via (t := x) ?side (fun hx => ?main); (case' side => subst x); (case' main => (clear_value x; revert x; intro _ _)))
       | subst x)
    | with_reducible apply Steady.trans _ (State.writeMem_steady ..)
    | with_reducible apply Steady.trans _ (State.emitBulk_still ..).steady
    | with_reducible apply Steady.trans _ (State.count_still ..).steady
    | split
    | with_reducible apply Steady.opt_none
    | with_reducible apply Steady.opt_intro
    | dsimp -zeta only
    | (with_reducible refine Steady.fields ?_ rfl ⟨rfl, rfl⟩; with_reducible assumption))

theorem State.offerBulk_kept (s : State) (a : Agg) :
    ∀ out, State.offerBulk s a = some out → Kept s out := fun out h => (State.offerBulk_steady _ _ out h).kept

theorem State.pumpBulks_steady (s : State) :
    Steady s (State.pumpBulks s) := by
  unfold State.pumpBulks
  repeat' (first
    | with_reducible assumption
    | with_reducible exact Steady.refl _
    | (extract_lets +onlyGivenNames x
       subst x)
    | with_reducible apply Steady.opt_trans _ (Steady.opt_of (State.offerBulk_steady _ _))
    | with_reducible apply Steady.foldl _ _ _ (fun _ _ => ?_)
    | with_reducible apply Steady.foldl₁ _ _ _ (fun _ _ => ?_)
    | with_reducible apply Steady.foldl₂ _ _ _ (fun _ _ => ?_)
    | split
    | with_reducible refine Steady.eq₁ (by with_reducible assumption) ?_
    | with_reducible refine Steady.eq₂ (by with_reducible assumption) ?_
    | with_reducible refine Steady.opt_eq (by with_reducible assumption) ?_
    | with_reducible refine Steady.opt₂_eq (by with_reducible assumption) ?_
    | dsimp -zeta only
    | with_reducible refine Steady.fields ?_ rfl ⟨rfl, rfl⟩)

theorem State.copyAlone_steady (s : State) (rack : ℕ) (p : Sys2Proof.Packet) (ctx : Option ℕ) :
    Steady s (State.copyAlone s rack p ctx).1 := by
  unfold State.copyAlone
  repeat' (first
    | with_reducible assumption
    | with_reducible exact Steady.refl _
    | (extract_lets +onlyGivenNames x
       subst x)
    | with_reducible apply Steady.trans _ (State.fillAgg_steady ..)
    | with_reducible apply Steady.trans _ (State.pumpBulks_steady ..)
    | with_reducible apply Steady.foldl _ _ _ (fun _ _ => ?_)
    | with_reducible apply Steady.foldl₁ _ _ _ (fun _ _ => ?_)
    | with_reducible apply Steady.foldl₂ _ _ _ (fun _ _ => ?_)
    | split
    | with_reducible refine Steady.eq₁ (by with_reducible assumption) ?_
    | with_reducible refine Steady.eq₂ (by with_reducible assumption) ?_
    | with_reducible refine Steady.opt_eq (by with_reducible assumption) ?_
    | with_reducible refine Steady.opt₂_eq (by with_reducible assumption) ?_
    | dsimp -zeta only
    | with_reducible refine Steady.fields ?_ rfl ⟨rfl, rfl⟩)

theorem State.flushAgg_steady (s : State) (rack : ℕ) :
    Steady s (State.flushAgg s rack) := by
  unfold State.flushAgg
  repeat' (first
    | with_reducible assumption
    | with_reducible exact Steady.refl _
    | with_reducible apply Steady.trans _ (State.pumpBulks_steady ..)
    | split
    | (with_reducible refine Steady.fields ?_ rfl ⟨rfl, rfl⟩; first | with_reducible assumption | with_reducible exact Steady.refl _))

theorem State.aggregate_steady (s : State) (rack : ℕ) (p : Sys2Proof.Packet) (ctx : Option ℕ) :
    Steady s (State.aggregate s rack p ctx).1 := by
  unfold State.aggregate
  repeat' (first
    | with_reducible assumption
    | with_reducible exact Steady.refl _
    | (extract_lets +onlyGivenNames x
       first
       | (refine Steady.via (t := x) ?side (fun hx => ?main); (case' side => subst x); (case' main => (clear_value x; revert x; intro _ _)))
       | subst x)
    | with_reducible apply Steady.trans _ (State.flushAgg_steady ..)
    | with_reducible apply Steady.trans _ (State.fillAgg_steady ..)
    | with_reducible apply Steady.foldl _ _ _ (fun _ _ => ?_)
    | with_reducible apply Steady.foldl₁ _ _ _ (fun _ _ => ?_)
    | with_reducible apply Steady.foldl₂ _ _ _ (fun _ _ => ?_)
    | split
    | with_reducible refine Steady.eq₁ (by with_reducible assumption) ?_
    | with_reducible refine Steady.eq₂ (by with_reducible assumption) ?_
    | with_reducible refine Steady.opt_eq (by with_reducible assumption) ?_
    | with_reducible refine Steady.opt₂_eq (by with_reducible assumption) ?_
    | dsimp -zeta only
    | with_reducible refine Steady.fields ?_ rfl ⟨rfl, rfl⟩)

theorem State.flushOldest_steady (s : State) :
    Steady s (State.flushOldest s) := by
  unfold State.flushOldest
  repeat' (first
    | with_reducible assumption
    | with_reducible exact Steady.refl _
    | with_reducible apply Steady.trans _ (State.flushAgg_steady ..)
    | split)

theorem State.copyFar_steady (s : State) (w : FarWait) :
    Steady s (State.copyFar s w) := by
  unfold State.copyFar
  repeat' (first
    | with_reducible assumption
    | with_reducible exact Steady.refl _
    | (extract_lets +onlyGivenNames x
       first
       | (refine Steady.via (t := x) ?side (fun hx => ?main); (case' side => subst x); (case' main => (clear_value x; revert x; intro _ _)))
       | subst x)
    | with_reducible apply Steady.trans _ (State.copyAlone_steady ..)
    | with_reducible apply Steady.trans _ (State.aggregate_steady ..)
    | with_reducible apply Steady.trans _ (State.flushOldest_steady ..)
    | with_reducible apply Steady.foldl _ _ _ (fun _ _ => ?_)
    | with_reducible apply Steady.foldl₁ _ _ _ (fun _ _ => ?_)
    | with_reducible apply Steady.foldl₂ _ _ _ (fun _ _ => ?_)
    | split
    | with_reducible refine Steady.eq₁ (by with_reducible assumption) ?_
    | with_reducible refine Steady.eq₂ (by with_reducible assumption) ?_
    | with_reducible refine Steady.opt_eq (by with_reducible assumption) ?_
    | with_reducible refine Steady.opt₂_eq (by with_reducible assumption) ?_
    | dsimp -zeta only
    | with_reducible refine Steady.fields ?_ rfl ⟨rfl, rfl⟩)

theorem State.pumpFar_steady (s : State) :
    Steady s (State.pumpFar s) := by
  unfold State.pumpFar
  repeat' (first
    | with_reducible assumption
    | with_reducible exact Steady.refl _
    | (extract_lets +onlyGivenNames x
       subst x)
    | with_reducible apply Steady.trans _ (State.copyFar_steady ..)
    | with_reducible apply Steady.foldl _ _ _ (fun _ _ => ?_)
    | with_reducible apply Steady.foldl₁ _ _ _ (fun _ _ => ?_)
    | with_reducible apply Steady.foldl₂ _ _ _ (fun _ _ => ?_)
    | split
    | with_reducible refine Steady.eq₁ (by with_reducible assumption) ?_
    | with_reducible refine Steady.eq₂ (by with_reducible assumption) ?_
    | with_reducible refine Steady.opt_eq (by with_reducible assumption) ?_
    | with_reducible refine Steady.opt₂_eq (by with_reducible assumption) ?_
    | dsimp -zeta only
    | with_reducible refine Steady.fields ?_ rfl ⟨rfl, rfl⟩)

theorem State.dropBulk_steady (s : State) (b : Bulk) :
    Steady s (State.dropBulk s b) := by
  unfold State.dropBulk
  repeat' (first
    | with_reducible assumption
    | with_reducible exact Steady.refl _
    | with_reducible apply Steady.trans _ (State.pumpFar_steady ..)
    | with_reducible apply Steady.trans _ (State.pumpBulks_steady ..)
    | split
    | (with_reducible refine Steady.fields ?_ rfl ⟨rfl, rfl⟩; first | with_reducible assumption | with_reducible exact Steady.refl _))

end Sys2Proof.Machine
end

