-- ==== Sys2Proof/Laws/Kept/Pool.lean ====
section
/-!
SUPPORT. What the operations of Machine/Pool.lean keep (Safety.lean: Still, Steady, or Kept).
-/

namespace Sys2Proof.Machine

theorem State.listCancelled_still (s : State) (k : Key) :
    Still s (State.listCancelled s k) := by
  unfold State.listCancelled
  repeat' (first
    | with_reducible assumption
    | with_reducible exact Still.refl _
    | split
    | (with_reducible refine Still.fields ?_ rfl ⟨rfl, rfl⟩; first | with_reducible assumption | with_reducible exact Still.refl _))

theorem State.compare_still (s : State) (w : Sweep) :
    Still s (State.compare s w) := by
  unfold State.compare
  repeat' (first
    | with_reducible assumption
    | with_reducible exact Still.refl _
    | split
    | with_reducible refine Still.fields ?_ rfl ⟨rfl, rfl⟩)

theorem State.setPoolList_still (s : State) (q : ℕ) (cls : ℕ) (l : List PoolPkt) :
    Still s (State.setPoolList s q cls l) := by
  unfold State.setPoolList
  repeat' (first
    | with_reducible assumption
    | with_reducible exact Still.refl _
    | with_reducible apply Still.trans _ (State.compare_still ..)
    | split
    | (with_reducible refine Still.fields ?_ rfl ⟨rfl, rfl⟩; first | with_reducible assumption | with_reducible exact Still.refl _))

theorem State.takeCells_still (s : State) (n : ℕ) :
    Still s (State.takeCells s n).2 := by
  unfold State.takeCells
  repeat' (first
    | with_reducible assumption
    | with_reducible exact Still.refl _
    | with_reducible apply Still.trans _ (State.compare_still ..)
    | with_reducible apply Still.trans _ (State.setObj_still ..)
    | split
    | (with_reducible refine Still.fields ?_ rfl ⟨rfl, rfl⟩; first | with_reducible assumption | with_reducible exact Still.refl _))

theorem State.closeCell_still (s : State) :
    Still s (State.closeCell s).2 := by
  unfold State.closeCell
  repeat' (first
    | with_reducible assumption
    | with_reducible exact Still.refl _
    | with_reducible apply Still.trans _ (State.takeCells_still ..)
    | split)

theorem State.setCloses_still (s : State) (q : ℕ) (l : List PClose) :
    Still s (State.setCloses s q l) := by
  unfold State.setCloses
  repeat' (first
    | with_reducible assumption
    | with_reducible exact Still.refl _
    | split
    | (with_reducible refine Still.fields ?_ rfl ⟨rfl, rfl⟩; first | with_reducible assumption | with_reducible exact Still.refl _))

theorem State.feedClose_still (s : State) :
    Still s (State.feedClose s) := by
  unfold State.feedClose
  repeat' (first
    | with_reducible assumption
    | with_reducible exact Still.refl _
    | with_reducible apply Still.trans _ (State.closeCell_still ..)
    | with_reducible apply Still.trans _ (State.setCloses_still ..)
    | split)

theorem State.feedCloses_still (s : State) :
    Still s (State.feedCloses s) := by
  unfold State.feedCloses
  repeat' (first
    | with_reducible assumption
    | with_reducible exact Still.refl _
    | (extract_lets +onlyGivenNames x
       subst x)
    | with_reducible apply Still.trans _ (State.feedClose_still ..)
    | with_reducible apply Still.foldl _ _ _ (fun _ _ => ?_))

theorem State.giveCells_still (s : State) (rs : List (ℕ × ℕ)) :
    Still s (State.giveCells s rs) := by
  unfold State.giveCells
  repeat' (first
    | with_reducible assumption
    | with_reducible exact Still.refl _
    | with_reducible apply Still.trans _ (State.compare_still ..)
    | with_reducible apply Still.trans _ (State.feedCloses_still ..)
    | split
    | (with_reducible refine Still.fields ?_ rfl ⟨rfl, rfl⟩; first | with_reducible assumption | with_reducible exact Still.refl _))

theorem State.dropPackets_still (s : State) (q : ℕ) (k : Key) :
    Still s (State.dropPackets s q k) := by
  unfold State.dropPackets
  repeat' (first
    | with_reducible assumption
    | with_reducible exact Still.refl _
    | (extract_lets +onlyGivenNames x
       first
       | (refine Still.via (t := x) ?side (fun hx => ?main); (case' side => subst x); (case' main => (clear_value x; revert x; intro _ _)))
       | subst x)
    | with_reducible apply Still.trans _ (State.setPoolList_still ..)
    | with_reducible apply Still.trans _ (State.giveCells_still ..)
    | with_reducible apply Still.trans _ (State.setCloses_still ..)
    | with_reducible apply Still.foldl _ _ _ (fun _ _ => ?_)
    | with_reducible apply Still.foldl₁ _ _ _ (fun _ _ => ?_)
    | with_reducible apply Still.foldl₂ _ _ _ (fun _ _ => ?_)
    | split)

theorem State.setSlots_still (s : State) (q : ℕ) (l : List PSlot) :
    Still s (State.setSlots s q l) := by
  unfold State.setSlots
  repeat' (first
    | with_reducible assumption
    | with_reducible exact Still.refl _
    | split
    | (with_reducible refine Still.fields ?_ rfl ⟨rfl, rfl⟩; first | with_reducible assumption | with_reducible exact Still.refl _))

theorem State.pushClose_still (s : State) (q : ℕ) (x : PSlot) (half : ℕ) (first : ℕ) (count : ℕ) (need : ℕ) (cancelled : Bool) (last : Bool) :
    Still s (State.pushClose s q x half first count need cancelled last) := by
  unfold State.pushClose
  repeat' (first
    | with_reducible assumption
    | with_reducible exact Still.refl _
    | with_reducible apply Still.trans _ (State.closeCell_still ..)
    | with_reducible apply Still.trans _ (State.setCloses_still ..))

theorem State.onSlot_still (s : State) (q : ℕ) (k : Key) (f : PSlot → PSlot) :
    Still s (State.onSlot s q k f) := by
  unfold State.onSlot
  repeat' (first
    | with_reducible assumption
    | with_reducible exact Still.refl _
    | with_reducible apply Still.trans _ (State.setSlots_still ..))

theorem State.cancelSlot_still (s : State) (q : ℕ) (k : Key) (placeEpoch : ℕ) :
    Still s (State.cancelSlot s q k placeEpoch) := by
  unfold State.cancelSlot
  repeat' (first
    | with_reducible assumption
    | with_reducible exact Still.refl _
    | (extract_lets +onlyGivenNames x
       subst x)
    | with_reducible apply Still.trans _ (State.takeFree_still ..)
    | with_reducible apply Still.trans _ (State.setSlots_still ..)
    | with_reducible apply Still.trans _ (State.setCloses_still ..)
    | with_reducible apply Still.trans _ (State.giveCells_still ..)
    | with_reducible apply Still.trans _ (State.pushClose_still ..)
    | with_reducible apply Still.trans _ (State.onSlot_still ..)
    | with_reducible apply Still.foldl _ _ _ (fun _ _ => ?_)
    | with_reducible apply Still.foldl₁ _ _ _ (fun _ _ => ?_)
    | with_reducible apply Still.foldl₂ _ _ _ (fun _ _ => ?_)
    | split)

theorem State.cancelPool_still (s : State) (k : Key) (placeEpoch : ℕ) (e : ℕ) :
    Still s (State.cancelPool s k placeEpoch e) := by
  unfold State.cancelPool
  repeat' (first
    | with_reducible assumption
    | with_reducible exact Still.refl _
    | (extract_lets +onlyGivenNames x
       first
       | (refine Still.via (t := x) ?side (fun hx => ?main); (case' side => subst x); (case' main => (clear_value x; revert x; intro _ _)))
       | subst x)
    | with_reducible apply Still.trans _ (State.listCancelled_still ..)
    | with_reducible apply Still.trans _ (State.dropPackets_still ..)
    | with_reducible apply Still.trans _ (State.cancelSlot_still ..)
    | with_reducible apply Still.foldl _ _ _ (fun _ _ => ?_)
    | with_reducible apply Still.foldl₁ _ _ _ (fun _ _ => ?_)
    | with_reducible apply Still.foldl₂ _ _ _ (fun _ _ => ?_)
    | split)

theorem State.cancelShared_still (s : State) (k : Key) (placeEpoch : ℕ) (shared : ℕ) :
    Still s (State.cancelShared s k placeEpoch shared) := by
  unfold State.cancelShared
  repeat' (first
    | with_reducible assumption
    | with_reducible exact Still.refl _
    | (extract_lets +onlyGivenNames x
       subst x)
    | with_reducible apply Still.trans _ (State.cancelSlot_still ..)
    | with_reducible apply Still.trans _ (State.dropPackets_still ..)
    | with_reducible apply Still.foldl _ _ _ (fun _ _ => ?_))

theorem State.closeDue_still (s : State) (q : ℕ) (k : Key) :
    Still s (State.closeDue s q k) := by
  unfold State.closeDue
  repeat' (first
    | with_reducible assumption
    | with_reducible exact Still.refl _
    | with_reducible apply Still.trans _ (State.pushClose_still ..)
    | with_reducible apply Still.trans _ (State.onSlot_still ..)
    | split)

theorem State.pointerCheck_still (s : State) (chk : Sys2Proof.Arrival) (list : Option (ℕ × ℕ)) :
    Still s (State.pointerCheck s chk list) := by
  unfold State.pointerCheck
  repeat' (first
    | with_reducible assumption
    | with_reducible exact Still.refl _
    | split
    | (with_reducible refine Still.fields ?_ rfl ⟨rfl, rfl⟩; first | with_reducible assumption | with_reducible exact Still.refl _))

theorem State.dropSlot_still (s : State) (q : ℕ) (k : Key) :
    Still s (State.dropSlot s q k) := by
  unfold State.dropSlot
  repeat' (first
    | with_reducible assumption
    | with_reducible exact Still.refl _
    | with_reducible apply Still.trans _ (State.setSlots_still ..))

end Sys2Proof.Machine
end

