-- ==== Sys2Proof/Laws/Kept/Replay.lean ====
section
/-!
SUPPORT. What the operations of Machine/Replay.lean keep (Safety.lean: Still, Steady, or Kept).
-/

namespace Sys2Proof.Machine

theorem State.takeRec_still (s : State) (r : LogRec) :
    Still s (State.takeRec s r) := by
  unfold State.takeRec
  repeat' (first
    | with_reducible assumption
    | with_reducible exact Still.refl _
    | split
    | (with_reducible refine Still.fields ?_ rfl ⟨rfl, rfl⟩; first | with_reducible assumption | with_reducible exact Still.refl _))

theorem State.haltSeq_still (s : State) (code : ℕ) (cause : ℕ) :
    Still s (State.haltSeq s code cause) := by
  unfold State.haltSeq
  repeat' (first
    | with_reducible assumption
    | with_reducible exact Still.refl _
    | (extract_lets +onlyGivenNames x
       first
       | (refine Still.via (t := x) ?side (fun hx => ?main); (case' side => subst x); (case' main => (clear_value x; revert x; intro _ _)))
       | subst x)
    | with_reducible apply Still.trans _ (State.alert_still ..)
    | with_reducible apply Still.trans _ (State.setObj_still ..)
    | split
    | dsimp -zeta only
    | (with_reducible refine Still.fields ?_ rfl ⟨rfl, rfl⟩; with_reducible assumption))

theorem State.diverge_still (s : State) (seq : ℕ) :
    Still s (State.diverge s seq) := by
  unfold State.diverge
  repeat' (first
    | with_reducible assumption
    | with_reducible exact Still.refl _
    | (extract_lets +onlyGivenNames x
       first
       | (refine Still.via (t := x) ?side (fun hx => ?main); (case' side => subst x); (case' main => (clear_value x; revert x; intro _ _)))
       | subst x)
    | with_reducible apply Still.trans _ (State.setObj_still ..)
    | with_reducible apply Still.trans _ (State.haltSeq_still ..)
    | with_reducible apply Still.foldl _ _ _ (fun _ _ => ?_)
    | with_reducible apply Still.foldl₁ _ _ _ (fun _ _ => ?_)
    | with_reducible apply Still.foldl₂ _ _ _ (fun _ _ => ?_)
    | split
    | with_reducible refine Still.eq₁ (by with_reducible assumption) ?_
    | with_reducible refine Still.eq₂ (by with_reducible assumption) ?_
    | with_reducible refine Still.opt_eq (by with_reducible assumption) ?_
    | with_reducible refine Still.opt₂_eq (by with_reducible assumption) ?_
    | dsimp -zeta only
    | with_reducible refine Still.fields ?_ rfl ⟨rfl, rfl⟩)

end Sys2Proof.Machine
end

