-- ==== Sys2Proof/Laws/Kept/Records.lean ====
section
/-!
SUPPORT. What the operations of Machine/Records.lean keep (Safety.lean: Still, Steady, or Kept).
-/

namespace Sys2Proof.Machine

theorem State.logTiming_steady (s : State) (t : Step) :
    Steady s (State.logTiming s t) := by
  unfold State.logTiming
  repeat' (first
    | with_reducible assumption
    | with_reducible exact Steady.refl _
    | (extract_lets +onlyGivenNames x
       first
       | (refine Steady.via (t := x) ?side (fun hx => ?main); (case' side => subst x); (case' main => (clear_value x; revert x; intro _ _)))
       | subst x)
    | with_reducible apply Steady.trans _ (State.count_still ..).steady
    | with_reducible apply Steady.trans _ (State.takeFree_steady ..)
    | with_reducible apply Steady.trans _ (State.logStep_steady ..)
    | split)

theorem State.writeResult_steady (s : State) (t : Step) (status : ℕ) :
    Steady s (State.writeResult s t status) := by
  unfold State.writeResult
  repeat' (first
    | with_reducible assumption
    | with_reducible exact Steady.refl _
    | (extract_lets +onlyGivenNames x
       (refine Steady.via (t := x) ?side (fun hx => ?main); (case' side => subst x); (case' main => (clear_value x; revert x; intro _ _))))
    | with_reducible apply Steady.trans _ (State.logStep_steady ..)
    | with_reducible apply Steady.trans _ (State.takeRec_still ..).steady
    | with_reducible apply Steady.trans _ (State.diverge_still ..).steady
    | split)

theorem State.endRecords_steady (s : State) (t : Step) (status : ℕ) :
    Steady s (State.endRecords s t status) := by
  unfold State.endRecords
  repeat' (first
    | with_reducible assumption
    | with_reducible exact Steady.refl _
    | with_reducible apply Steady.trans _ (State.logTiming_steady ..)
    | with_reducible apply Steady.trans _ (State.writeResult_steady ..)
    | with_reducible apply Steady.trans _ (State.postStatus_steady ..))

theorem State.logFaultEnd_steady (s : State) (t : Step) (code : ℕ) :
    Steady s (State.logFaultEnd s t code) := by
  unfold State.logFaultEnd
  repeat' (first
    | with_reducible assumption
    | with_reducible exact Steady.refl _
    | with_reducible apply Steady.trans _ (State.logStep_steady ..))

theorem State.breakTiming_still (s : State) (k : Key) (fab : Bool) (resend : Bool) :
    Still s (State.breakTiming s k fab resend) := by
  unfold State.breakTiming
  repeat' (first
    | with_reducible assumption
    | with_reducible exact Still.refl _
    | with_reducible apply Still.trans _ (State.onStep_still ..)
    | split)

theorem State.breakLive_still (s : State) (fab resend : Bool) :
    Still s (State.breakLive s fab resend) := by
  unfold State.breakLive
  repeat' (first
    | with_reducible assumption
    | with_reducible exact Still.refl _
    | (extract_lets +onlyGivenNames x
       subst x)
    | with_reducible apply Still.trans _ (State.onStep_still ..)
    | with_reducible apply Still.foldl _ _ _ (fun _ _ => ?_))

end Sys2Proof.Machine
end

