-- ==== Sys2Proof/Laws/Kept/Cancel.lean ====
section
/-!
SUPPORT. What the operations of Machine/Cancel.lean keep (Safety.lean: Still, Steady, or Kept).
-/

namespace Sys2Proof.Machine

theorem State.dropUnissued_still (s : State) (b : Bool) :
    Still s (State.dropUnissued s b) := by
  unfold State.dropUnissued
  repeat' (first
    | with_reducible assumption
    | with_reducible exact Still.refl _
    | (extract_lets +onlyGivenNames x
       subst x)
    | split
    | with_reducible refine Still.fields ?_ rfl ⟨rfl, rfl⟩)

theorem State.cancelFlue_still (s : State) (b : Bool) :
    Still s (State.cancelFlue s b) := by
  unfold State.cancelFlue
  repeat' (first
    | with_reducible assumption
    | with_reducible exact Still.refl _
    | with_reducible apply Still.trans _ (State.dropUnissued_still ..)
    | (extract_lets +onlyGivenNames x
       first
       | (refine Still.via (t := x) ?side (fun hx => ?main); (case' side => subst x); (case' main => (clear_value x; revert x; intro _ _)))
       | subst x)
    | with_reducible apply Still.trans _ (State.cancelEntries_still ..)
    | with_reducible apply Still.trans _ (State.dropRows_still ..)
    | with_reducible apply Still.trans _ (State.dropFetches_still ..)
    | split
    | dsimp -zeta only
    | (with_reducible refine Still.fields ?_ rfl ⟨rfl, rfl⟩; first | with_reducible assumption | with_reducible exact Still.refl _))

theorem State.cancelBellows_still (s : State) (k : Key) :
    Still s (State.cancelBellows s k) := by
  unfold State.cancelBellows
  repeat' (first
    | with_reducible assumption
    | with_reducible exact Still.refl _
    | split
    | (with_reducible refine Still.fields ?_ rfl ⟨rfl, rfl⟩; first | with_reducible assumption | with_reducible exact Still.refl _))

theorem State.noticeNear_still (s : State) (near : List ℕ) (n : Sys2Proof.Notice) (k : Key) :
    Still s (State.noticeNear s near n k) := by
  unfold State.noticeNear
  repeat' (first
    | with_reducible assumption
    | with_reducible exact Still.refl _
    | (extract_lets +onlyGivenNames x
       subst x)
    | with_reducible apply Still.trans _ (State.freeAddr_still ..)
    | with_reducible apply Still.trans _ (State.freeLen_still ..)
    | with_reducible apply Still.trans _ (State.mstore_still ..)
    | with_reducible apply Still.trans _ (State.requestTo_still ..)
    | with_reducible apply Still.foldl _ _ _ (fun _ _ => ?_)
    | with_reducible apply Still.foldl₁ _ _ _ (fun _ _ => ?_)
    | with_reducible apply Still.foldl₂ _ _ _ (fun _ _ => ?_)
    | split)

theorem State.sendNotice_still (s : State) (t : Step) :
    Still s (State.sendNotice s t) := by
  unfold State.sendNotice
  repeat' (first
    | with_reducible assumption
    | with_reducible exact Still.refl _
    | with_reducible apply Still.trans _ (State.toGate_still ..)
    | (extract_lets +onlyGivenNames x
       first
       | (refine Still.via (t := x) ?side (fun hx => ?main); (case' side => subst x); (case' main => (clear_value x; revert x; intro _ _)))
       | subst x)
    | with_reducible apply Still.trans _ (State.toPeer_still ..)
    | with_reducible apply Still.trans _ (State.noticeNear_still ..)
    | with_reducible apply Still.trans _ (State.emit_still ..)
    | with_reducible apply Still.foldl _ _ _ (fun _ _ => ?_)
    | with_reducible apply Still.foldl₁ _ _ _ (fun _ _ => ?_)
    | with_reducible apply Still.foldl₂ _ _ _ (fun _ _ => ?_)
    | split)

theorem State.dropSends_still (s : State) (k : Key) :
    Still s (State.dropSends s k) := by
  unfold State.dropSends
  repeat' (first
    | with_reducible assumption
    | with_reducible exact Still.refl _
    | with_reducible apply Still.trans _ (State.unholdFar_still ..)
    | split
    | (with_reducible refine Still.fields ?_ rfl ⟨rfl, rfl⟩; first | with_reducible assumption | with_reducible exact Still.refl _))

theorem State.reportHalf_still (s : State) (k : Key) :
    Still s (State.reportHalf s k) := by
  unfold State.reportHalf
  repeat' (first
    | with_reducible assumption
    | with_reducible exact Still.refl _
    | with_reducible apply Still.trans _ (State.onStep_still ..)
    | with_reducible apply Still.trans _ (State.toPeer_still ..)
    | split)

theorem State.takeDrain_still (s : State) (p : Sys2Proof.Packet) :
    Still s (State.takeDrain s p) := by
  unfold State.takeDrain
  repeat' (first
    | with_reducible assumption
    | with_reducible exact Still.refl _
    | (extract_lets +onlyGivenNames x
       subst x)
    | with_reducible apply Still.trans _ (State.onStep_still ..)
    | with_reducible apply Still.trans _ (State.count_still ..)
    | split)

theorem State.sendReceipt_steady (s : State) (dst : ℕ) (p : Sys2Proof.Packet) (key : Key) :
    Steady s (State.sendReceipt s dst p key) := by
  unfold State.sendReceipt
  repeat' (first
    | with_reducible assumption
    | with_reducible exact Steady.refl _
    | with_reducible apply Steady.trans _ (State.takeDrain_still ..).steady
    | with_reducible apply Steady.trans _ (State.toPeer_still ..).steady
    | with_reducible apply Steady.trans _ (State.requestTo_still ..).steady
    | with_reducible apply Steady.trans _ (State.copyFar_steady ..)
    | split)

theorem State.finishDrain_steady (s : State) (d : Drain) :
    Steady s (State.finishDrain s d) := by
  unfold State.finishDrain
  repeat' (first
    | with_reducible assumption
    | with_reducible exact Steady.refl _
    | (extract_lets +onlyGivenNames x
       first
       | (refine Steady.via (t := x) ?side (fun hx => ?main); (case' side => subst x); (case' main => (clear_value x; revert x; intro _ _)))
       | subst x)
    | with_reducible apply Steady.trans _ (State.sendReceipt_steady ..)
    | with_reducible apply Steady.foldl _ _ _ (fun _ _ => ?_)
    | with_reducible apply Steady.foldl₁ _ _ _ (fun _ _ => ?_)
    | with_reducible apply Steady.foldl₂ _ _ _ (fun _ _ => ?_)
    | split
    | with_reducible refine Steady.eq₁ (by with_reducible assumption) ?_
    | with_reducible refine Steady.eq₂ (by with_reducible assumption) ?_
    | with_reducible refine Steady.opt_eq (by with_reducible assumption) ?_
    | with_reducible refine Steady.opt₂_eq (by with_reducible assumption) ?_
    | dsimp -zeta only
    | with_reducible refine Steady.fields ?_ rfl ⟨rfl, rfl⟩)

theorem State.checkFences_steady (s : State) :
    Steady s (State.checkFences s) := by
  unfold State.checkFences
  repeat' (first
    | with_reducible assumption
    | with_reducible exact Steady.refl _
    | (extract_lets +onlyGivenNames x
       first
       | (refine Steady.via (t := x) ?side (fun hx => ?main); (case' side => subst x); (case' main => (clear_value x; revert x; intro _ _)))
       | subst x)
    | with_reducible apply Steady.trans _ (State.reportHalf_still ..).steady
    | with_reducible apply Steady.trans _ (State.finishDrain_steady ..)
    | with_reducible apply Steady.foldl _ _ _ (fun _ _ => ?_)
    | with_reducible apply Steady.foldl₁ _ _ _ (fun _ _ => ?_)
    | with_reducible apply Steady.foldl₂ _ _ _ (fun _ _ => ?_)
    | split
    | with_reducible refine Steady.eq₁ (by with_reducible assumption) ?_
    | with_reducible refine Steady.eq₂ (by with_reducible assumption) ?_
    | with_reducible refine Steady.opt_eq (by with_reducible assumption) ?_
    | with_reducible refine Steady.opt₂_eq (by with_reducible assumption) ?_
    | dsimp -zeta only
    | with_reducible refine Steady.fields ?_ rfl ⟨rfl, rfl⟩)

theorem State.frontCancel_steady (s : State) (k : Key) (place : ℕ) (group : BitVec 8) :
    Steady s (State.frontCancel s k place group) := by
  unfold State.frontCancel
  repeat' (first
    | with_reducible assumption
    | with_reducible exact Steady.refl _
    | (extract_lets +onlyGivenNames x
       first
       | (refine Steady.via (t := x) ?side (fun hx => ?main); (case' side => subst x); (case' main => (clear_value x; revert x; intro _ _)))
       | subst x)
    | with_reducible apply Steady.trans _ (State.dropSends_still ..).steady
    | with_reducible apply Steady.trans _ (State.takeFree_steady ..)
    | with_reducible apply Steady.trans _ (State.checkFences_steady ..)
    | with_reducible apply Steady.foldl _ _ _ (fun _ _ => ?_)
    | with_reducible apply Steady.foldl₁ _ _ _ (fun _ _ => ?_)
    | with_reducible apply Steady.foldl₂ _ _ _ (fun _ _ => ?_)
    | split
    | with_reducible refine Steady.eq₁ (by with_reducible assumption) ?_
    | with_reducible refine Steady.eq₂ (by with_reducible assumption) ?_
    | with_reducible refine Steady.opt_eq (by with_reducible assumption) ?_
    | with_reducible refine Steady.opt₂_eq (by with_reducible assumption) ?_
    | dsimp -zeta only
    | with_reducible refine Steady.fields ?_ rfl ⟨rfl, rfl⟩)

theorem State.cancelKey_steady (s : State) (b : Bool) :
    Steady s (State.cancelKey s b) := by
  unfold State.cancelKey
  repeat' (first
    | with_reducible assumption
    | with_reducible exact Steady.refl _
    | (extract_lets +onlyGivenNames x
       first
       | (refine Steady.via (t := x) ?side (fun hx => ?main); (case' side => subst x); (case' main => (clear_value x; revert x; intro _ _)))
       | subst x)
    | with_reducible apply Steady.trans _ (State.setStep_still ..).steady
    | with_reducible apply Steady.trans _ (State.cancelFlue_still ..).steady
    | with_reducible apply Steady.trans _ (State.cancelBellows_still ..).steady
    | with_reducible apply Steady.trans _ (State.sendNotice_still ..).steady
    | with_reducible apply Steady.trans _ (State.cancelPool_still ..).steady
    | with_reducible apply Steady.trans _ (State.cancelShared_still ..).steady
    | with_reducible apply Steady.trans _ (State.frontCancel_steady ..)
    | split
    | dsimp -zeta only
    | (with_reducible refine Steady.fields ?_ rfl ⟨rfl, rfl⟩; with_reducible assumption))

theorem State.advanceEpoch_still (s : State) :
    Still s (State.advanceEpoch s) := by
  unfold State.advanceEpoch
  repeat' (first
    | with_reducible assumption
    | with_reducible exact Still.refl _
    | with_reducible apply Still.trans _ (State.setObj_still ..))

theorem State.stopIssue_still (s : State) :
    Still s (State.stopIssue s) := by
  unfold State.stopIssue
  repeat' (first
    | with_reducible assumption
    | with_reducible exact Still.refl _
    | split
    | (with_reducible refine Still.fields ?_ rfl ⟨rfl, rfl⟩; first | with_reducible assumption | with_reducible exact Still.refl _))

theorem State.sendRerun_still (s : State) (t : Step) (code : Sys2Proof.Byte) (origin : BitVec 17) :
    Still s (State.sendRerun s t code origin) := by
  unfold State.sendRerun
  repeat' (first
    | with_reducible assumption
    | with_reducible exact Still.refl _
    | with_reducible apply Still.trans _ (State.sendAll_still ..))

theorem State.markWith_steady (s : State) (b : Bool) (ev : SootEv) (code : Sys2Proof.Byte) (origin : BitVec 17) (advance : Bool) :
    Steady s (State.markWith s b ev code origin advance) := by
  unfold State.markWith
  repeat' (first
    | with_reducible assumption
    | with_reducible exact Steady.refl _
    | with_reducible apply Steady.trans _ (State.soot__still ..).steady
    | with_reducible apply Steady.trans _ (State.cancelKey_steady ..)
    | with_reducible apply Steady.trans _ (State.advanceEpoch_still ..).steady
    | with_reducible apply Steady.trans _ (State.onStep_still ..).steady
    | with_reducible apply Steady.trans _ (State.endRecords_steady ..)
    | with_reducible apply Steady.trans _ (State.logFaultEnd_steady ..)
    | with_reducible apply Steady.trans _ (State.count_still ..).steady
    | with_reducible apply Steady.trans _ (State.stopIssue_still ..).steady
    | with_reducible apply Steady.trans _ (State.sendRerun_still ..).steady
    | split)

theorem State.mark_steady (s : State) (b : Bool) (ev : SootEv) :
    Steady s (State.mark s b ev) := by
  unfold State.mark
  repeat' (first
    | with_reducible assumption
    | with_reducible exact Steady.refl _
    | with_reducible apply Steady.trans _ (State.markWith_steady ..))

theorem State.cancelStep_steady (s : State) (b : Bool) :
    Steady s (State.cancelStep s b) := by
  unfold State.cancelStep
  repeat' (first
    | with_reducible assumption
    | with_reducible exact Steady.refl _
    | with_reducible apply Steady.trans _ (State.cancelKey_steady ..)
    | with_reducible apply Steady.trans _ (State.advanceEpoch_still ..).steady
    | with_reducible apply Steady.trans _ (State.endRecords_steady ..)
    | with_reducible apply Steady.trans _ (State.onStep_still ..).steady
    | split)

theorem State.markSteps_steady (s : State) (bs : List Bool) (ev : SootEv) :
    Steady s (State.markSteps s bs ev) := by
  unfold State.markSteps
  repeat' (first
    | with_reducible assumption
    | with_reducible exact Steady.refl _
    | (extract_lets +onlyGivenNames x
       first
       | (refine Steady.via (t := x) ?side (fun hx => ?main); (case' side => subst x); (case' main => (clear_value x; revert x; intro _ _)))
       | subst x)
    | with_reducible apply Steady.trans _ (State.advanceEpoch_still ..).steady
    | with_reducible apply Steady.trans _ (State.soot__still ..).steady
    | with_reducible apply Steady.trans _ (State.markWith_steady ..)
    | with_reducible apply Steady.foldl _ _ _ (fun _ _ => ?_)
    | with_reducible apply Steady.foldl₁ _ _ _ (fun _ _ => ?_)
    | with_reducible apply Steady.foldl₂ _ _ _ (fun _ _ => ?_)
    | split)

theorem State.markBoth_steady (s : State) (ev : SootEv) :
    Steady s (State.markBoth s ev) := by
  unfold State.markBoth
  repeat' (first
    | with_reducible assumption
    | with_reducible exact Steady.refl _
    | with_reducible apply Steady.trans _ (State.markSteps_steady ..))

theorem State.noticeTo_steady (s : State) (scorer : ℕ) (k : Key) (code : Sys2Proof.Byte) :
    Steady s (State.noticeTo s scorer k code) := by
  unfold State.noticeTo
  repeat' (first
    | with_reducible assumption
    | with_reducible exact Steady.refl _
    | with_reducible apply Steady.trans _ (State.markWith_steady ..)
    | with_reducible apply Steady.trans _ (State.sendMsg_still ..).steady
    | split)

theorem State.failStep_steady (s : State) (scorer : ℕ) (k : Key) (ev : SootEv) :
    Steady s (State.failStep s scorer k ev) := by
  unfold State.failStep
  repeat' (first
    | with_reducible assumption
    | with_reducible exact Steady.refl _
    | with_reducible apply Steady.trans _ (State.mark_steady ..)
    | with_reducible apply Steady.trans _ (State.noticeTo_steady ..)
    | with_reducible apply Steady.trans _ (State.soot__still ..).steady
    | split)

end Sys2Proof.Machine
end

