-- ==== Sys2Proof/Laws/Kept/Persist.lean ====
section
/-!
SUPPORT. What the operations of Machine/Persist.lean keep (Safety.lean: Still, Steady, or Kept).
-/

namespace Sys2Proof.Machine

theorem State.startCommit_still (s : State) (c : Commit) :
    Still s (State.startCommit s c) := by
  unfold State.startCommit
  repeat' (first
    | with_reducible assumption
    | with_reducible exact Still.refl _
    | (extract_lets +onlyGivenNames x
       first
       | (refine Still.via (t := x) ?side (fun hx => ?main); (case' side => subst x); (case' main => (clear_value x; revert x; intro _ _)))
       | subst x)
    | with_reducible apply Still.trans _ (State.setObj_still ..)
    | with_reducible apply Still.trans _ (State.count_still ..)
    | with_reducible apply Still.trans _ (State.alert_still ..)
    | with_reducible apply Still.foldl _ _ _ (fun _ _ => ?_)
    | with_reducible apply Still.foldl₁ _ _ _ (fun _ _ => ?_)
    | with_reducible apply Still.foldl₂ _ _ _ (fun _ _ => ?_)
    | split
    | with_reducible refine Still.eq₁ (by with_reducible assumption) ?_
    | with_reducible refine Still.eq₂ (by with_reducible assumption) ?_
    | with_reducible refine Still.opt_eq (by with_reducible assumption) ?_
    | with_reducible refine Still.opt₂_eq (by with_reducible assumption) ?_
    | dsimp -zeta only
    | with_reducible refine Still.fields ?_ rfl ⟨rfl, rfl⟩)

theorem State.nothingStored_still (s : State) :
    Still s (State.nothingStored s) := by
  unfold State.nothingStored
  repeat' (first
    | with_reducible assumption
    | with_reducible exact Still.refl _
    | with_reducible apply Still.trans _ (State.setObj_still ..))

theorem State.startRead_still (s : State) (r : XRead) :
    Still s (State.startRead s r) := by
  unfold State.startRead
  repeat' (first
    | with_reducible assumption
    | with_reducible exact Still.refl _
    | (extract_lets +onlyGivenNames x
       first
       | (refine Still.via (t := x) ?side (fun hx => ?main); (case' side => subst x); (case' main => (clear_value x; revert x; intro _ _)))
       | subst x)
    | with_reducible apply Still.trans _ (State.setObj_still ..)
    | split
    | dsimp -zeta only
    | (with_reducible refine Still.fields ?_ rfl ⟨rfl, rfl⟩; with_reducible assumption))

theorem State.runXCmd_still (s : State) (c : XCmd) :
    Still s (State.runXCmd s c) := by
  unfold State.runXCmd
  repeat' (first
    | with_reducible assumption
    | with_reducible exact Still.refl _
    | (extract_lets +onlyGivenNames x
       subst x)
    | with_reducible apply Still.trans _ (State.startCommit_still ..)
    | with_reducible apply Still.trans _ (State.alert_still ..)
    | with_reducible apply Still.trans _ (State.setObj_still ..)
    | with_reducible apply Still.trans _ (State.nothingStored_still ..)
    | with_reducible apply Still.trans _ (State.startRead_still ..)
    | split)

theorem State.takeXCmd_still (c : XCmd) (s : State) :
    Still s (State.takeXCmd c s) := by
  unfold State.takeXCmd
  repeat' (first
    | with_reducible assumption
    | with_reducible exact Still.refl _
    | with_reducible apply Still.trans _ (State.runXCmd_still ..)
    | split
    | (with_reducible refine Still.fields ?_ rfl ⟨rfl, rfl⟩; first | with_reducible assumption | with_reducible exact Still.refl _))

theorem State.endCommit_kept (s : State) (c : Commit) (ok : Bool) (addr : BitVec 32) :
    Kept s (State.endCommit s c ok addr) := by
  unfold State.endCommit
  extract_lets seg region src x seq nor src₁ y z src₂ u v w
  have hx : Kept s x := Kept.fields (Kept.refl s) rfl rfl
  split
  · have hu : Kept s u := by
      refine hx.trans (.ofForm rfl rfl rfl fun k => ⟨k.1, k.2.1, ?_, k.2.2.2.1, k.2.2.2.2⟩)
      have : u.xspi.nor = nor := by
        show z.nor = nor
        have hy : y.nor = nor := by
          simp only [y, Xspi.addRecord]
          split <;> rfl
        simp only [z]
        split <;> exact hy
      rw [this]
      simp only [nor]
      split
      · exact k.2.2.1
      · exact Memory.write_wf k.2.2.1 _ _
    have hv : Kept s v := by
      simp only [v]
      split
      · exact hu.trans (State.setObj_kept ..)
      · exact hu
    split
    · exact hv.trans (State.setObj_kept ..)
    · exact hv.trans (State.setObj_kept ..)
  · have hw : Kept s w := hx.trans (State.soot__still ..).kept
    split
    · exact (hw.trans (State.setObj_kept ..)).trans (State.alert_still ..).kept
    · exact hw.trans (State.setObj_kept ..)

theorem State.runHeldCmd_still (s : State) :
    Still s (State.runHeldCmd s) := by
  unfold State.runHeldCmd
  repeat' (first
    | with_reducible assumption
    | with_reducible exact Still.refl _
    | with_reducible apply Still.trans _ (State.runXCmd_still ..)
    | split
    | (with_reducible refine Still.fields ?_ rfl ⟨rfl, rfl⟩; first | with_reducible assumption | with_reducible exact Still.refl _))

end Sys2Proof.Machine
end

