-- ==== Sys2Proof/Laws/Kept/Mode.lean ====
section
/-!
SUPPORT. What the operations of Machine/Mode.lean keep (Safety.lean: Still, Steady, or Kept).
-/

namespace Sys2Proof.Machine

theorem State.applyChange_still (s : State) :
    Still s (State.applyChange s) := by
  unfold State.applyChange
  repeat' (first
    | with_reducible assumption
    | with_reducible exact Still.refl _
    | split
    | (with_reducible refine Still.fields ?_ rfl ⟨rfl, rfl⟩; first | with_reducible assumption | with_reducible exact Still.refl _))

theorem State.endStoke_still (s : State) :
    Still s (State.endStoke s) := by
  unfold State.endStoke
  repeat' (first
    | with_reducible assumption
    | with_reducible exact Still.refl _
    | (extract_lets +onlyGivenNames x
       first
       | (refine Still.via (t := x) ?side (fun hx => ?main); (case' side => subst x); (case' main => (clear_value x; revert x; intro _ _)))
       | subst x)
    | with_reducible apply Still.trans _ (State.count_still ..)
    | split
    | dsimp -zeta only
    | (with_reducible refine Still.fields ?_ rfl ⟨rfl, rfl⟩; first | with_reducible assumption | with_reducible exact Still.refl _))

theorem State.stokeEnds_still (s : State) :
    Still s (State.stokeEnds s) := by
  unfold State.stokeEnds
  repeat' (first
    | with_reducible assumption
    | with_reducible exact Still.refl _
    | split
    | (with_reducible refine Still.fields ?_ rfl ⟨rfl, rfl⟩; first | with_reducible assumption | with_reducible exact Still.refl _))

theorem State.stopSeq_still (s : State) :
    Still s (State.stopSeq s) := by
  unfold State.stopSeq
  repeat' (first
    | with_reducible assumption
    | with_reducible exact Still.refl _
    | (extract_lets +onlyGivenNames x
       first
       | (refine Still.via (t := x) ?side (fun hx => ?main); (case' side => subst x); (case' main => (clear_value x; revert x; intro _ _)))
       | subst x)
    | with_reducible apply Still.trans _ (State.setObj_still ..)
    | split
    | dsimp -zeta only
    | (with_reducible refine Still.fields ?_ rfl ⟨rfl, rfl⟩; with_reducible assumption))

theorem State.portsDown_still (s : State) :
    Still s (State.portsDown s) := by
  unfold State.portsDown
  repeat' (first
    | with_reducible assumption
    | with_reducible exact Still.refl _
    | split
    | (with_reducible refine Still.fields ?_ rfl ⟨rfl, rfl⟩; first | with_reducible assumption | with_reducible exact Still.refl _))

theorem State.quiesce_still (s : State) :
    Still s (State.quiesce s) := by
  unfold State.quiesce
  repeat' (first
    | with_reducible assumption
    | with_reducible exact Still.refl _
    | split
    | (with_reducible refine Still.fields ?_ rfl ⟨rfl, rfl⟩; first | with_reducible assumption | with_reducible exact Still.refl _))

theorem State.leaveRunning_still (s : State) :
    Still s (State.leaveRunning s) := by
  unfold State.leaveRunning
  repeat' (first
    | with_reducible assumption
    | with_reducible exact Still.refl _
    | with_reducible apply Still.trans _ (State.applyChange_still ..)
    | with_reducible apply Still.trans _ (State.endStoke_still ..))

theorem State.abandonXfer_still (s : State) :
    Still s (State.abandonXfer s) := by
  unfold State.abandonXfer
  repeat' (first
    | with_reducible assumption
    | with_reducible exact Still.refl _
    | split
    | (with_reducible refine Still.fields ?_ rfl ⟨rfl, rfl⟩; first | with_reducible assumption | with_reducible exact Still.refl _))

theorem State.enter_kept (s : State) (m : Mode) (reason : ℕ) :
    Kept s (State.enter s m reason) := by
  unfold State.enter
  repeat' (first
    | with_reducible assumption
    | with_reducible exact Kept.refl _
    | (extract_lets +onlyGivenNames x
       first
       | (refine Kept.via (t := x) ?side (fun hx => ?main); (case' side => subst x); (case' main => (clear_value x; revert x; intro _ _)))
       | subst x)
    | with_reducible apply Kept.trans _ (State.abandonXfer_still ..).kept
    | with_reducible apply Kept.trans _ (State.setObj_kept ..)
    | with_reducible apply Kept.trans _ (State.alert_still ..).kept
    | split
    | dsimp -zeta only
    | (with_reducible refine Kept.fields ?_ rfl rfl; with_reducible assumption))

theorem State.abandonStep_steady (cause : Option ℕ) (s : State) (b : Bool) :
    Steady s (State.abandonStep cause s b) := by
  unfold State.abandonStep
  repeat' (first
    | with_reducible assumption
    | with_reducible exact Steady.refl _
    | with_reducible apply Steady.trans _ (State.logFaultEnd_steady ..)
    | with_reducible apply Steady.trans _ (State.endRecords_steady ..)
    | with_reducible apply Steady.trans _ (State.setStep_still ..).steady
    | split)

theorem State.abandonSteps_steady (s : State) (cause : Option ℕ) :
    Steady s (State.abandonSteps s cause) := by
  unfold State.abandonSteps
  repeat' (first
    | with_reducible assumption
    | with_reducible exact Steady.refl _
    | (extract_lets +onlyGivenNames x
       subst x)
    | with_reducible apply Steady.trans _ (State.abandonStep_steady ..)
    | with_reducible apply Steady.foldl _ _ _ (fun _ _ => ?_))

theorem State.autoSnapshot_still (s : State) :
    Still s (State.autoSnapshot s) := by
  unfold State.autoSnapshot
  repeat' (first
    | with_reducible assumption
    | with_reducible exact Still.refl _
    | with_reducible apply Still.trans _ (State.startCommit_still ..)
    | split
    | (with_reducible refine Still.fields ?_ rfl ⟨rfl, rfl⟩; first | with_reducible assumption | with_reducible exact Still.refl _))

theorem State.faultEntry_kept (s : State) (reason : ℕ) (cause : ℕ) :
    Kept s (State.faultEntry s reason cause) := by
  unfold State.faultEntry
  repeat' (first
    | with_reducible assumption
    | with_reducible exact Kept.refl _
    | (extract_lets +onlyGivenNames x
       first
       | (refine Kept.via (t := x) ?side (fun hx => ?main); (case' side => subst x); (case' main => (clear_value x; revert x; intro _ _)))
       | subst x)
    | with_reducible apply Kept.trans _ (State.leaveRunning_still ..).kept
    | with_reducible apply Kept.trans _ (State.portsDown_still ..).kept
    | with_reducible apply Kept.trans _ (State.quiesce_still ..).kept
    | with_reducible apply Kept.trans _ (State.stopSeq_still ..).kept
    | with_reducible apply Kept.trans _ (State.abandonSteps_steady ..).kept
    | with_reducible apply Kept.trans _ (State.alert_still ..).kept
    | with_reducible apply Kept.trans _ (State.enter_kept ..)
    | with_reducible apply Kept.trans _ (State.autoSnapshot_still ..).kept
    | split
    | dsimp -zeta only
    | with_reducible refine Kept.fields ?_ rfl rfl)

theorem State.kindleFail_kept (s : State) (check : ℕ) (e : SootEv) :
    Kept s (State.kindleFail s check e) := by
  unfold State.kindleFail
  repeat' (first
    | with_reducible assumption
    | with_reducible exact Kept.refl _
    | with_reducible apply Kept.trans _ (State.soot__still ..).kept
    | with_reducible apply Kept.trans _ (State.setObj_kept ..)
    | with_reducible apply Kept.trans _ (State.faultEntry_kept ..))

theorem State.kindleEntry_kept (s : State) (reason : ℕ) :
    Kept s (State.kindleEntry s reason) := by
  unfold State.kindleEntry
  refine Kept.trans ?_ (State.enter_kept ..)
  refine Kept.trans (t := s.stopSeq.quiesce.portsDown.leaveRunning) ?_ ?_
  · repeat' (first
    | with_reducible assumption
    | with_reducible exact Kept.refl _
    | (extract_lets +onlyGivenNames x
       subst x)
    | with_reducible apply Kept.trans _ (State.leaveRunning_still ..).kept
    | with_reducible apply Kept.trans _ (State.portsDown_still ..).kept
    | with_reducible apply Kept.trans _ (State.quiesce_still ..).kept
    | with_reducible apply Kept.trans _ (State.stopSeq_still ..).kept)
  · exact .ofForm rfl rfl rfl fun c => ⟨c.1, c.2.1, c.2.2.1, Memory.nil_wf, Tabs.filter_wf c.2.2.2.2 _⟩

theorem State.kindlePassed_kept (s : State) :
    Kept s (State.kindlePassed s) := by
  unfold State.kindlePassed
  repeat' (first
    | with_reducible assumption
    | with_reducible exact Kept.refl _
    | with_reducible apply Kept.trans _ (State.setObj_kept ..)
    | with_reducible apply Kept.trans _ (State.enter_kept ..))

end Sys2Proof.Machine
end

