-- ==== Sys2Proof/Laws/Kept/Digests.lean ====
section
/-!
SUPPORT. What the operations of Machine/Digests.lean keep (Safety.lean: Still, Steady, or Kept).
-/

namespace Sys2Proof.Machine

theorem State.formWt_steady (s : State) (b : Bool) :
    Steady s (State.formWt s b) := by
  unfold State.formWt
  repeat' (first
    | with_reducible assumption
    | with_reducible exact Steady.refl _
    | (extract_lets +onlyGivenNames x
       first
       | (refine Steady.via (t := x) ?side (fun hx => ?main); (case' side => subst x); (case' main => (clear_value x; revert x; intro _ _)))
       | subst x)
    | with_reducible apply Steady.trans _ (State.logFree_steady ..)
    | split
    | dsimp -zeta only
    | (with_reducible refine Steady.fields ?_ rfl ⟨rfl, rfl⟩; with_reducible assumption))

theorem State.takeWdigest_steady (s : State) (bs : List Sys2Proof.Byte) :
    Steady s (State.takeWdigest s bs) := by
  unfold State.takeWdigest
  repeat' (first
    | with_reducible assumption
    | with_reducible exact Steady.refl _
    | (extract_lets +onlyGivenNames x
       first
       | (refine Steady.via (t := x) ?side (fun hx => ?main); (case' side => subst x); (case' main => (clear_value x; revert x; intro _ _)))
       | subst x)
    | with_reducible apply Steady.trans _ (State.logFree_steady ..)
    | with_reducible apply Steady.trans _ (State.formWt_steady ..)
    | split
    | dsimp -zeta only
    | (with_reducible refine Steady.fields ?_ rfl ⟨rfl, rfl⟩; with_reducible assumption))

theorem State.supplyWdigest_steady (s : State) (bs : List Sys2Proof.Byte) :
    Steady s (State.supplyWdigest s bs) := by
  unfold State.supplyWdigest
  repeat' (first
    | with_reducible assumption
    | with_reducible exact Steady.refl _
    | with_reducible apply Steady.trans _ (State.orHold_steady _ _ _ _ (fun _ => ?_))
    | with_reducible apply Steady.trans _ (State.takeWdigest_steady ..))

theorem State.digestParity_still (s : State) (engine : ℕ) :
    Still s (State.digestParity s engine) := by
  unfold State.digestParity
  repeat' (first
    | with_reducible assumption
    | with_reducible exact Still.refl _
    | (extract_lets +onlyGivenNames x
       subst x)
    | with_reducible apply Still.trans _ (State.soot__still ..)
    | split
    | dsimp -zeta only
    | (with_reducible refine Still.fields ?_ rfl ⟨rfl, rfl⟩; first | with_reducible assumption | with_reducible exact Still.refl _))

theorem State.digestEnd_still (s : State) :
    Still s (State.digestEnd s) := by
  unfold State.digestEnd
  repeat' (first
    | with_reducible assumption
    | with_reducible exact Still.refl _
    | split
    | (with_reducible refine Still.fields ?_ rfl ⟨rfl, rfl⟩; first | with_reducible assumption | with_reducible exact Still.refl _))

theorem State.formBlocks_steady (s : State) :
    Steady s (State.formBlocks s) := by
  unfold State.formBlocks
  repeat' (first
    | with_reducible assumption
    | with_reducible exact Steady.refl _
    | (extract_lets +onlyGivenNames x
       subst x)
    | with_reducible apply Steady.trans _ (State.writeMem_steady ..)
    | with_reducible apply Steady.foldl _ _ _ (fun _ _ => ?_)
    | with_reducible apply Steady.foldl₁ _ _ _ (fun _ _ => ?_)
    | with_reducible apply Steady.foldl₂ _ _ _ (fun _ _ => ?_)
    | split
    | with_reducible refine Steady.eq₁ (by with_reducible assumption) ?_
    | with_reducible refine Steady.eq₂ (by with_reducible assumption) ?_
    | with_reducible refine Steady.opt_eq (by with_reducible assumption) ?_
    | with_reducible refine Steady.opt₂_eq (by with_reducible assumption) ?_
    | dsimp -zeta only
    | with_reducible refine Steady.fields ?_ rfl ⟨rfl, rfl⟩)

end Sys2Proof.Machine
end

