-- ==== Sys2Proof/Laws/Kept/DomainWrite.lean ====
section
/-!
SUPPORT. What the operations of Machine/DomainWrite.lean keep (Safety.lean: Still, Steady, or Kept).
-/

namespace Sys2Proof.Machine

theorem State.takeGroups_still (s : State) (g : Tab (BitVec 32)) :
    Still s (State.takeGroups s g).1 := by
  unfold State.takeGroups
  cases badGroup g with
  | some n => exact State.setObj_still ..
  | none => exact Still.fields (Still.refl s) rfl ⟨rfl, rfl⟩

theorem State.takeDomain_steady (s : State) (key : ℕ) (bs : List Sys2Proof.Byte) :
    Steady s (State.takeDomain s key bs).1 := by
  unfold State.takeDomain
  extract_lets +onlyGivenNames t
  refine Steady.cond₁ (Steady.fields (State.setObj_steady ..) rfl ⟨rfl, rfl⟩) ?_
  refine Steady.cond₁ (Steady.fields (State.setObj_steady ..) rfl ⟨rfl, rfl⟩) ?_
  refine Steady.cond₁ (Steady.fields (Steady.refl s) rfl ⟨rfl, rfl⟩) ?_
  refine Steady.cond₁ (Steady.fields (Steady.refl s) rfl ⟨rfl, rfl⟩) ?_
  refine Steady.cond₁ (State.takeGroups_still ..).steady ?_
  refine Steady.cond₁ ?_ ?_
  · extract_lets +onlyGivenNames m code x
    have hx : Steady s x := State.setObj_steady ..
    clear_value x code m
    exact Steady.cond₁ (Steady.fields hx rfl ⟨rfl, rfl⟩) hx
  refine Steady.cond₁ (Steady.cond₁ (Steady.fields (Steady.refl s) rfl ⟨rfl, rfl⟩) (State.supplyWdigest_steady ..)) ?_
  refine Steady.cond₁ (Steady.fields (Steady.refl s) rfl ⟨rfl, rfl⟩) ?_
  exact Steady.cond₁ (Steady.fields (Steady.refl s) rfl ⟨rfl, rfl⟩) (Steady.refl s)

end Sys2Proof.Machine
end

