-- ==== Sys2Proof/Laws/Kept/Power.lean ====
section
/-!
SUPPORT. What the operations of Machine/Power.lean keep (Safety.lean: Still, Steady, or Kept).
-/

namespace Sys2Proof.Machine

theorem State.clearSeen_kept (s : State) :
    Kept s (State.clearSeen s) := by
  unfold State.clearSeen
  extract_lets base
  split
  · exact .refl _
  · exact .clearMem _ _ rfl rfl rfl rfl rfl rfl rfl rfl

theorem State.clearFabric_kept (s : State) (banked : Bool) :
    Kept s (State.clearFabric s banked) := by
  unfold State.clearFabric
  extract_lets f port kept
  exact Kept.trans (.fields (.refl _) rfl rfl) (State.clearSeen_kept _)

theorem State.syncPulse_kept (s : State) (high : ℕ) :
    Kept s (State.syncPulse s high) := by
  unfold State.syncPulse
  repeat' (first
    | with_reducible assumption
    | with_reducible exact Kept.refl _
    | split
    | (with_reducible refine Kept.fields ?_ rfl rfl; first | with_reducible assumption | with_reducible exact Kept.refl _))

theorem State.trayFault_kept (s : State) (loc : ℕ) :
    Kept s (State.trayFault s loc) := by
  unfold State.trayFault
  repeat' (first
    | with_reducible assumption
    | with_reducible exact Kept.refl _
    | with_reducible apply Kept.trans _ (State.faultEntry_kept ..)
    | with_reducible apply Kept.trans _ (State.soot__still ..).kept)

theorem State.bankEffect_kept (s : State) :
    Kept s (State.bankEffect s) := by
  unfold State.bankEffect
  repeat' (first
    | with_reducible assumption
    | with_reducible exact Kept.refl _
    | (extract_lets +onlyGivenNames x
       first
       | (refine Kept.via (t := x) ?side (fun hx => ?main); (case' side => subst x); (case' main => (clear_value x; revert x; intro _ _)))
       | subst x)
    | with_reducible apply Kept.trans _ (State.portsDown_still ..).kept
    | with_reducible apply Kept.trans _ (State.clearFabric_kept ..)
    | with_reducible apply Kept.trans _ (State.quiesce_still ..).kept
    | with_reducible apply Kept.trans _ (State.enter_kept ..)
    | split
    | dsimp -zeta only
    | (with_reducible refine Kept.fields ?_ rfl rfl; with_reducible assumption))

theorem State.unbankEffect_kept (s : State) :
    Kept s (State.unbankEffect s) := by
  unfold State.unbankEffect
  repeat' (first
    | with_reducible assumption
    | with_reducible exact Kept.refl _
    | split
    | (with_reducible refine Kept.fields ?_ rfl rfl; first | with_reducible assumption | with_reducible exact Kept.refl _))

theorem State.resetEffect_kept (s : State) :
    Kept s (State.resetEffect s) := by
  unfold State.resetEffect
  repeat' (first
    | with_reducible assumption
    | with_reducible exact Kept.refl _
    | with_reducible apply Kept.trans _ (State.kindleEntry_kept ..)
    | split
    | (with_reducible refine Kept.fields ?_ rfl rfl; first | with_reducible assumption | with_reducible exact Kept.refl _))

theorem State.stateCmd_kept (v : ℕ) (s : State) :
    Kept s (State.stateCmd v s) := by
  unfold State.stateCmd
  repeat' (first
    | with_reducible assumption
    | with_reducible exact Kept.refl _
    | with_reducible apply Kept.trans _ (State.bankEffect_kept ..)
    | with_reducible apply Kept.trans _ (State.unbankEffect_kept ..)
    | with_reducible apply Kept.trans _ (State.resetEffect_kept ..)
    | split)

theorem execPowerGood_kept (location : BitVec 32) (eng : Bool) (grade14 : Bool) (s : State) :
    ∃ t, execPowerGood location eng grade14 s = .next t ∧ Kept s t := by
  unfold execPowerGood
  refine ⟨_, rfl, ?_⟩
  split
  · exact ⟨rfl, List.prefix_rfl, Nat.le_refl _, fun c => ⟨Memory.nil_wf, Memory.nil_wf, c.2.2.1, Memory.nil_wf, Tabs.wf_nil⟩⟩
  · exact Kept.refl _

theorem execPowerRemoved_kept (s : State) :
    ∃ t, execPowerRemoved s = .next t ∧ Kept s t := by
  unfold execPowerRemoved
  refine ⟨_, rfl, ?_⟩
  split
  · exact Kept.refl _
  · exact ⟨rfl, List.prefix_rfl, Nat.le_refl _, fun c => ⟨Memory.nil_wf, Memory.nil_wf, c.2.2.1, Memory.nil_wf, Tabs.wf_nil⟩⟩

theorem execPackageReset_kept (s : State) :
    ∃ t, execPackageReset s = .next t ∧ Kept s t := by
  unfold execPackageReset
  refine ⟨_, rfl, ?_⟩
  repeat' (first
    | with_reducible assumption
    | with_reducible exact Kept.refl _
    | with_reducible apply Kept.trans _ (State.kindleEntry_kept ..)
    | split)

theorem State.toPhase_kept (s : State) (n : ℕ) :
    Kept s (State.toPhase s n) := by
  unfold State.toPhase
  repeat' (first
    | with_reducible assumption
    | with_reducible exact Kept.refl _
    | split
    | (with_reducible refine Kept.fields ?_ rfl rfl; first | with_reducible assumption | with_reducible exact Kept.refl _))

theorem State.endPhase_kept (s : State) (n : ℕ) (fail : Option (BitVec 24)) (work : State → State) (hwork : ∀ x0, Kept x0 (work x0)) :
    Kept s (State.endPhase s n fail work) := by
  unfold State.endPhase
  repeat' (first
    | with_reducible assumption
    | with_reducible exact Kept.refl _
    | with_reducible apply Kept.trans _ (State.kindleFail_kept ..)
    | with_reducible apply Kept.trans _ (State.toPhase_kept ..)
    | split
    | with_reducible apply Kept.trans _ (hwork ..))

theorem execReferenceCheck_kept (fail : Option (BitVec 24)) (s : State) :
    ∃ t, execReferenceCheck fail s = .next t ∧ Kept s t := by
  unfold execReferenceCheck
  refine ⟨_, rfl, ?_⟩
  repeat' (first
    | with_reducible assumption
    | with_reducible exact Kept.refl _
    | with_reducible apply Kept.trans _ (State.endPhase_kept _ _ _ _ (fun _ => ?_)))

theorem execNodeIdFormed_kept (lockstepFail : Option (BitVec 24)) (s : State) :
    ∃ t, execNodeIdFormed lockstepFail s = .next t ∧ Kept s t := by
  unfold execNodeIdFormed
  refine ⟨_, rfl, ?_⟩
  repeat' (first
    | with_reducible assumption
    | with_reducible exact Kept.refl _
    | with_reducible apply Kept.trans _ (State.takeFree_kept ..)
    | with_reducible apply Kept.trans _ (State.kindleFail_kept ..)
    | with_reducible apply Kept.trans _ (State.endPhase_kept _ _ _ _ (fun _ => ?_))
    | with_reducible apply Kept.trans _ (State.setObj_kept ..)
    | split)

theorem State.clearArrays_still (s : State) :
    Still s (State.clearArrays s) := by
  unfold State.clearArrays
  repeat' (first
    | with_reducible assumption
    | with_reducible exact Still.refl _
    | split
    | (with_reducible refine Still.fields ?_ rfl ⟨rfl, rfl⟩; first | with_reducible assumption | with_reducible exact Still.refl _))

theorem execMarchTest_kept (fail : Option (BitVec 24)) (s : State) :
    ∃ t, execMarchTest fail s = .next t ∧ Kept s t := by
  unfold execMarchTest
  refine ⟨_, rfl, ?_⟩
  repeat' (first
    | with_reducible assumption
    | with_reducible exact Kept.refl _
    | with_reducible apply Kept.trans _ (State.endPhase_kept _ _ _ _ (fun _ => ?_))
    | with_reducible apply Kept.trans _ (State.clearArrays_still ..).kept)

theorem execRomLoads_kept (fail : Option (BitVec 24 × BitVec 32)) (s : State) :
    ∃ t, execRomLoads fail s = .next t ∧ Kept s t := by
  unfold execRomLoads
  refine ⟨_, rfl, ?_⟩
  repeat' (first
    | with_reducible assumption
    | with_reducible exact Kept.refl _
    | with_reducible apply Kept.trans _ (State.kindleFail_kept ..)
    | with_reducible apply Kept.trans _ (State.toPhase_kept ..)
    | with_reducible apply Kept.trans _ (State.setObj_kept ..)
    | split
    | (with_reducible refine Kept.fields ?_ rfl rfl; first | with_reducible assumption | with_reducible exact Kept.refl _))

theorem State.unitClears_kept (s : State) :
    Kept s (State.unitClears s) := by
  unfold State.unitClears
  extract_lets x src y
  have hy : Kept s y := Kept.fields (State.clearFabric_kept s false) rfl rfl
  exact ((hy.trans (State.setObj_kept ..)).trans (State.setObj_kept ..)).trans (State.setObj_kept ..)

theorem execUnitSelfTests_kept (fail : Option (BitVec 24)) (pipePair : Option (BitVec 16)) (s : State) :
    ∃ t, execUnitSelfTests fail pipePair s = .next t ∧ Kept s t := by
  unfold execUnitSelfTests
  refine ⟨_, rfl, ?_⟩
  repeat' (first
    | with_reducible assumption
    | with_reducible exact Kept.refl _
    | with_reducible apply Kept.trans _ (State.kindleFail_kept ..)
    | with_reducible apply Kept.trans _ (State.count_still ..).kept
    | with_reducible apply Kept.trans _ (State.endPhase_kept _ _ _ _ (fun _ => ?_))
    | with_reducible apply Kept.trans _ (State.unitClears_kept ..)
    | split)

theorem State.restoreRec_steady (s : State) (r : SetRec) :
    Steady s (State.restoreRec s r) := by
  unfold State.restoreRec
  repeat' (first
    | with_reducible assumption
    | with_reducible exact Steady.refl _
    | with_reducible apply Steady.trans _ (State.soot__still ..).steady
    | with_reducible apply Steady.trans _ (State.setObj_steady ..)
    | with_reducible apply Steady.trans _ (State.takeDomain_steady ..)
    | split)

theorem State.defaultObjs_still (s : State) :
    Still s (State.defaultObjs s) := ⟨.ofForm (.ofForm rfl rfl rfl fun c => ⟨c.1, c.2.1, c.2.2.1, c.2.2.2.1, Tabs.filter_wf c.2.2.2.2 _⟩) rfl rfl rfl rfl rfl rfl rfl rfl, rfl, rfl⟩

theorem execPersistRestore_kept (s : State) :
    ∃ t, execPersistRestore s = .next t ∧ Kept s t := by
  unfold execPersistRestore
  refine ⟨_, rfl, ?_⟩
  repeat' (first
    | with_reducible assumption
    | with_reducible exact Kept.refl _
    | (extract_lets +onlyGivenNames x
       first
       | (refine Kept.via (t := x) ?side (fun hx => ?main); (case' side => subst x); (case' main => (clear_value x; revert x; intro _ _)))
       | subst x)
    | with_reducible apply Kept.trans _ (State.defaultObjs_still ..).kept
    | with_reducible apply Kept.trans _ (State.toPhase_kept ..)
    | with_reducible apply Kept.trans _ (State.soot__still ..).kept
    | with_reducible apply Kept.trans _ (State.restoreRec_steady ..).kept
    | with_reducible apply Kept.foldl _ _ _ (fun _ _ => ?_)
    | with_reducible apply Kept.foldl₁ _ _ _ (fun _ _ => ?_)
    | with_reducible apply Kept.foldl₂ _ _ _ (fun _ _ => ?_)
    | split)

theorem State.rolesMeet_kept (s : State) (peer : ℕ) :
    Kept s (State.rolesMeet s peer) := by
  unfold State.rolesMeet
  repeat' (first
    | with_reducible assumption
    | with_reducible exact Kept.refl _
    | (extract_lets +onlyGivenNames x
       first
       | (refine Kept.via (t := x) ?side (fun hx => ?main); (case' side => subst x); (case' main => (clear_value x; revert x; intro _ _)))
       | subst x)
    | with_reducible apply Kept.trans _ (State.toPhase_kept ..)
    | with_reducible apply Kept.trans _ (State.soot__still ..).kept
    | with_reducible apply Kept.trans _ (State.alert_still ..).kept
    | split
    | dsimp -zeta only
    | (with_reducible refine Kept.fields ?_ rfl rfl; with_reducible assumption))

theorem State.afterTraining_kept (s : State) :
    Kept s (State.afterTraining s) := by
  unfold State.afterTraining
  repeat' (first
    | with_reducible assumption
    | with_reducible exact Kept.refl _
    | (extract_lets +onlyGivenNames x
       first
       | (refine Kept.via (t := x) ?side (fun hx => ?main); (case' side => subst x); (case' main => (clear_value x; revert x; intro _ _)))
       | subst x)
    | with_reducible apply Kept.trans _ (State.toPeer_still ..).kept
    | with_reducible apply Kept.trans _ (State.toPhase_kept ..)
    | with_reducible apply Kept.trans _ (State.rolesMeet_kept ..)
    | split)

theorem State.grantDies_still (s : State) :
    Still s (State.grantDies s) := by
  unfold State.grantDies
  repeat' (first
    | with_reducible assumption
    | with_reducible exact Still.refl _
    | (extract_lets +onlyGivenNames x
       subst x)
    | with_reducible apply Still.trans _ (State.emit_still ..)
    | with_reducible apply Still.foldl _ _ _ (fun _ _ => ?_))

theorem execDieLinkTraining_kept (fail : Option (BitVec 24)) (s : State) :
    ∃ t, execDieLinkTraining fail s = .next t ∧ Kept s t := by
  unfold execDieLinkTraining
  refine ⟨_, rfl, ?_⟩
  repeat' (first
    | with_reducible assumption
    | with_reducible exact Kept.refl _
    | with_reducible apply Kept.trans _ (State.kindleFail_kept ..)
    | with_reducible apply Kept.trans _ (State.toPhase_kept ..)
    | with_reducible apply Kept.trans _ (State.afterTraining_kept ..)
    | with_reducible apply Kept.trans _ (State.grantDies_still ..).kept
    | split
    | (with_reducible refine Kept.fields ?_ rfl rfl; first | with_reducible assumption | with_reducible exact Kept.refl _))

theorem execLpddrTraining_kept (fail : Option (BitVec 24)) (s : State) :
    ∃ t, execLpddrTraining fail s = .next t ∧ Kept s t := by
  unfold execLpddrTraining
  refine ⟨_, rfl, ?_⟩
  repeat' (first
    | with_reducible assumption
    | with_reducible exact Kept.refl _
    | with_reducible apply Kept.trans _ (State.kindleFail_kept ..)
    | with_reducible apply Kept.trans _ (State.toPhase_kept ..)
    | with_reducible apply Kept.trans _ (State.afterTraining_kept ..)
    | split
    | (with_reducible refine Kept.fields ?_ rfl rfl; first | with_reducible assumption | with_reducible exact Kept.refl _))

theorem State.peerBack_kept (s : State) :
    Kept s (State.peerBack s) := by
  unfold State.peerBack
  repeat' (first
    | with_reducible assumption
    | with_reducible exact Kept.refl _
    | (extract_lets +onlyGivenNames x
       first
       | (refine Kept.via (t := x) ?side (fun hx => ?main); (case' side => subst x); (case' main => (clear_value x; revert x; intro _ _)))
       | subst x)
    | with_reducible apply Kept.trans _ (State.toPeer_still ..).kept
    | split
    | dsimp -zeta only
    | (with_reducible refine Kept.fields ?_ rfl rfl; first | with_reducible assumption | with_reducible exact Kept.refl _))

theorem execPackageBarrier_kept (peerRole : Sys2Proof.Byte) (s : State) :
    ∃ t, execPackageBarrier peerRole s = .next t ∧ Kept s t := by
  unfold execPackageBarrier
  refine ⟨_, rfl, ?_⟩
  repeat' (first
    | with_reducible assumption
    | with_reducible exact Kept.refl _
    | (extract_lets +onlyGivenNames x
       first
       | (refine Kept.via (t := x) ?side (fun hx => ?main); (case' side => subst x); (case' main => (clear_value x; revert x; intro _ _)))
       | subst x)
    | with_reducible apply Kept.trans _ (State.peerBack_kept ..)
    | with_reducible apply Kept.trans _ (State.rolesMeet_kept ..)
    | split
    | dsimp -zeta only
    | (with_reducible refine Kept.fields ?_ rfl rfl; with_reducible assumption))

theorem execPackageBarrierTimeout_kept (s : State) :
    ∃ t, execPackageBarrierTimeout s = .next t ∧ Kept s t := by
  unfold execPackageBarrierTimeout
  refine ⟨_, rfl, ?_⟩
  repeat' (first
    | with_reducible assumption
    | with_reducible exact Kept.refl _
    | (extract_lets +onlyGivenNames x
       first
       | (refine Kept.via (t := x) ?side (fun hx => ?main); (case' side => subst x); (case' main => (clear_value x; revert x; intro _ _)))
       | subst x)
    | with_reducible apply Kept.trans _ (State.soot__still ..).kept
    | with_reducible apply Kept.trans _ (State.alert_still ..).kept
    | split
    | dsimp -zeta only
    | (with_reducible refine Kept.fields ?_ rfl rfl; with_reducible assumption))

theorem execTrayMasterListenEnd_kept (s : State) :
    ∃ t, execTrayMasterListenEnd s = .next t ∧ Kept s t := by
  unfold execTrayMasterListenEnd
  refine ⟨_, rfl, ?_⟩
  repeat' (first
    | with_reducible assumption
    | with_reducible exact Kept.refl _
    | with_reducible apply Kept.trans _ (State.emit_kept ..)
    | split
    | (with_reducible refine Kept.fields ?_ rfl rfl; first | with_reducible assumption | with_reducible exact Kept.refl _))

theorem execPresencePulseTimer_still (nearStep : Bool) (s : State) :
    ∃ t, execPresencePulseTimer nearStep s = .next t ∧ Still s t := by
  unfold execPresencePulseTimer
  refine ⟨_, rfl, ?_⟩
  repeat' (first
    | with_reducible assumption
    | with_reducible exact Still.refl _
    | with_reducible apply Still.trans _ (State.emit_still ..)
    | split)

theorem execPresencePulse_kept (high : ℕ) (ownDriven : Bool) (s : State) :
    ∃ t, execPresencePulse high ownDriven s = .next t ∧ Kept s t := by
  unfold execPresencePulse
  refine ⟨_, rfl, ?_⟩
  repeat' (first
    | with_reducible assumption
    | with_reducible exact Kept.refl _
    | (extract_lets +onlyGivenNames x
       first
       | (refine Kept.via (t := x) ?side (fun hx => ?main); (case' side => subst x); (case' main => (clear_value x; revert x; intro _ _)))
       | subst x)
    | with_reducible apply Kept.trans _ (State.syncPulse_kept ..)
    | with_reducible apply Kept.trans _ (State.count_still ..).kept
    | with_reducible apply Kept.trans _ (State.trayFault_kept ..)
    | with_reducible apply Kept.trans _ (State.kindlePassed_kept ..)
    | split)

theorem execTrayBarrierTimeout_kept (s : State) :
    ∃ t, execTrayBarrierTimeout s = .next t ∧ Kept s t := by
  unfold execTrayBarrierTimeout
  refine ⟨_, rfl, ?_⟩
  repeat' (first
    | with_reducible assumption
    | with_reducible exact Kept.refl _
    | with_reducible apply Kept.trans _ (State.trayFault_kept ..)
    | split)

theorem execBank_kept (path : Sys2Proof.Path) (tag : Sys2Proof.ReqTag) (s : State) :
    ∃ t, execBank path tag s = .next t ∧ Kept s t := by
  unfold execBank
  refine ⟨_, rfl, ?_⟩
  repeat' (first
    | with_reducible assumption
    | with_reducible exact Kept.refl _
    | with_reducible apply Kept.trans _ (odWrite_kept _ _ _ _ (fun _ => ?_))
    | with_reducible apply Kept.trans _ (State.stateCmd_kept ..))

theorem execUnbank_kept (path : Sys2Proof.Path) (tag : Sys2Proof.ReqTag) (s : State) :
    ∃ t, execUnbank path tag s = .next t ∧ Kept s t := by
  unfold execUnbank
  refine ⟨_, rfl, ?_⟩
  repeat' (first
    | with_reducible assumption
    | with_reducible exact Kept.refl _
    | with_reducible apply Kept.trans _ (odWrite_kept _ _ _ _ (fun _ => ?_))
    | with_reducible apply Kept.trans _ (State.stateCmd_kept ..))

theorem execUnbankReady_kept (s : State) :
    ∃ t, execUnbankReady s = .next t ∧ Kept s t := by
  unfold execUnbankReady
  refine ⟨_, rfl, ?_⟩
  repeat' (first
    | with_reducible assumption
    | with_reducible exact Kept.refl _
    | with_reducible apply Kept.trans _ (State.enter_kept ..)
    | split
    | (with_reducible refine Kept.fields ?_ rfl rfl; first | with_reducible assumption | with_reducible exact Kept.refl _))

theorem execReset_kept (path : Sys2Proof.Path) (tag : Sys2Proof.ReqTag) (s : State) :
    ∃ t, execReset path tag s = .next t ∧ Kept s t := by
  unfold execReset
  refine ⟨_, rfl, ?_⟩
  repeat' (first
    | with_reducible assumption
    | with_reducible exact Kept.refl _
    | with_reducible apply Kept.trans _ (odWrite_kept _ _ _ _ (fun _ => ?_))
    | with_reducible apply Kept.trans _ (State.stateCmd_kept ..))

end Sys2Proof.Machine
end

