-- ==== Sys2Proof/Laws/Kept/Boundary.lean ====
section
/-!
SUPPORT. What the operations of Machine/Boundary.lean keep (Safety.lean: Still, Steady, or Kept).
-/

namespace Sys2Proof.Machine

theorem State.throttleBreaks_still (s : State) :
    Still s (State.throttleBreaks s) := by
  unfold State.throttleBreaks
  repeat' (first
    | with_reducible assumption
    | with_reducible exact Still.refl _
    | (extract_lets +onlyGivenNames x
       subst x)
    | with_reducible apply Still.trans _ (State.onStep_still ..)
    | with_reducible apply Still.foldl _ _ _ (fun _ _ => ?_))

theorem State.stepBoundary_still (s : State) :
    Still s (State.stepBoundary s) := by
  unfold State.stepBoundary
  extract_lets c x y
  have hx : Still s x := State.applyChange_still ..
  have hy : Still s y := by
    unfold y
    split
    · exact hx.trans (State.throttleBreaks_still ..)
    · exact hx
  clear_value x y
  split
  · split
    · exact hy.trans (State.endStoke_still ..)
    · exact hy
  · split
    · exact Still.trans (hy.fields rfl ⟨rfl, rfl⟩) (State.count_still ..)
    · exact hy

theorem State.armFtime_kept (v : ℕ) (s : State) :
    Kept s (State.armFtime v s) := by
  unfold State.armFtime
  repeat' (first
    | with_reducible assumption
    | with_reducible exact Kept.refl _
    | (extract_lets +onlyGivenNames x
       first
       | (refine Kept.via (t := x) ?side (fun hx => ?main); (case' side => subst x); (case' main => (clear_value x; revert x; intro _ _)))
       | subst x)
    | with_reducible apply Kept.trans _ (State.setObj_kept ..)
    | split
    | dsimp -zeta only
    | (with_reducible refine Kept.fields ?_ rfl rfl; with_reducible assumption))

theorem execFtimeNextWrite_kept (path : Sys2Proof.Path) (tag : Sys2Proof.ReqTag) (v : BitVec 64) (s : State) :
    ∃ t, execFtimeNextWrite path tag v s = .next t ∧ Kept s t := by
  unfold execFtimeNextWrite
  refine ⟨_, rfl, ?_⟩
  repeat' (first
    | with_reducible assumption
    | with_reducible exact Kept.refl _
    | with_reducible apply Kept.trans _ (odWrite_kept _ _ _ _ (fun _ => ?_))
    | with_reducible apply Kept.trans _ (State.armFtime_kept ..))

theorem State.takeIncarn_steady (s : State) :
    Steady s (State.takeIncarn s) := by
  unfold State.takeIncarn
  repeat' (first
    | with_reducible assumption
    | with_reducible exact Steady.refl _
    | with_reducible apply Steady.trans _ (State.pumpBulks_steady ..)
    | split
    | (with_reducible refine Steady.fields ?_ rfl ⟨rfl, rfl⟩; first | with_reducible assumption | with_reducible exact Steady.refl _))

theorem State.stepFtime_kept (s : State) :
    Kept s (State.stepFtime s) := by
  unfold State.stepFtime
  repeat' (first
    | with_reducible assumption
    | with_reducible exact Kept.refl _
    | (extract_lets +onlyGivenNames x
       first
       | (refine Kept.via (t := x) ?side (fun hx => ?main); (case' side => subst x); (case' main => (clear_value x; revert x; intro _ _)))
       | subst x)
    | with_reducible apply Kept.trans _ (State.takeFree_kept ..)
    | with_reducible apply Kept.trans _ (State.count_still ..).kept
    | with_reducible apply Kept.trans _ (State.soot__still ..).kept
    | with_reducible apply Kept.foldl _ _ _ (fun _ _ => ?_)
    | with_reducible apply Kept.foldl₁ _ _ _ (fun _ _ => ?_)
    | with_reducible apply Kept.foldl₂ _ _ _ (fun _ _ => ?_)
    | split
    | with_reducible refine Kept.eq₁ (by with_reducible assumption) ?_
    | with_reducible refine Kept.eq₂ (by with_reducible assumption) ?_
    | with_reducible refine Kept.opt_eq (by with_reducible assumption) ?_
    | with_reducible refine Kept.opt₂_eq (by with_reducible assumption) ?_
    | dsimp -zeta only
    | with_reducible refine Kept.fields ?_ rfl rfl)

theorem State.setFtime_kept (s : State) (v : BitVec 64) (armed : Option ℕ) :
    Kept s (State.setFtime s v armed) := by
  unfold State.setFtime
  repeat' (first
    | with_reducible assumption
    | with_reducible exact Kept.refl _
    | with_reducible apply Kept.trans _ (State.pumpFab_still ..).kept
    | with_reducible apply Kept.trans _ (State.takeIncarn_steady ..).kept
    | split
    | (with_reducible refine Kept.fields ?_ rfl rfl; first | with_reducible assumption | with_reducible exact Kept.refl _))

theorem State.plainEdge_kept (s : State) :
    Kept s (State.plainEdge s) := by
  unfold State.plainEdge
  repeat' (first
    | with_reducible assumption
    | with_reducible exact Kept.refl _
    | with_reducible apply Kept.trans _ (State.pumpFab_still ..).kept
    | with_reducible apply Kept.trans _ (State.stepFtime_kept ..)
    | split)

theorem execTimepulse_kept (s : State) :
    ∃ t, execTimepulse s = .next t ∧ Kept s t := by
  unfold execTimepulse
  refine ⟨_, rfl, ?_⟩
  repeat' (first
    | with_reducible assumption
    | with_reducible exact Kept.refl _
    | (extract_lets +onlyGivenNames x
       first
       | (refine Kept.via (t := x) ?side (fun hx => ?main); (case' side => subst x); (case' main => (clear_value x; revert x; intro _ _)))
       | subst x)
    | with_reducible apply Kept.trans _ (State.plainEdge_kept ..)
    | with_reducible apply Kept.trans _ (State.setFtime_kept ..)
    | split
    | dsimp -zeta only
    | (with_reducible refine Kept.fields ?_ rfl rfl; first | with_reducible assumption | with_reducible exact Kept.refl _))

theorem execTimepulseMissed_kept (s : State) :
    ∃ t, execTimepulseMissed s = .next t ∧ Kept s t := by
  unfold execTimepulseMissed
  refine ⟨_, rfl, ?_⟩
  repeat' (first
    | with_reducible assumption
    | with_reducible exact Kept.refl _
    | (extract_lets +onlyGivenNames x
       first
       | (refine Kept.via (t := x) ?side (fun hx => ?main); (case' side => subst x); (case' main => (clear_value x; revert x; intro _ _)))
       | subst x)
    | with_reducible apply Kept.trans _ (State.soot__still ..).kept
    | split
    | dsimp -zeta only
    | (with_reducible refine Kept.fields ?_ rfl rfl; with_reducible assumption))

theorem State.thermalStep_still (s : State) :
    Still s (State.thermalStep s) := by
  unfold State.thermalStep
  repeat' (first
    | with_reducible assumption
    | with_reducible exact Still.refl _
    | with_reducible apply Still.trans _ (State.alert_still ..)
    | with_reducible apply Still.trans _ (State.count_still ..))

theorem State.askChange_still (s : State) (throttle : Bool) :
    Still s (State.askChange s throttle) := by
  unfold State.askChange
  repeat' (first
    | with_reducible assumption
    | with_reducible exact Still.refl _
    | (extract_lets +onlyGivenNames x
       subst x)
    | with_reducible apply Still.trans _ (State.applyChange_still ..)
    | split
    | dsimp -zeta only
    | (with_reducible refine Still.fields ?_ rfl ⟨rfl, rfl⟩; first | with_reducible assumption | with_reducible exact Still.refl _))

theorem State.hotStoke_still (s : State) (tj : ℤ) :
    Still s (State.hotStoke s tj) := by
  unfold State.hotStoke
  repeat' (first
    | with_reducible assumption
    | with_reducible exact Still.refl _
    | with_reducible apply Still.trans _ (State.thermalStep_still ..)
    | with_reducible apply Still.trans _ (State.stokeEnds_still ..)
    | split)

theorem State.hotThrottle_still (s : State) (tj : ℤ) :
    Still s (State.hotThrottle s tj) := by
  unfold State.hotThrottle
  repeat' (first
    | with_reducible assumption
    | with_reducible exact Still.refl _
    | with_reducible apply Still.trans _ (State.askChange_still ..)
    | with_reducible apply Still.trans _ (State.thermalStep_still ..)
    | split
    | (with_reducible refine Still.fields ?_ rfl ⟨rfl, rfl⟩; first | with_reducible assumption | with_reducible exact Still.refl _))

theorem State.coolThrottle_still (s : State) (tj : ℤ) :
    Still s (State.coolThrottle s tj) := by
  unfold State.coolThrottle
  repeat' (first
    | with_reducible assumption
    | with_reducible exact Still.refl _
    | (extract_lets +onlyGivenNames x
       first
       | (refine Still.via (t := x) ?side (fun hx => ?main); (case' side => subst x); (case' main => (clear_value x; revert x; intro _ _)))
       | subst x)
    | with_reducible apply Still.trans _ (State.askChange_still ..)
    | split
    | dsimp -zeta only
    | (with_reducible refine Still.fields ?_ rfl ⟨rfl, rfl⟩; first | with_reducible assumption | with_reducible exact Still.refl _))

theorem State.thermalBank_steady (s : State) :
    Steady s (State.thermalBank s) := by
  unfold State.thermalBank
  repeat' (first
    | with_reducible assumption
    | with_reducible exact Steady.refl _
    | (extract_lets +onlyGivenNames x
       first
       | (refine Steady.via (t := x) ?side (fun hx => ?main); (case' side => subst x); (case' main => (clear_value x; revert x; intro _ _)))
       | subst x)
    | with_reducible apply Steady.trans _ (State.count_still ..).steady
    | with_reducible apply Steady.trans _ (State.thermalStep_still ..).steady
    | with_reducible apply Steady.trans _ (State.takeFree_steady ..)
    | with_reducible apply Steady.trans _ (State.markBoth_steady ..)
    | with_reducible apply Steady.trans _ (State.stopSeq_still ..).steady
    | with_reducible apply Steady.foldl _ _ _ (fun _ _ => ?_)
    | with_reducible apply Steady.foldl₁ _ _ _ (fun _ _ => ?_)
    | with_reducible apply Steady.foldl₂ _ _ _ (fun _ _ => ?_)
    | split
    | with_reducible refine Steady.eq₁ (by with_reducible assumption) ?_
    | with_reducible refine Steady.eq₂ (by with_reducible assumption) ?_
    | with_reducible refine Steady.opt_eq (by with_reducible assumption) ?_
    | with_reducible refine Steady.opt₂_eq (by with_reducible assumption) ?_
    | dsimp -zeta only
    | with_reducible refine Steady.fields ?_ rfl ⟨rfl, rfl⟩)

theorem State.hotBank_steady (s : State) (tj : ℤ) :
    Steady s (State.hotBank s tj) := by
  unfold State.hotBank
  repeat' (first
    | with_reducible assumption
    | with_reducible exact Steady.refl _
    | with_reducible apply Steady.trans _ (State.thermalBank_steady ..)
    | with_reducible apply Steady.trans _ (State.thermalStep_still ..).steady
    | split
    | (with_reducible refine Steady.fields ?_ rfl ⟨rfl, rfl⟩; first | with_reducible assumption | with_reducible exact Steady.refl _))

theorem execThermalSample_steady (t0 : BitVec 32) (t1 : BitVec 32) (t2 : BitVec 32) (t3 : BitVec 32) (s : State) :
    ∃ t, execThermalSample t0 t1 t2 t3 s = .next t ∧ Steady s t := by
  unfold execThermalSample
  refine ⟨_, rfl, ?_⟩
  repeat' (first
    | with_reducible assumption
    | with_reducible exact Steady.refl _
    | with_reducible apply Steady.trans _ (State.setObj_steady ..)
    | with_reducible apply Steady.trans _ (State.hotBank_steady ..)
    | with_reducible apply Steady.trans _ (State.coolThrottle_still ..).steady
    | with_reducible apply Steady.trans _ (State.hotThrottle_still ..).steady
    | with_reducible apply Steady.trans _ (State.hotStoke_still ..).steady
    | split)

theorem execThermalBankEntry_kept (s : State) :
    ∃ t, execThermalBankEntry s = .next t ∧ Kept s t := by
  unfold execThermalBankEntry
  refine ⟨_, rfl, ?_⟩
  repeat' (first
    | with_reducible assumption
    | with_reducible exact Kept.refl _
    | (extract_lets +onlyGivenNames x
       first
       | (refine Kept.via (t := x) ?side (fun hx => ?main); (case' side => subst x); (case' main => (clear_value x; revert x; intro _ _)))
       | subst x)
    | with_reducible apply Kept.trans _ (State.portsDown_still ..).kept
    | with_reducible apply Kept.trans _ (State.clearFabric_kept ..)
    | with_reducible apply Kept.trans _ (State.quiesce_still ..).kept
    | with_reducible apply Kept.trans _ (State.leaveRunning_still ..).kept
    | with_reducible apply Kept.trans _ (State.alert_still ..).kept
    | with_reducible apply Kept.trans _ (State.enter_kept ..)
    | split
    | dsimp -zeta only
    | (with_reducible refine Kept.fields ?_ rfl rfl; with_reducible assumption))

theorem execStokeRampEnd_still (s : State) :
    ∃ t, execStokeRampEnd s = .next t ∧ Still s t := by
  unfold execStokeRampEnd
  refine ⟨_, rfl, ?_⟩
  repeat' (first
    | with_reducible assumption
    | with_reducible exact Still.refl _
    | split
    | (with_reducible refine Still.fields ?_ rfl ⟨rfl, rfl⟩; first | with_reducible assumption | with_reducible exact Still.refl _))

theorem execStokeLimitExpiry_still (s : State) :
    ∃ t, execStokeLimitExpiry s = .next t ∧ Still s t := by
  unfold execStokeLimitExpiry
  refine ⟨_, rfl, ?_⟩
  repeat' (first
    | with_reducible assumption
    | with_reducible exact Still.refl _
    | with_reducible apply Still.trans _ (State.endStoke_still ..)
    | split)

theorem execStokeCooldownEnd_still (s : State) :
    ∃ t, execStokeCooldownEnd s = .next t ∧ Still s t := by
  unfold execStokeCooldownEnd
  refine ⟨_, rfl, ?_⟩
  repeat' (first
    | with_reducible assumption
    | with_reducible exact Still.refl _
    | split
    | (with_reducible refine Still.fields ?_ rfl ⟨rfl, rfl⟩; first | with_reducible assumption | with_reducible exact Still.refl _))

theorem State.stokeDue_still (s : State) :
    Still s (State.stokeDue s) := by
  unfold State.stokeDue
  repeat' (first
    | with_reducible assumption
    | with_reducible exact Still.refl _
    | with_reducible apply Still.trans _ (State.endStoke_still ..)
    | split)

theorem State.changeDue_still (s : State) :
    Still s (State.changeDue s) := by
  unfold State.changeDue
  repeat' (first
    | with_reducible assumption
    | with_reducible exact Still.refl _
    | with_reducible apply Still.trans _ (State.applyChange_still ..)
    | with_reducible apply Still.trans _ (State.throttleBreaks_still ..)
    | split)

theorem execFrequencyChangeDeadline_still (s : State) :
    ∃ t, execFrequencyChangeDeadline s = .next t ∧ Still s t := by
  unfold execFrequencyChangeDeadline
  refine ⟨_, rfl, ?_⟩
  repeat' (first
    | with_reducible assumption
    | with_reducible exact Still.refl _
    | with_reducible apply Still.trans _ (State.changeDue_still ..)
    | with_reducible apply Still.trans _ (State.stokeDue_still ..)
    | split)

theorem State.stokeWrite_still (v : ℕ) (s : State) :
    Still s (State.stokeWrite v s) := by
  unfold State.stokeWrite
  repeat' (first
    | with_reducible assumption
    | with_reducible exact Still.refl _
    | with_reducible apply Still.trans _ (State.setObj_still ..)
    | with_reducible apply Still.trans _ (State.stokeEnds_still ..)
    | split)

theorem execSyncGlitch_kept (high : ℕ) (ownDriven : Bool) (s : State) :
    ∃ t, execSyncGlitch high ownDriven s = .next t ∧ Kept s t := by
  unfold execSyncGlitch
  refine ⟨_, rfl, ?_⟩
  repeat' (first
    | with_reducible assumption
    | with_reducible exact Kept.refl _
    | (extract_lets +onlyGivenNames x
       first
       | (refine Kept.via (t := x) ?side (fun hx => ?main); (case' side => subst x); (case' main => (clear_value x; revert x; intro _ _)))
       | subst x)
    | with_reducible apply Kept.trans _ (State.syncPulse_kept ..)
    | with_reducible apply Kept.trans _ (State.count_still ..).kept
    | with_reducible apply Kept.trans _ (State.trayFault_kept ..)
    | split)

theorem execPeerLost_kept (_fate : Sys2Proof.PeerFate) (s : State) :
    ∃ t, execPeerLost _fate s = .next t ∧ Kept s t := by
  unfold execPeerLost
  refine ⟨_, rfl, ?_⟩
  repeat' (first
    | with_reducible assumption
    | with_reducible exact Kept.refl _
    | (extract_lets +onlyGivenNames x
       first
       | (refine Kept.via (t := x) ?side (fun hx => ?main); (case' side => subst x); (case' main => (clear_value x; revert x; intro _ _)))
       | subst x)
    | with_reducible apply Kept.trans _ (State.markBoth_steady ..).kept
    | split
    | dsimp -zeta only
    | (with_reducible refine Kept.fields ?_ rfl rfl; first | with_reducible assumption | with_reducible exact Kept.refl _))

theorem State.showGroup_kept (s : State) (g : BitVec 16) :
    Kept s (State.showGroup s g).2 := by
  unfold State.showGroup
  repeat' (first
    | with_reducible assumption
    | with_reducible exact Kept.refl _
    | with_reducible apply Kept.trans _ (State.takeFree_kept ..)
    | split
    | (with_reducible refine Kept.fields ?_ rfl rfl; first | with_reducible assumption | with_reducible exact Kept.refl _))

theorem State.showList_kept (s : State) (a1 : List (BitVec 16)) :
    Kept s (State.showList s a1).2 := by
  induction a1 generalizing s with
  | nil => exact Kept.refl _
  | cons g gs ih => exact ((State.showGroup_kept s g).trans (ih _))

theorem execDbgFrame_kept (s : State) :
    ∃ t, execDbgFrame s = .next t ∧ Kept s t := by
  unfold execDbgFrame
  refine ⟨_, rfl, ?_⟩
  repeat' (first
    | with_reducible assumption
    | with_reducible exact Kept.refl _
    | (extract_lets +onlyGivenNames x
       first
       | (refine Kept.via (t := x) ?side (fun hx => ?main); (case' side => subst x); (case' main => (clear_value x; revert x; intro _ _)))
       | subst x)
    | with_reducible apply Kept.trans _ (State.showList_kept ..)
    | with_reducible apply Kept.trans _ (State.emit_kept ..)
    | with_reducible apply Kept.foldl _ _ _ (fun _ _ => ?_)
    | with_reducible apply Kept.foldl₁ _ _ _ (fun _ _ => ?_)
    | with_reducible apply Kept.foldl₂ _ _ _ (fun _ _ => ?_)
    | split
    | with_reducible refine Kept.eq₁ (by with_reducible assumption) ?_
    | with_reducible refine Kept.eq₂ (by with_reducible assumption) ?_
    | with_reducible refine Kept.opt_eq (by with_reducible assumption) ?_
    | with_reducible refine Kept.opt₂_eq (by with_reducible assumption) ?_
    | dsimp -zeta only
    | with_reducible refine Kept.fields ?_ rfl rfl)

theorem State.jtagSelect_kept (s : State) (ir : Sys2Proof.Byte) (width : ℕ) (dr : BitVec 256) :
    Kept s (State.jtagSelect s ir width dr) := by
  unfold State.jtagSelect
  repeat' (first
    | with_reducible assumption
    | with_reducible exact Kept.refl _
    | with_reducible apply Kept.trans _ (State.emit_kept ..)
    | split
    | (with_reducible refine Kept.fields ?_ rfl rfl; first | with_reducible assumption | with_reducible exact Kept.refl _))

theorem execIdcode_kept (s : State) :
    ∃ t, execIdcode s = .next t ∧ Kept s t := by
  unfold execIdcode
  refine ⟨_, rfl, ?_⟩
  repeat' (first
    | with_reducible assumption
    | with_reducible exact Kept.refl _
    | with_reducible apply Kept.trans _ (State.jtagSelect_kept ..))

theorem execMuxCapture_kept (s : State) :
    ∃ t, execMuxCapture s = .next t ∧ Kept s t := by
  unfold execMuxCapture
  refine ⟨_, rfl, ?_⟩
  repeat' (first
    | with_reducible assumption
    | with_reducible exact Kept.refl _
    | (extract_lets +onlyGivenNames x
       subst x)
    | with_reducible apply Kept.trans _ (State.showList_kept ..)
    | with_reducible apply Kept.trans _ (State.jtagSelect_kept ..)
    | with_reducible apply Kept.foldl _ _ _ (fun _ _ => ?_)
    | with_reducible apply Kept.foldl₁ _ _ _ (fun _ _ => ?_)
    | with_reducible apply Kept.foldl₂ _ _ _ (fun _ _ => ?_)
    | split
    | with_reducible refine Kept.eq₁ (by with_reducible assumption) ?_
    | with_reducible refine Kept.eq₂ (by with_reducible assumption) ?_
    | with_reducible refine Kept.opt_eq (by with_reducible assumption) ?_
    | with_reducible refine Kept.opt₂_eq (by with_reducible assumption) ?_
    | dsimp -zeta only
    | with_reducible refine Kept.fields ?_ rfl rfl)

theorem execBypass_kept (code : Sys2Proof.Byte) (s : State) :
    ∃ t, execBypass code s = .next t ∧ Kept s t := by
  unfold execBypass
  refine ⟨_, rfl, ?_⟩
  repeat' (first
    | with_reducible assumption
    | with_reducible exact Kept.refl _
    | with_reducible apply Kept.trans _ (State.jtagSelect_kept ..)
    | split)

end Sys2Proof.Machine
end

