-- ==== Sys2Proof/Laws/Kept/End.lean ====
section
/-!
SUPPORT. What the operations of Machine/End.lean keep (Safety.lean: Still, Steady, or Kept).
-/

namespace Sys2Proof.Machine

theorem State.commitLine_still (s : State) (b : Bool) :
    Still s (State.commitLine s b) := by
  unfold State.commitLine
  repeat' (first
    | with_reducible assumption
    | with_reducible exact Still.refl _
    | with_reducible apply Still.trans _ (State.setStep_still ..)
    | split
    | (with_reducible refine Still.fields ?_ rfl ⟨rfl, rfl⟩; first | with_reducible assumption | with_reducible exact Still.refl _))

theorem State.commitStats_steady (s : State) (b : Bool) :
    Steady s (State.commitStats s b) := by
  unfold State.commitStats
  repeat' (first
    | with_reducible assumption
    | with_reducible exact Steady.refl _
    | (extract_lets +onlyGivenNames x
       first
       | (refine Steady.via (t := x) ?side (fun hx => ?main); (case' side => subst x); (case' main => (clear_value x; revert x; intro _ _)))
       | subst x)
    | with_reducible apply Steady.trans _ (State.writeMem_steady ..)
    | with_reducible apply Steady.trans _ (State.writeMemNat_steady ..)
    | with_reducible apply Steady.trans _ (State.setStep_still ..).steady
    | with_reducible apply Steady.foldl _ _ _ (fun _ _ => ?_)
    | with_reducible apply Steady.foldl₁ _ _ _ (fun _ _ => ?_)
    | with_reducible apply Steady.foldl₂ _ _ _ (fun _ _ => ?_)
    | split)

theorem State.releaseRecord_steady (s : State) (b : Bool) :
    Steady s (State.releaseRecord s b) := by
  unfold State.releaseRecord
  repeat' (first
    | with_reducible assumption
    | with_reducible exact Steady.refl _
    | with_reducible apply Steady.trans _ (State.commitLine_still ..).steady
    | with_reducible apply Steady.trans _ (State.commitStats_steady ..)
    | with_reducible apply Steady.trans _ (State.onStep_still ..).steady
    | split)

theorem State.commitFreed_steady (s : State) :
    Steady s (State.commitFreed s) := by
  unfold State.commitFreed
  repeat' (first
    | with_reducible assumption
    | with_reducible exact Steady.refl _
    | (extract_lets +onlyGivenNames x
       subst x)
    | with_reducible apply Steady.trans _ (State.commitLine_still ..).steady
    | with_reducible apply Steady.trans _ (State.commitStats_steady ..)
    | with_reducible apply Steady.foldl _ _ _ (fun _ _ => ?_)
    | with_reducible apply Steady.foldl₁ _ _ _ (fun _ _ => ?_)
    | with_reducible apply Steady.foldl₂ _ _ _ (fun _ _ => ?_)
    | split
    | with_reducible refine Steady.eq₁ (by with_reducible assumption) ?_
    | with_reducible refine Steady.eq₂ (by with_reducible assumption) ?_
    | with_reducible refine Steady.opt_eq (by with_reducible assumption) ?_
    | with_reducible refine Steady.opt₂_eq (by with_reducible assumption) ?_
    | dsimp -zeta only)

theorem State.completeStep_steady (s : State) (b : Bool) (t : Step) :
    Steady s (State.completeStep s b t) := by
  unfold State.completeStep
  repeat' (first
    | with_reducible assumption
    | with_reducible exact Steady.refl _
    | (extract_lets +onlyGivenNames x
       subst x)
    | with_reducible apply Steady.trans _ (State.commitFreed_steady ..)
    | with_reducible apply Steady.trans _ (State.endRecords_steady ..)
    | with_reducible apply Steady.trans _ (State.setStep_still ..).steady)

theorem State.tryComplete_steady (s : State) (b : Bool) :
    Steady s (State.tryComplete s b) := by
  unfold State.tryComplete
  repeat' (first
    | with_reducible assumption
    | with_reducible exact Steady.refl _
    | with_reducible apply Steady.trans _ (State.completeStep_steady ..)
    | split)

theorem State.writeTag_steady (s : State) (t : Step) (blk : ℕ) (bad : Bool) :
    Steady s (State.writeTag s t blk bad) := by
  unfold State.writeTag
  repeat' (first
    | with_reducible assumption
    | with_reducible exact Steady.refl _
    | with_reducible apply Steady.trans _ (State.writeMem_steady ..))

theorem State.tagToken_steady (s : State) (b : Bool) (blk : ℕ) (bad : Bool) :
    Steady s (State.tagToken s b blk bad) := by
  unfold State.tagToken
  repeat' (first
    | with_reducible assumption
    | with_reducible exact Steady.refl _
    | (extract_lets +onlyGivenNames x
       subst x)
    | with_reducible apply Steady.trans _ (State.writeTag_steady ..)
    | with_reducible apply Steady.trans _ (State.setStep_still ..).steady
    | split)

theorem State.retire_steady (s : State) (e : ℕ) (bad : Bool) :
    Steady s (State.retire s e bad) := by
  unfold State.retire
  repeat' (first
    | with_reducible assumption
    | with_reducible exact Steady.refl _
    | with_reducible apply Steady.trans _ (State.tryComplete_steady ..)
    | with_reducible apply Steady.trans _ (State.freeEntry_still ..).steady
    | with_reducible apply Steady.trans _ (State.tagToken_steady ..))

theorem State.tagCancelled_steady (s : State) (b : Bool) :
    Steady s (State.tagCancelled s b) := by
  unfold State.tagCancelled
  repeat' (first
    | with_reducible assumption
    | with_reducible exact Steady.refl _
    | (extract_lets +onlyGivenNames x
       subst x)
    | with_reducible apply Steady.trans _ (State.writeTag_steady ..)
    | with_reducible apply Steady.trans _ (State.setStep_still ..).steady
    | with_reducible apply Steady.foldl _ _ _ (fun _ _ => ?_)
    | with_reducible apply Steady.foldl₁ _ _ _ (fun _ _ => ?_)
    | with_reducible apply Steady.foldl₂ _ _ _ (fun _ _ => ?_)
    | split)

end Sys2Proof.Machine
end

