-- ==== Sys2Proof/Laws/Kept/Place.lean ====
section
/-!
SUPPORT. What the operations of Machine/Place.lean keep (Safety.lean: Still, Steady, or Kept).
-/

namespace Sys2Proof.Machine

theorem State.applyGroups_still (s : State) (img : List Sys2Proof.Byte) :
    Still s (State.applyGroups s img) := by
  unfold State.applyGroups
  repeat' (first
    | with_reducible assumption
    | with_reducible exact Still.refl _
    | (extract_lets +onlyGivenNames x
       subst x)
    | with_reducible apply Still.foldl _ _ _ (fun _ _ => ?_)
    | with_reducible apply Still.foldl₁ _ _ _ (fun _ _ => ?_)
    | with_reducible apply Still.foldl₂ _ _ _ (fun _ _ => ?_)
    | split
    | with_reducible refine Still.eq₁ (by with_reducible assumption) ?_
    | with_reducible refine Still.eq₂ (by with_reducible assumption) ?_
    | with_reducible refine Still.opt_eq (by with_reducible assumption) ?_
    | with_reducible refine Still.opt₂_eq (by with_reducible assumption) ?_
    | dsimp -zeta only
    | with_reducible refine Still.fields ?_ rfl ⟨rfl, rfl⟩)

theorem State.loadPlacement_still (s : State) (img : List Sys2Proof.Byte) :
    Still s (State.loadPlacement s img) := by
  unfold State.loadPlacement
  repeat' (first
    | with_reducible assumption
    | with_reducible exact Still.refl _
    | split
    | (with_reducible refine Still.fields ?_ rfl ⟨rfl, rfl⟩; first | with_reducible assumption | with_reducible exact Still.refl _))

end Sys2Proof.Machine
end

