-- ==== Sys2Proof/Laws/Kept/Sequence.lean ====
section
/-!
SUPPORT. What the operations of Machine/Sequence.lean keep (Safety.lean: Still, Steady, or Kept).
-/

namespace Sys2Proof.Machine

theorem State.goTo_still (s : State) (p : Place) :
    Still s (State.goTo s p) := by
  unfold State.goTo
  repeat' (first
    | with_reducible assumption
    | with_reducible exact Still.refl _
    | split
    | (with_reducible refine Still.fields ?_ rfl ⟨rfl, rfl⟩; first | with_reducible assumption | with_reducible exact Still.refl _))

theorem State.cacheInstr_still (s : State) :
    Still s (State.cacheInstr s) := by
  unfold State.cacheInstr
  repeat' (first
    | with_reducible assumption
    | with_reducible exact Still.refl _
    | split
    | (with_reducible refine Still.fields ?_ rfl ⟨rfl, rfl⟩; first | with_reducible assumption | with_reducible exact Still.refl _))

theorem State.advance_still (s : State) :
    Still s (State.advance s) := by
  unfold State.advance
  repeat' (first
    | with_reducible assumption
    | with_reducible exact Still.refl _
    | with_reducible apply Still.trans _ (State.goTo_still ..)
    | with_reducible apply Still.trans _ (State.cacheInstr_still ..))

theorem State.logSeqCmd_steady (s : State) (cmd : ℕ) :
    Steady s (State.logSeqCmd s cmd) := by
  unfold State.logSeqCmd
  repeat' (first
    | with_reducible assumption
    | with_reducible exact Steady.refl _
    | with_reducible apply Steady.trans _ (State.logFree_steady ..))

theorem State.resume_still (s : State) :
    Still s (State.resume s) := by
  unfold State.resume
  repeat' (first
    | with_reducible assumption
    | with_reducible exact Still.refl _
    | with_reducible apply Still.trans _ (State.setObj_still ..))

theorem State.dropMarks_still (s : State) :
    Still s (State.dropMarks s) := by
  unfold State.dropMarks
  repeat' (first
    | with_reducible assumption
    | with_reducible exact Still.refl _
    | (extract_lets +onlyGivenNames x
       subst x)
    | with_reducible apply Still.trans _ (State.onStep_still ..)
    | with_reducible apply Still.foldl _ _ _ (fun _ _ => ?_))

theorem State.toFront_still (s : State) :
    Still s (State.toFront s) := by
  unfold State.toFront
  repeat' (first
    | with_reducible assumption
    | with_reducible exact Still.refl _
    | (extract_lets +onlyGivenNames x
       first
       | (refine Still.via (t := x) ?side (fun hx => ?main); (case' side => subst x); (case' main => (clear_value x; revert x; intro _ _)))
       | subst x)
    | with_reducible apply Still.trans _ (State.setObj_still ..)
    | split
    | dsimp -zeta only
    | with_reducible refine Still.fields ?_ rfl ⟨rfl, rfl⟩)

theorem State.skipHalt_still (s : State) (code : ℕ) :
    Still s (State.skipHalt s code) := by
  unfold State.skipHalt
  repeat' (first
    | with_reducible assumption
    | with_reducible exact Still.refl _
    | with_reducible apply Still.trans _ (State.toFront_still ..)
    | (extract_lets +onlyGivenNames x
       first
       | (refine Still.via (t := x) ?side (fun hx => ?main); (case' side => subst x); (case' main => (clear_value x; revert x; intro _ _)))
       | subst x)
    | with_reducible apply Still.trans _ (State.resume_still ..)
    | with_reducible apply Still.trans _ (State.dropMarks_still ..)
    | with_reducible apply Still.trans _ (State.advance_still ..)
    | split
    | dsimp -zeta only
    | with_reducible refine Still.fields ?_ rfl ⟨rfl, rfl⟩)

theorem State.standAt_still (s : State) (r : Rewind) :
    Still s (State.standAt s r) := by
  unfold State.standAt
  repeat' (first
    | with_reducible assumption
    | with_reducible exact Still.refl _
    | split
    | (with_reducible refine Still.fields ?_ rfl ⟨rfl, rfl⟩; first | with_reducible assumption | with_reducible exact Still.refl _))

theorem State.restore_still (s : State) (r : Rewind) (keep : Bool) :
    Still s (State.restore s r keep) := by
  unfold State.restore
  repeat' (first
    | with_reducible assumption
    | with_reducible exact Still.refl _
    | (extract_lets +onlyGivenNames x
       first
       | (refine Still.via (t := x) ?side (fun hx => ?main); (case' side => subst x); (case' main => (clear_value x; revert x; intro _ _)))
       | subst x)
    | with_reducible apply Still.trans _ (State.standAt_still ..)
    | with_reducible apply Still.trans _ (State.setObj_still ..)
    | split
    | dsimp -zeta only
    | (with_reducible refine Still.fields ?_ rfl ⟨rfl, rfl⟩; with_reducible assumption))

theorem State.dropLater_still (s : State) (b : Bool) (r : Rewind) :
    Still s (State.dropLater s b r) := by
  unfold State.dropLater
  repeat' (first
    | with_reducible assumption
    | with_reducible exact Still.refl _
    | with_reducible apply Still.trans _ (State.onStep_still ..))

theorem State.runRewind_steady (s : State) (t : Step) (r : Rewind) (keep : Bool) :
    Steady s (State.runRewind s t r keep) := by
  unfold State.runRewind
  repeat' (first
    | with_reducible assumption
    | with_reducible exact Steady.refl _
    | (extract_lets +onlyGivenNames x
       first
       | (refine Steady.via (t := x) ?side (fun hx => ?main); (case' side => subst x); (case' main => (clear_value x; revert x; intro _ _)))
       | subst x)
    | with_reducible apply Steady.trans _ (State.logFaultEnd_steady ..)
    | with_reducible apply Steady.trans _ (State.restore_still ..).steady
    | with_reducible apply Steady.trans _ (State.onStep_still ..).steady
    | with_reducible apply Steady.trans _ (State.dropLater_still ..).steady
    | with_reducible apply Steady.trans _ (State.count_still ..).steady
    | with_reducible apply Steady.trans _ (State.setObj_steady ..)
    | with_reducible apply Steady.foldl _ _ _ (fun _ _ => ?_)
    | with_reducible apply Steady.foldl₁ _ _ _ (fun _ _ => ?_)
    | with_reducible apply Steady.foldl₂ _ _ _ (fun _ _ => ?_)
    | split
    | with_reducible refine Steady.eq₁ (by with_reducible assumption) ?_
    | with_reducible refine Steady.eq₂ (by with_reducible assumption) ?_
    | with_reducible refine Steady.opt_eq (by with_reducible assumption) ?_
    | with_reducible refine Steady.opt₂_eq (by with_reducible assumption) ?_
    | dsimp -zeta only
    | with_reducible refine Steady.fields ?_ rfl ⟨rfl, rfl⟩)

theorem State.reachStep_still (s : State) (n : ℕ) :
    Still s (State.reachStep s n) := by
  unfold State.reachStep
  repeat' (first
    | with_reducible assumption
    | with_reducible exact Still.refl _
    | with_reducible apply Still.trans _ (State.toPeer_still ..)
    | split
    | (with_reducible refine Still.fields ?_ rfl ⟨rfl, rfl⟩; first | with_reducible assumption | with_reducible exact Still.refl _))

theorem State.retryHalt_steady (s : State) (code : ℕ) :
    Steady s (State.retryHalt s code) := by
  unfold State.retryHalt
  repeat' (first
    | with_reducible assumption
    | with_reducible exact Steady.refl _
    | with_reducible apply Steady.trans _ (State.setObj_steady ..)
    | (extract_lets +onlyGivenNames x
       first
       | (refine Steady.via (t := x) ?side (fun hx => ?main); (case' side => subst x); (case' main => (clear_value x; revert x; intro _ _)))
       | subst x)
    | with_reducible apply Steady.trans _ (State.resume_still ..).steady
    | with_reducible apply Steady.trans _ (State.runRewind_steady ..)
    | with_reducible apply Steady.trans _ (State.reachStep_still ..).steady
    | split
    | dsimp -zeta only
    | with_reducible refine Steady.fields ?_ rfl ⟨rfl, rfl⟩)

theorem State.releaseBoth_steady (s : State) :
    Steady s (State.releaseBoth s) := by
  unfold State.releaseBoth
  repeat' (first
    | with_reducible assumption
    | with_reducible exact Steady.refl _
    | with_reducible apply Steady.trans _ (State.commitFreed_steady ..)
    | with_reducible apply Steady.trans _ (State.onStep_still ..).steady)

theorem State.endSchedule_steady (s : State) (reason : ℕ) :
    Steady s (State.endSchedule s reason) := by
  unfold State.endSchedule
  repeat' (first
    | with_reducible assumption
    | with_reducible exact Steady.refl _
    | (extract_lets +onlyGivenNames x
       first
       | (refine Steady.via (t := x) ?side (fun hx => ?main); (case' side => subst x); (case' main => (clear_value x; revert x; intro _ _)))
       | subst x)
    | with_reducible apply Steady.trans _ (State.releaseBoth_steady ..)
    | split
    | dsimp -zeta only
    | (with_reducible refine Steady.fields ?_ rfl ⟨rfl, rfl⟩; with_reducible assumption))

theorem State.abortHalt_steady (s : State) :
    Steady s (State.abortHalt s) := by
  unfold State.abortHalt
  repeat' (first
    | with_reducible assumption
    | with_reducible exact Steady.refl _
    | with_reducible apply Steady.trans _ (State.endSchedule_steady ..)
    | with_reducible apply Steady.trans _ (State.resume_still ..).steady)

theorem State.seqCommand_steady (cmd : ℕ) (s : State) :
    Steady s (State.seqCommand cmd s) := by
  unfold State.seqCommand
  repeat' (first
    | with_reducible assumption
    | with_reducible exact Steady.refl _
    | with_reducible apply Steady.trans _ (State.logSeqCmd_steady ..)
    | with_reducible apply Steady.trans _ (State.skipHalt_still ..).steady
    | with_reducible apply Steady.trans _ (State.retryHalt_steady ..)
    | with_reducible apply Steady.trans _ (State.abortHalt_steady ..)
    | split)

theorem State.haltFor_steady (s : State) (code : ℕ) (cause : ℕ) :
    Steady s (State.haltFor s code cause) := by
  unfold State.haltFor
  repeat' (first
    | with_reducible assumption
    | with_reducible exact Steady.refl _
    | (extract_lets +onlyGivenNames x
       first
       | (refine Steady.via (t := x) ?side (fun hx => ?main); (case' side => subst x); (case' main => (clear_value x; revert x; intro _ _)))
       | subst x)
    | with_reducible apply Steady.trans _ (State.haltSeq_still ..).steady
    | with_reducible apply Steady.trans _ (State.diverge_still ..).steady
    | with_reducible apply Steady.trans _ (State.seqCommand_steady ..)
    | with_reducible apply Steady.trans _ (State.takeRec_still ..).steady
    | split)

theorem State.beginOp_still (s : State) (w : Wait) :
    Still s (State.beginOp s w) := by
  unfold State.beginOp
  repeat' (first
    | with_reducible assumption
    | with_reducible exact Still.refl _
    | split
    | (with_reducible refine Still.fields ?_ rfl ⟨rfl, rfl⟩; first | with_reducible assumption | with_reducible exact Still.refl _))

theorem State.blockRewind_still (s : State) :
    Still s (State.blockRewind s) := by
  unfold State.blockRewind
  repeat' (first
    | with_reducible assumption
    | with_reducible exact Still.refl _
    | (extract_lets +onlyGivenNames x
       first
       | (refine Still.via (t := x) ?side (fun hx => ?main); (case' side => subst x); (case' main => (clear_value x; revert x; intro _ _)))
       | subst x)
    | with_reducible apply Still.trans _ (State.onStep_still ..)
    | split
    | dsimp -zeta only
    | (with_reducible refine Still.fields ?_ rfl ⟨rfl, rfl⟩; with_reducible assumption))

theorem State.unmetCommand_still (s : State) :
    Still s (State.unmetCommand s) := by
  unfold State.unmetCommand
  repeat' (first
    | with_reducible assumption
    | with_reducible exact Still.refl _
    | with_reducible apply Still.trans _ (State.diverge_still ..)
    | split)

theorem State.endReplay_still (s : State) :
    Still s (State.endReplay s) := by
  unfold State.endReplay
  repeat' (first
    | with_reducible assumption
    | with_reducible exact Still.refl _
    | (extract_lets +onlyGivenNames x
       first
       | (refine Still.via (t := x) ?side (fun hx => ?main); (case' side => subst x); (case' main => (clear_value x; revert x; intro _ _)))
       | subst x)
    | with_reducible apply Still.trans _ (State.setObj_still ..)
    | split
    | dsimp -zeta only
    | (with_reducible refine Still.fields ?_ rfl ⟨rfl, rfl⟩; with_reducible assumption))

end Sys2Proof.Machine
end

