-- ==== Sys2Proof/Laws/Kept/Coll.lean ====
section
/-!
SUPPORT. What the operations of Machine/Coll.lean keep (Safety.lean: Still, Steady, or Kept).
-/

namespace Sys2Proof.Machine

theorem State.sendStream_still (s : State) :
    Still s (State.sendStream s).2 := by
  unfold State.sendStream
  repeat' (first
    | with_reducible assumption
    | with_reducible exact Still.refl _
    | with_reducible apply Still.trans _ (State.count_still ..))

theorem State.restoreLine_steady (s : State) (r : RMap) (bs : List Sys2Proof.Byte) :
    Steady s (State.restoreLine s r bs) := by
  unfold State.restoreLine
  repeat' (first
    | with_reducible assumption
    | with_reducible exact Steady.refl _
    | (extract_lets +onlyGivenNames x
       first
       | (refine Steady.via (t := x) ?side (fun hx => ?main); (case' side => subst x); (case' main => (clear_value x; revert x; intro _ _)))
       | subst x)
    | with_reducible apply Steady.trans _ (State.writeLp_steady ..)
    | split
    | dsimp -zeta only
    | (with_reducible refine Steady.fields ?_ rfl ⟨rfl, rfl⟩; with_reducible assumption))

theorem restoreLines_steady (a0 : ℕ) (a1 : List Sys2Proof.Byte) (a2 : State) :
    Steady a2 (restoreLines a0 a1 a2) := by
  induction a0 generalizing a1 a2 with
  | zero => exact Steady.refl _
  | succ n ih =>
    unfold restoreLines
    extract_lets r len
    split
    · exact Steady.refl _
    · exact (State.restoreLine_steady ..).trans (ih _ _)

theorem State.applyStream_steady (s : State) (bs : List Sys2Proof.Byte) :
    Steady s (State.applyStream s bs) := by
  unfold State.applyStream
  repeat' (first
    | with_reducible assumption
    | with_reducible exact Steady.refl _
    | (extract_lets +onlyGivenNames x
       first
       | (refine Steady.via (t := x) ?side (fun hx => ?main); (case' side => subst x); (case' main => (clear_value x; revert x; intro _ _)))
       | subst x)
    | with_reducible apply Steady.trans _ (restoreLines_steady ..)
    | with_reducible apply Steady.trans _ (State.logFree_steady ..)
    | with_reducible apply Steady.trans _ (State.takeRec_still ..).steady
    | with_reducible apply Steady.trans _ (State.diverge_still ..).steady
    | split
    | dsimp -zeta only
    | with_reducible refine Steady.fields ?_ rfl ⟨rfl, rfl⟩)

theorem State.takeStream_steady (s : State) (bs : List Sys2Proof.Byte) :
    Steady s (State.takeStream s bs) := by
  unfold State.takeStream
  repeat' (first
    | with_reducible assumption
    | with_reducible exact Steady.refl _
    | (extract_lets +onlyGivenNames x
       subst x)
    | with_reducible apply Steady.trans _ (State.orHold_steady _ _ _ _ (fun _ => ?_))
    | with_reducible apply Steady.trans _ (State.applyStream_steady ..))

theorem State.collSend_still (s : State) (c : Coll) (dst : ℕ) (dir : Sys2Proof.TreeDir) (pos : ℕ) (body : Sys2Proof.CollBody) :
    Still s (State.collSend s c dst dir pos body) := by
  unfold State.collSend
  repeat' (first
    | with_reducible assumption
    | with_reducible exact Still.refl _
    | with_reducible apply Still.trans _ (State.sendLen_still ..)
    | split)

theorem State.collSent_still (s : State) (c : Coll) :
    Still s (State.collSent s c) := by
  unfold State.collSent
  repeat' (first
    | with_reducible assumption
    | with_reducible exact Still.refl _
    | split
    | (with_reducible refine Still.fields ?_ rfl ⟨rfl, rfl⟩; first | with_reducible assumption | with_reducible exact Still.refl _))

theorem State.collClear_still (s : State) :
    Still s (State.collClear s) := by
  unfold State.collClear
  repeat' (first
    | with_reducible assumption
    | with_reducible exact Still.refl _
    | split
    | (with_reducible refine Still.fields ?_ rfl ⟨rfl, rfl⟩; first | with_reducible assumption | with_reducible exact Still.refl _))

theorem State.collCount_still (s : State) (group : ℕ) (program : ℕ) (silent : ℕ) :
    Still s (State.collCount s group program silent) := by
  unfold State.collCount
  repeat' (first
    | with_reducible assumption
    | with_reducible exact Still.refl _
    | with_reducible apply Still.trans _ (State.setObj_still ..)
    | with_reducible apply Still.trans _ (State.count_still ..))

theorem State.collRecord_still (s : State) (group : ℕ) (program : ℕ) (silent : ℕ) :
    Still s (State.collRecord s group program silent) := by
  unfold State.collRecord
  repeat' (first
    | with_reducible assumption
    | with_reducible exact Still.refl _
    | with_reducible apply Still.trans _ (State.collCount_still ..)
    | with_reducible apply Still.trans _ (State.setObj_still ..)
    | with_reducible apply Still.trans _ (State.count_still ..)
    | with_reducible apply Still.trans _ (State.soot__still ..))

theorem State.collHalt_steady (s : State) :
    Steady s (State.collHalt s) := by
  unfold State.collHalt
  repeat' (first
    | with_reducible assumption
    | with_reducible exact Steady.refl _
    | with_reducible apply Steady.trans _ (State.haltFor_steady ..)
    | with_reducible apply Steady.trans _ (State.postStatus_steady ..))

theorem State.checkCommit_still (s : State) (payload : List Sys2Proof.Byte) :
    Still s (State.checkCommit s payload) := by
  unfold State.checkCommit
  repeat' (first
    | with_reducible assumption
    | with_reducible exact Still.refl _
    | with_reducible apply Still.trans _ (State.takeRec_still ..)
    | with_reducible apply Still.trans _ (State.diverge_still ..)
    | split)

theorem State.applyDecision_steady (s : State) (commit : Bool) :
    Steady s (State.applyDecision s commit) := by
  unfold State.applyDecision
  repeat' (first
    | with_reducible assumption
    | with_reducible exact Steady.refl _
    | (extract_lets +onlyGivenNames x
       first
       | (refine Steady.via (t := x) ?side (fun hx => ?main); (case' side => subst x); (case' main => (clear_value x; revert x; intro _ _)))
       | subst x)
    | with_reducible apply Steady.trans _ (State.logFree_steady ..)
    | with_reducible apply Steady.trans _ (State.setObj_steady ..)
    | with_reducible apply Steady.trans _ (State.applyGroups_still ..).steady
    | with_reducible apply Steady.trans _ (State.advance_still ..).steady
    | with_reducible apply Steady.trans _ (State.haltFor_steady ..)
    | with_reducible apply Steady.trans _ (State.checkCommit_still ..).steady
    | with_reducible apply Steady.foldl _ _ _ (fun _ _ => ?_)
    | with_reducible apply Steady.foldl₁ _ _ _ (fun _ _ => ?_)
    | with_reducible apply Steady.foldl₂ _ _ _ (fun _ _ => ?_)
    | split
    | with_reducible refine Steady.eq₁ (by with_reducible assumption) ?_
    | with_reducible refine Steady.eq₂ (by with_reducible assumption) ?_
    | with_reducible refine Steady.opt_eq (by with_reducible assumption) ?_
    | with_reducible refine Steady.opt₂_eq (by with_reducible assumption) ?_
    | dsimp -zeta only
    | with_reducible refine Steady.fields ?_ rfl ⟨rfl, rfl⟩)

theorem State.decide__steady (s : State) (commit : Bool) :
    Steady s (State.decide_ s commit) := by
  unfold State.decide_
  repeat' (first
    | with_reducible assumption
    | with_reducible exact Steady.refl _
    | (extract_lets +onlyGivenNames x
       subst x)
    | with_reducible apply Steady.trans _ (State.orHold_steady _ _ _ _ (fun _ => ?_))
    | with_reducible apply Steady.trans _ (State.applyDecision_steady ..))

theorem State.collFail_steady (s : State) (c : Coll) (silent : ℕ) :
    Steady s (State.collFail s c silent) := by
  unfold State.collFail
  repeat' (first
    | with_reducible assumption
    | with_reducible exact Steady.refl _
    | (extract_lets +onlyGivenNames x
       first
       | (refine Steady.via (t := x) ?side (fun hx => ?main); (case' side => subst x); (case' main => (clear_value x; revert x; intro _ _)))
       | subst x)
    | with_reducible apply Steady.trans _ (State.collClear_still ..).steady
    | with_reducible apply Steady.trans _ (State.collRecord_still ..).steady
    | with_reducible apply Steady.trans _ (State.decide__steady ..)
    | with_reducible apply Steady.trans _ (State.collHalt_steady ..)
    | split)

theorem State.barrierDone_steady (s : State) (c : Coll) (time : Option ℕ) :
    Steady s (State.barrierDone s c time) := by
  unfold State.barrierDone
  repeat' (first
    | with_reducible assumption
    | with_reducible exact Steady.refl _
    | (extract_lets +onlyGivenNames x
       first
       | (refine Steady.via (t := x) ?side (fun hx => ?main); (case' side => subst x); (case' main => (clear_value x; revert x; intro _ _)))
       | subst x)
    | with_reducible apply Steady.trans _ (State.collFail_steady ..)
    | with_reducible apply Steady.trans _ (State.collClear_still ..).steady
    | with_reducible apply Steady.trans _ (State.advance_still ..).steady
    | split
    | dsimp -zeta only
    | (with_reducible refine Steady.fields ?_ rfl ⟨rfl, rfl⟩; with_reducible assumption))

theorem State.collOver_still (s : State) (c : Coll) :
    Still s (State.collOver s c) := by
  unfold State.collOver
  repeat' (first
    | with_reducible assumption
    | with_reducible exact Still.refl _
    | with_reducible apply Still.trans _ (State.advance_still ..)
    | with_reducible apply Still.trans _ (State.collClear_still ..)
    | split)

theorem State.collDown_steady (s : State) (c : Coll) (body : Sys2Proof.CollBody) :
    Steady s (State.collDown s c body) := by
  unfold State.collDown
  repeat' (first
    | with_reducible assumption
    | with_reducible exact Steady.refl _
    | (extract_lets +onlyGivenNames x
       first
       | (refine Steady.via (t := x) ?side (fun hx => ?main); (case' side => subst x); (case' main => (clear_value x; revert x; intro _ _)))
       | subst x)
    | with_reducible apply Steady.trans _ (State.collSend_still ..).steady
    | with_reducible apply Steady.trans _ (State.barrierDone_steady ..)
    | with_reducible apply Steady.trans _ (State.collOver_still ..).steady
    | with_reducible apply Steady.trans _ (State.writeMem_steady ..)
    | with_reducible apply Steady.trans _ (State.decide__steady ..)
    | with_reducible apply Steady.foldl _ _ _ (fun _ _ => ?_)
    | with_reducible apply Steady.foldl₁ _ _ _ (fun _ _ => ?_)
    | with_reducible apply Steady.foldl₂ _ _ _ (fun _ _ => ?_)
    | split)

theorem State.collStep_steady (s : State) :
    Steady s (State.collStep s) := by
  unfold State.collStep
  repeat' (first
    | with_reducible assumption
    | with_reducible exact Steady.refl _
    | (extract_lets +onlyGivenNames x
       first
       | (refine Steady.via (t := x) ?side (fun hx => ?main); (case' side => subst x); (case' main => (clear_value x; revert x; intro _ _)))
       | subst x)
    | with_reducible apply Steady.trans _ (State.count_still ..).steady
    | with_reducible apply Steady.trans _ (State.collDown_steady ..)
    | with_reducible apply Steady.trans _ (State.collSent_still ..).steady
    | with_reducible apply Steady.trans _ (State.collSend_still ..).steady
    | split)

theorem State.collGot_steady (s : State) (pos : ℕ) (body : Sys2Proof.CollBody) :
    Steady s (State.collGot s pos body) := by
  unfold State.collGot
  repeat' (first
    | with_reducible assumption
    | with_reducible exact Steady.refl _
    | with_reducible apply Steady.trans _ (State.collStep_steady ..)
    | split
    | (with_reducible refine Steady.fields ?_ rfl ⟨rfl, rfl⟩; first | with_reducible assumption | with_reducible exact Steady.refl _))

theorem State.stageStream_steady (s : State) (bs : List Sys2Proof.Byte) :
    Steady s (State.stageStream s bs) := by
  unfold State.stageStream
  repeat' (first
    | with_reducible assumption
    | with_reducible exact Steady.refl _
    | (extract_lets +onlyGivenNames x
       subst x)
    | with_reducible apply Steady.trans _ (State.writeMem_steady ..)
    | with_reducible apply Steady.foldl _ _ _ (fun _ _ => ?_))

theorem State.passStream_steady (s : State) (c : Coll) (j : ℕ) (bs : List Sys2Proof.Byte) :
    Steady s (State.passStream s c j bs) := by
  unfold State.passStream
  repeat' (first
    | with_reducible assumption
    | with_reducible exact Steady.refl _
    | (extract_lets +onlyGivenNames x
       first
       | (refine Steady.via (t := x) ?side (fun hx => ?main); (case' side => subst x); (case' main => (clear_value x; revert x; intro _ _)))
       | subst x)
    | with_reducible apply Steady.trans _ (State.writeLp_steady ..)
    | with_reducible apply Steady.trans _ (State.stageStream_steady ..)
    | with_reducible apply Steady.trans _ (State.collSend_still ..).steady
    | with_reducible apply Steady.trans _ (State.takeStream_steady ..)
    | with_reducible apply Steady.trans _ (State.collOver_still ..).steady
    | split
    | dsimp -zeta only
    | (with_reducible refine Steady.fields ?_ rfl ⟨rfl, rfl⟩; with_reducible assumption))

theorem State.startStreams_steady (s : State) (c : Coll) :
    Steady s (State.startStreams s c) := by
  unfold State.startStreams
  repeat' (first
    | with_reducible assumption
    | with_reducible exact Steady.refl _
    | (extract_lets +onlyGivenNames x
       first
       | (refine Steady.via (t := x) ?side (fun hx => ?main); (case' side => subst x); (case' main => (clear_value x; revert x; intro _ _)))
       | subst x)
    | with_reducible apply Steady.trans _ (State.collOver_still ..).steady
    | with_reducible apply Steady.trans _ (State.sendStream_still ..).steady
    | with_reducible apply Steady.trans _ (State.passStream_steady ..)
    | with_reducible apply Steady.trans _ (State.collSend_still ..).steady
    | with_reducible apply Steady.trans _ (State.stageStream_steady ..)
    | with_reducible apply Steady.foldl _ _ _ (fun _ _ => ?_)
    | with_reducible apply Steady.foldl₁ _ _ _ (fun _ _ => ?_)
    | with_reducible apply Steady.foldl₂ _ _ _ (fun _ _ => ?_)
    | split)

theorem State.collTake_steady (s : State) (c : Coll) (dir : Sys2Proof.TreeDir) (pos : ℕ) (body : Sys2Proof.CollBody) :
    Steady s (State.collTake s c dir pos body) := by
  unfold State.collTake
  repeat' (first
    | with_reducible assumption
    | with_reducible exact Steady.refl _
    | with_reducible apply Steady.trans _ (State.passStream_steady ..)
    | with_reducible apply Steady.trans _ (State.collGot_steady ..)
    | with_reducible apply Steady.trans _ (State.collDown_steady ..)
    | split)

theorem State.collEarly_steady (s : State) (c : Coll) :
    Steady s (State.collEarly s c) := by
  unfold State.collEarly
  repeat' (first
    | with_reducible assumption
    | with_reducible exact Steady.refl _
    | (extract_lets +onlyGivenNames x
       first
       | (refine Steady.via (t := x) ?side (fun hx => ?main); (case' side => subst x); (case' main => (clear_value x; revert x; intro _ _)))
       | subst x)
    | with_reducible apply Steady.trans _ (State.collTake_steady ..)
    | with_reducible apply Steady.foldl _ _ _ (fun _ _ => ?_)
    | with_reducible apply Steady.foldl₁ _ _ _ (fun _ _ => ?_)
    | with_reducible apply Steady.foldl₂ _ _ _ (fun _ _ => ?_)
    | split
    | with_reducible refine Steady.eq₁ (by with_reducible assumption) ?_
    | with_reducible refine Steady.eq₂ (by with_reducible assumption) ?_
    | with_reducible refine Steady.opt_eq (by with_reducible assumption) ?_
    | with_reducible refine Steady.opt₂_eq (by with_reducible assumption) ?_
    | dsimp -zeta only
    | with_reducible refine Steady.fields ?_ rfl ⟨rfl, rfl⟩)

theorem State.collBegin_steady (s : State) (group : ℕ) (program : ℕ) (pos : ℕ) (own : Option Sys2Proof.CollBody) :
    Steady s (State.collBegin s group program pos own) := by
  unfold State.collBegin
  repeat' (first
    | with_reducible assumption
    | with_reducible exact Steady.refl _
    | (extract_lets +onlyGivenNames x
       first
       | (refine Steady.via (t := x) ?side (fun hx => ?main); (case' side => subst x); (case' main => (clear_value x; revert x; intro _ _)))
       | subst x)
    | with_reducible apply Steady.trans _ (State.collFail_steady ..)
    | with_reducible apply Steady.trans _ (State.collGot_steady ..)
    | with_reducible apply Steady.trans _ (State.startStreams_steady ..)
    | with_reducible apply Steady.trans _ (State.collEarly_steady ..)
    | split
    | dsimp -zeta only
    | (with_reducible refine Steady.fields ?_ rfl ⟨rfl, rfl⟩; first | with_reducible assumption | with_reducible exact Steady.refl _))

theorem State.pollPulse_still (s : State) :
    Still s (State.pollPulse s) := by
  unfold State.pollPulse
  repeat' (first
    | with_reducible assumption
    | with_reducible exact Still.refl _
    | (extract_lets +onlyGivenNames x
       subst x)
    | with_reducible apply Still.trans _ (State.emit_still ..)
    | split
    | dsimp -zeta only
    | (with_reducible refine Still.fields ?_ rfl ⟨rfl, rfl⟩; first | with_reducible assumption | with_reducible exact Still.refl _))

theorem State.pollStartGroup_steady (s : State) :
    Steady s (State.pollStartGroup s) := by
  unfold State.pollStartGroup
  repeat' (first
    | with_reducible assumption
    | with_reducible exact Steady.refl _
    | (extract_lets +onlyGivenNames x
       first
       | (refine Steady.via (t := x) ?side (fun hx => ?main); (case' side => subst x); (case' main => (clear_value x; revert x; intro _ _)))
       | subst x)
    | with_reducible apply Steady.trans _ (State.pollPulse_still ..).steady
    | with_reducible apply Steady.trans _ (State.collBegin_steady ..)
    | split
    | dsimp -zeta only
    | (with_reducible refine Steady.fields ?_ rfl ⟨rfl, rfl⟩; first | with_reducible assumption | with_reducible exact Steady.refl _))

theorem State.pollBarrier_steady (s : State) :
    Steady s (State.pollBarrier s) := by
  unfold State.pollBarrier
  repeat' (first
    | with_reducible assumption
    | with_reducible exact Steady.refl _
    | (extract_lets +onlyGivenNames x
       first
       | (refine Steady.via (t := x) ?side (fun hx => ?main); (case' side => subst x); (case' main => (clear_value x; revert x; intro _ _)))
       | subst x)
    | with_reducible apply Steady.trans _ (State.takeFree_steady ..)
    | with_reducible apply Steady.trans _ (State.sendMsg_still ..).steady
    | with_reducible apply Steady.trans _ (State.pollStartGroup_steady ..)
    | with_reducible apply Steady.trans _ (State.pollPulse_still ..).steady
    | with_reducible apply Steady.foldl _ _ _ (fun _ _ => ?_)
    | with_reducible apply Steady.foldl₁ _ _ _ (fun _ _ => ?_)
    | with_reducible apply Steady.foldl₂ _ _ _ (fun _ _ => ?_)
    | split
    | with_reducible refine Steady.eq₁ (by with_reducible assumption) ?_
    | with_reducible refine Steady.eq₂ (by with_reducible assumption) ?_
    | with_reducible refine Steady.opt_eq (by with_reducible assumption) ?_
    | with_reducible refine Steady.opt₂_eq (by with_reducible assumption) ?_
    | dsimp -zeta only
    | with_reducible refine Steady.fields ?_ rfl ⟨rfl, rfl⟩)

end Sys2Proof.Machine
end

