-- ==== Sys2Proof/Laws/Kept/Scan.lean ====
section
/-!
SUPPORT. What the operations of Machine/Scan.lean keep (Safety.lean: Still, Steady, or Kept).
-/

namespace Sys2Proof.Machine

theorem State.scanTell_still (s : State) (d : Desc) (node : ℕ) (dir : Sys2Proof.TreeDir) (pos : ℕ) (body : Sys2Proof.ScanBody) :
    Still s (State.scanTell s d node dir pos body) := by
  unfold State.scanTell
  repeat' (first
    | with_reducible assumption
    | with_reducible exact Still.refl _
    | with_reducible apply Still.trans _ (State.sendLen_still ..))

theorem State.scanSend_still (s : State) (t : Step) (dst : ℕ) (dir : Sys2Proof.TreeDir) (body : Sys2Proof.ScanBody) :
    Still s (State.scanSend s t dst dir body) := by
  unfold State.scanSend
  repeat' (first
    | with_reducible assumption
    | with_reducible exact Still.refl _
    | with_reducible apply Still.trans _ (State.scanTell_still ..)
    | split)

theorem State.scanAround_still (s : State) (t : Step) (but : Option ℕ) (body : Sys2Proof.ScanBody) :
    Still s (State.scanAround s t but body) := by
  unfold State.scanAround
  repeat' (first
    | with_reducible assumption
    | with_reducible exact Still.refl _
    | (extract_lets +onlyGivenNames x
       first
       | (refine Still.via (t := x) ?side (fun hx => ?main); (case' side => subst x); (case' main => (clear_value x; revert x; intro _ _)))
       | subst x)
    | with_reducible apply Still.trans _ (State.scanSend_still ..)
    | with_reducible apply Still.foldl _ _ _ (fun _ _ => ?_)
    | with_reducible apply Still.foldl₁ _ _ _ (fun _ _ => ?_)
    | with_reducible apply Still.foldl₂ _ _ _ (fun _ _ => ?_)
    | split)

theorem State.scanMarker_steady (s : State) (b : Bool) (from_ : ℕ) (st : Sys2Proof.Byte) :
    Steady s (State.scanMarker s b from_ st) := by
  unfold State.scanMarker
  repeat' (first
    | with_reducible assumption
    | with_reducible exact Steady.refl _
    | with_reducible apply Steady.trans _ (State.scanAround_still ..).steady
    | with_reducible apply Steady.trans _ (State.mark_steady ..)
    | split)

theorem State.onScan_still (s : State) (b : Bool) (f : Scan → Scan) :
    Still s (State.onScan s b f) := by
  unfold State.onScan
  repeat' (first
    | with_reducible assumption
    | with_reducible exact Still.refl _
    | with_reducible apply Still.trans _ (State.onStep_still ..))

theorem State.tellVariant_still (s : State) (t : Step) (v : ℕ) (but : Option ℕ) :
    Still s (State.tellVariant s t v but) := by
  unfold State.tellVariant
  repeat' (first
    | with_reducible assumption
    | with_reducible exact Still.refl _
    | (extract_lets +onlyGivenNames x
       first
       | (refine Still.via (t := x) ?side (fun hx => ?main); (case' side => subst x); (case' main => (clear_value x; revert x; intro _ _)))
       | subst x)
    | with_reducible apply Still.trans _ (State.scanSend_still ..)
    | with_reducible apply Still.foldl _ _ _ (fun _ _ => ?_)
    | with_reducible apply Still.foldl₁ _ _ _ (fun _ _ => ?_)
    | with_reducible apply Still.foldl₂ _ _ _ (fun _ _ => ?_)
    | split)

theorem State.checkVariant_steady (s : State) (b : Bool) (from_ : Option ℕ) :
    Steady s (State.checkVariant s b from_) := by
  unfold State.checkVariant
  repeat' (first
    | with_reducible assumption
    | with_reducible exact Steady.refl _
    | with_reducible apply Steady.trans _ (State.mark_steady ..)
    | split)

theorem State.learnVariant_steady (s : State) (b : Bool) (from_ : ℕ) (v : ℕ) :
    Steady s (State.learnVariant s b from_ v) := by
  unfold State.learnVariant
  repeat' (first
    | with_reducible assumption
    | with_reducible exact Steady.refl _
    | with_reducible apply Steady.trans _ (State.onScan_still ..).steady
    | with_reducible apply Steady.trans _ (State.tellVariant_still ..).steady
    | with_reducible apply Steady.trans _ (State.checkVariant_steady ..)
    | split)

theorem State.applyVariant_steady (s : State) (b : Bool) (v : ℕ) :
    Steady s (State.applyVariant s b v) := by
  unfold State.applyVariant
  repeat' (first
    | with_reducible assumption
    | with_reducible exact Steady.refl _
    | with_reducible apply Steady.trans _ (State.onStep_still ..).steady
    | with_reducible apply Steady.trans _ (State.tellVariant_still ..).steady
    | with_reducible apply Steady.trans _ (State.cancelStep_steady ..)
    | with_reducible apply Steady.trans _ (State.checkVariant_steady ..)
    | split)

theorem State.replayVerdicts_steady (s : State) (b : Bool) :
    Steady s (State.replayVerdicts s b) := by
  unfold State.replayVerdicts
  repeat' (first
    | with_reducible assumption
    | with_reducible exact Steady.refl _
    | (extract_lets +onlyGivenNames x
       first
       | (refine Steady.via (t := x) ?side (fun hx => ?main); (case' side => subst x); (case' main => (clear_value x; revert x; intro _ _)))
       | subst x)
    | with_reducible apply Steady.trans _ (State.logStep_steady ..)
    | with_reducible apply Steady.trans _ (State.takeRec_still ..).steady
    | with_reducible apply Steady.trans _ (State.cancelStep_steady ..)
    | with_reducible apply Steady.trans _ (State.count_still ..).steady
    | with_reducible apply Steady.trans _ (State.applyVariant_steady ..)
    | with_reducible apply Steady.foldl _ _ _ (fun _ _ => ?_)
    | with_reducible apply Steady.foldl₁ _ _ _ (fun _ _ => ?_)
    | with_reducible apply Steady.foldl₂ _ _ _ (fun _ _ => ?_)
    | split)

theorem State.scanEnd_steady (s : State) (b : Bool) :
    Steady s (State.scanEnd s b) := by
  unfold State.scanEnd
  repeat' (first
    | with_reducible assumption
    | with_reducible exact Steady.refl _
    | with_reducible apply Steady.trans _ (State.onScan_still ..).steady
    | with_reducible apply Steady.trans _ (State.writeMem_steady ..)
    | with_reducible apply Steady.trans _ (State.advance_still ..).steady
    | with_reducible apply Steady.trans _ (State.applyVariant_steady ..)
    | with_reducible apply Steady.trans _ (State.replayVerdicts_steady ..)
    | split)

theorem State.scanDown_still (s : State) (b : Bool) :
    Still s (State.scanDown s b) := by
  unfold State.scanDown
  repeat' (first
    | with_reducible assumption
    | with_reducible exact Still.refl _
    | (extract_lets +onlyGivenNames x
       first
       | (refine Still.via (t := x) ?side (fun hx => ?main); (case' side => subst x); (case' main => (clear_value x; revert x; intro _ _)))
       | subst x)
    | with_reducible apply Still.trans _ (State.scanSend_still ..)
    | with_reducible apply Still.trans _ (State.onScan_still ..)
    | with_reducible apply Still.foldl _ _ _ (fun _ _ => ?_)
    | with_reducible apply Still.foldl₁ _ _ _ (fun _ _ => ?_)
    | with_reducible apply Still.foldl₂ _ _ _ (fun _ _ => ?_)
    | split)

theorem State.scanUp_still (s : State) (b : Bool) :
    Still s (State.scanUp s b) := by
  unfold State.scanUp
  repeat' (first
    | with_reducible assumption
    | with_reducible exact Still.refl _
    | (extract_lets +onlyGivenNames x
       first
       | (refine Still.via (t := x) ?side (fun hx => ?main); (case' side => subst x); (case' main => (clear_value x; revert x; intro _ _)))
       | subst x)
    | with_reducible apply Still.trans _ (State.onScan_still ..)
    | with_reducible apply Still.trans _ (State.scanSend_still ..)
    | split)

theorem State.scanTry_steady (s : State) (b : Bool) :
    Steady s (State.scanTry s b) := by
  unfold State.scanTry
  repeat' (first
    | with_reducible assumption
    | with_reducible exact Steady.refl _
    | with_reducible apply Steady.trans _ (State.scanEnd_steady ..)
    | with_reducible apply Steady.trans _ (State.scanDown_still ..).steady
    | with_reducible apply Steady.trans _ (State.scanUp_still ..).steady)

theorem State.takeScan_steady (s : State) (b : Bool) (dir : Sys2Proof.TreeDir) (pos : ℕ) (body : Sys2Proof.ScanBody) :
    Steady s (State.takeScan s b dir pos body) := by
  unfold State.takeScan
  repeat' (first
    | with_reducible assumption
    | with_reducible exact Steady.refl _
    | (extract_lets +onlyGivenNames x
       first
       | (refine Steady.via (t := x) ?side (fun hx => ?main); (case' side => subst x); (case' main => (clear_value x; revert x; intro _ _)))
       | subst x)
    | with_reducible apply Steady.trans _ (State.scanMarker_steady ..)
    | with_reducible apply Steady.trans _ (State.onScan_still ..).steady
    | with_reducible apply Steady.trans _ (State.learnVariant_steady ..)
    | with_reducible apply Steady.trans _ (State.scanTry_steady ..)
    | split)

theorem State.earlyScans_steady (s : State) (b : Bool) (k : Key) :
    Steady s (State.earlyScans s b k) := by
  unfold State.earlyScans
  repeat' (first
    | with_reducible assumption
    | with_reducible exact Steady.refl _
    | (extract_lets +onlyGivenNames x
       first
       | (refine Steady.via (t := x) ?side (fun hx => ?main); (case' side => subst x); (case' main => (clear_value x; revert x; intro _ _)))
       | subst x)
    | with_reducible apply Steady.trans _ (State.takeScan_steady ..)
    | with_reducible apply Steady.foldl _ _ _ (fun _ _ => ?_)
    | with_reducible apply Steady.foldl₁ _ _ _ (fun _ _ => ?_)
    | with_reducible apply Steady.foldl₂ _ _ _ (fun _ _ => ?_)
    | split
    | with_reducible refine Steady.eq₁ (by with_reducible assumption) ?_
    | with_reducible refine Steady.eq₂ (by with_reducible assumption) ?_
    | with_reducible refine Steady.opt_eq (by with_reducible assumption) ?_
    | with_reducible refine Steady.opt₂_eq (by with_reducible assumption) ?_
    | dsimp -zeta only
    | with_reducible refine Steady.fields ?_ rfl ⟨rfl, rfl⟩)

theorem State.postMarker_still (s : State) (d : Desc) (st : ℕ) :
    Still s (State.postMarker s d st) := by
  unfold State.postMarker
  repeat' (first
    | with_reducible assumption
    | with_reducible exact Still.refl _
    | (extract_lets +onlyGivenNames x
       first
       | (refine Still.via (t := x) ?side (fun hx => ?main); (case' side => subst x); (case' main => (clear_value x; revert x; intro _ _)))
       | subst x)
    | with_reducible apply Still.trans _ (State.scanTell_still ..)
    | with_reducible apply Still.foldl _ _ _ (fun _ _ => ?_)
    | with_reducible apply Still.foldl₁ _ _ _ (fun _ _ => ?_)
    | with_reducible apply Still.foldl₂ _ _ _ (fun _ _ => ?_)
    | split
    | with_reducible refine Still.eq₁ (by with_reducible assumption) ?_
    | with_reducible refine Still.eq₂ (by with_reducible assumption) ?_
    | with_reducible refine Still.opt_eq (by with_reducible assumption) ?_
    | with_reducible refine Still.opt₂_eq (by with_reducible assumption) ?_
    | dsimp -zeta only)

theorem State.dropMarkers_still (s : State) (d : Desc) :
    Still s (State.dropMarkers s d) := by
  unfold State.dropMarkers
  repeat' (first
    | with_reducible assumption
    | with_reducible exact Still.refl _
    | split
    | (with_reducible refine Still.fields ?_ rfl ⟨rfl, rfl⟩; first | with_reducible assumption | with_reducible exact Still.refl _))

theorem State.scanFail_steady (s : State) (b : Bool) (silent : ℕ) :
    Steady s (State.scanFail s b silent) := by
  unfold State.scanFail
  repeat' (first
    | with_reducible assumption
    | with_reducible exact Steady.refl _
    | with_reducible apply Steady.trans _ (State.collCount_still ..).steady
    | with_reducible apply Steady.trans _ (State.setObj_steady ..)
    | with_reducible apply Steady.trans _ (State.count_still ..).steady
    | with_reducible apply Steady.trans _ (State.mark_steady ..)
    | split)

theorem State.timeoutVerdict_steady (s : State) (b : Bool) :
    Steady s (State.timeoutVerdict s b) := by
  unfold State.timeoutVerdict
  repeat' (first
    | with_reducible assumption
    | with_reducible exact Steady.refl _
    | with_reducible apply Steady.trans _ (State.count_still ..).steady
    | with_reducible apply Steady.trans _ (State.logStep_steady ..)
    | with_reducible apply Steady.trans _ (State.applyVariant_steady ..)
    | split)

theorem State.timeoutOf_steady (s : State) (k : Key) :
    Steady s (State.timeoutOf s k) := by
  unfold State.timeoutOf
  repeat' (first
    | with_reducible assumption
    | with_reducible exact Steady.refl _
    | with_reducible apply Steady.trans _ (State.timeoutVerdict_steady ..)
    | split)

theorem State.discardVerdict_still (s : State) (w : BitVec 64) :
    Still s (State.discardVerdict s w) := by
  unfold State.discardVerdict
  repeat' (first
    | with_reducible assumption
    | with_reducible exact Still.refl _
    | with_reducible apply Still.trans _ (State.soot__still ..)
    | with_reducible apply Still.trans _ (State.count_still ..))

theorem State.takeVerdict_steady (s : State) (w : BitVec 64) (timely : Bool) :
    Steady s (State.takeVerdict s w timely) := by
  unfold State.takeVerdict
  repeat' (first
    | with_reducible assumption
    | with_reducible exact Steady.refl _
    | (extract_lets +onlyGivenNames x
       first
       | (refine Steady.via (t := x) ?side (fun hx => ?main); (case' side => subst x); (case' main => (clear_value x; revert x; intro _ _)))
       | subst x)
    | with_reducible apply Steady.trans _ (State.discardVerdict_still ..).steady
    | with_reducible apply Steady.trans _ (State.logStep_steady ..)
    | with_reducible apply Steady.trans _ (State.onStep_still ..).steady
    | with_reducible apply Steady.trans _ (State.applyVariant_steady ..)
    | split)

theorem State.supplyVerdict_steady (s : State) (w : BitVec 64) (timely : Bool) :
    Steady s (State.supplyVerdict s w timely) := by
  unfold State.supplyVerdict
  repeat' (first
    | with_reducible assumption
    | with_reducible exact Steady.refl _
    | with_reducible apply Steady.trans _ (State.orHold_steady _ _ _ _ (fun _ => ?_))
    | with_reducible apply Steady.trans _ (State.takeVerdict_steady ..))

theorem State.takeCancel_steady (s : State) (w : BitVec 64) :
    Steady s (State.takeCancel s w) := by
  unfold State.takeCancel
  repeat' (first
    | with_reducible assumption
    | with_reducible exact Steady.refl _
    | with_reducible apply Steady.trans _ (State.discardVerdict_still ..).steady
    | with_reducible apply Steady.trans _ (State.cancelStep_steady ..)
    | with_reducible apply Steady.trans _ (State.logStep_steady ..)
    | split)

theorem State.supplyCancel_steady (s : State) (w : BitVec 64) :
    Steady s (State.supplyCancel s w) := by
  unfold State.supplyCancel
  repeat' (first
    | with_reducible assumption
    | with_reducible exact Steady.refl _
    | with_reducible apply Steady.trans _ (State.orHold_steady _ _ _ _ (fun _ => ?_))
    | with_reducible apply Steady.trans _ (State.takeCancel_steady ..))

theorem State.verdictWrite_steady (w : BitVec 64) (s : State) :
    Steady s (State.verdictWrite w s) := by
  unfold State.verdictWrite
  repeat' (first
    | with_reducible assumption
    | with_reducible exact Steady.refl _
    | with_reducible apply Steady.trans _ (State.toPeer_still ..).steady
    | with_reducible apply Steady.trans _ (State.supplyVerdict_steady ..))

theorem State.cancelWrite_steady (w : BitVec 64) (s : State) :
    Steady s (State.cancelWrite w s) := by
  unfold State.cancelWrite
  repeat' (first
    | with_reducible assumption
    | with_reducible exact Steady.refl _
    | with_reducible apply Steady.trans _ (State.toPeer_still ..).steady
    | with_reducible apply Steady.trans _ (State.supplyCancel_steady ..))

theorem execScanMessage_steady (stepId : BitVec 32) (batch : BitVec 12) (dir : Sys2Proof.TreeDir) (pos : ℕ) (body : Sys2Proof.ScanBody) (s : State) :
    ∃ t, execScanMessage stepId batch dir pos body s = .next t ∧ Steady s t := by
  unfold execScanMessage
  refine ⟨_, rfl, ?_⟩
  repeat' (first
    | with_reducible assumption
    | with_reducible exact Steady.refl _
    | with_reducible apply Steady.trans _ (State.takeScan_steady ..)
    | split
    | (with_reducible refine Steady.fields ?_ rfl ⟨rfl, rfl⟩; first | with_reducible assumption | with_reducible exact Steady.refl _))

theorem execCollMessage_steady (group : BitVec 8) (program : Sys2Proof.Byte) (dir : Sys2Proof.TreeDir) (pos : ℕ) (body : Sys2Proof.CollBody) (s : State) :
    ∃ t, execCollMessage group program dir pos body s = .next t ∧ Steady s t := by
  unfold execCollMessage
  refine ⟨_, rfl, ?_⟩
  repeat' (first
    | with_reducible assumption
    | with_reducible exact Steady.refl _
    | with_reducible apply Steady.trans _ (State.pollStartGroup_steady ..)
    | with_reducible apply Steady.trans _ (State.collTake_steady ..)
    | split
    | (with_reducible refine Steady.fields ?_ rfl ⟨rfl, rfl⟩; first | with_reducible assumption | with_reducible exact Steady.refl _))

theorem execCollTimeout_steady (group : BitVec 8) (program : Sys2Proof.Byte) (pos : ℕ) (s : State) :
    ∃ t, execCollTimeout group program pos s = .next t ∧ Steady s t := by
  unfold execCollTimeout
  refine ⟨_, rfl, ?_⟩
  repeat' (first
    | with_reducible assumption
    | with_reducible exact Steady.refl _
    | with_reducible apply Steady.trans _ (State.scanFail_steady ..)
    | with_reducible apply Steady.trans _ (State.breakLive_still ..).steady
    | with_reducible apply Steady.trans _ (State.pollStartGroup_steady ..)
    | with_reducible apply Steady.trans _ (State.collFail_steady ..)
    | split)

theorem execVerdict_steady (path : Sys2Proof.Path) (tag : Sys2Proof.ReqTag) (word : BitVec 64) (s : State) :
    ∃ t, execVerdict path tag word s = .next t ∧ Steady s t := by
  unfold execVerdict
  refine ⟨_, rfl, ?_⟩
  repeat' (first
    | with_reducible assumption
    | with_reducible exact Steady.refl _
    | with_reducible apply Steady.trans _ (odWrite_steady _ _ _ _ (fun _ => ?_))
    | with_reducible apply Steady.trans _ (State.verdictWrite_steady ..))

theorem execHostCancel_steady (path : Sys2Proof.Path) (tag : Sys2Proof.ReqTag) (word : BitVec 64) (s : State) :
    ∃ t, execHostCancel path tag word s = .next t ∧ Steady s t := by
  unfold execHostCancel
  refine ⟨_, rfl, ?_⟩
  repeat' (first
    | with_reducible assumption
    | with_reducible exact Steady.refl _
    | with_reducible apply Steady.trans _ (odWrite_steady _ _ _ _ (fun _ => ?_))
    | with_reducible apply Steady.trans _ (State.cancelWrite_steady ..))

theorem execVerdictTimeout_steady (s : State) :
    ∃ t, execVerdictTimeout s = .next t ∧ Steady s t := by
  unfold execVerdictTimeout
  refine ⟨_, rfl, ?_⟩
  repeat' (first
    | with_reducible assumption
    | with_reducible exact Steady.refl _
    | (extract_lets +onlyGivenNames x
       subst x)
    | with_reducible apply Steady.trans _ (State.replayVerdicts_steady ..)
    | with_reducible apply Steady.trans _ (State.toPeer_still ..).steady
    | with_reducible apply Steady.trans _ (State.timeoutVerdict_steady ..)
    | with_reducible apply Steady.foldl _ _ _ (fun _ _ => ?_)
    | with_reducible apply Steady.foldl₁ _ _ _ (fun _ _ => ?_)
    | with_reducible apply Steady.foldl₂ _ _ _ (fun _ _ => ?_)
    | split)

end Sys2Proof.Machine
end

