-- ==== Sys2Proof/Laws/Kept/Admit.lean ====
section
/-!
SUPPORT. What the operations of Machine/Admit.lean keep (Safety.lean: Still, Steady, or Kept).
-/

namespace Sys2Proof.Machine

theorem State.postAsh_steady (s : State) (r : BitVec 64) :
    Steady s (State.postAsh s r) := by
  unfold State.postAsh
  repeat' (first
    | with_reducible assumption
    | with_reducible exact Steady.refl _
    | (extract_lets +onlyGivenNames x
       subst x)
    | with_reducible apply Steady.trans _ (State.count_still ..).steady
    | with_reducible apply Steady.trans _ (State.writeMem_steady ..)
    | split)

theorem State.consumeMask_steady (s : State) (b : Bool) (t : Step) :
    Steady s (State.consumeMask s b t) := by
  unfold State.consumeMask
  repeat' (first
    | with_reducible assumption
    | with_reducible exact Steady.refl _
    | (extract_lets +onlyGivenNames x
       first
       | (refine Steady.via (t := x) ?side (fun hx => ?main); (case' side => subst x); (case' main => (clear_value x; revert x; intro _ _)))
       | subst x)
    | with_reducible apply Steady.trans _ (State.writeMem_steady ..)
    | split
    | dsimp -zeta only
    | (with_reducible refine Steady.fields ?_ rfl ⟨rfl, rfl⟩; with_reducible assumption))

theorem State.acceptStep_steady (s : State) (f : Fetched) (b : Bool) (t0 : ℕ) (m : Model) (j : Judged) :
    Steady s (State.acceptStep s f b t0 m j) := by
  unfold State.acceptStep
  repeat' (first
    | with_reducible assumption
    | with_reducible exact Steady.refl _
    | (extract_lets +onlyGivenNames x
       first
       | (refine Steady.via (t := x) ?side (fun hx => ?main); (case' side => subst x); (case' main => (clear_value x; revert x; intro _ _)))
       | subst x)
    | with_reducible apply Steady.trans _ (State.releaseRecord_steady ..)
    | with_reducible apply Steady.trans _ (State.logStep_steady ..)
    | with_reducible apply Steady.trans _ (State.consumeMask_steady ..)
    | with_reducible apply Steady.trans _ (State.postStatus_steady ..)
    | with_reducible apply Steady.trans _ (State.setStep_still ..).steady
    | with_reducible apply Steady.trans _ (State.postAsh_steady ..)
    | with_reducible apply Steady.trans _ (State.earlyScans_steady ..)
    | with_reducible apply Steady.trans _ (State.advance_still ..).steady
    | with_reducible apply Steady.foldl _ _ _ (fun _ _ => ?_)
    | with_reducible apply Steady.foldl₁ _ _ _ (fun _ _ => ?_)
    | with_reducible apply Steady.foldl₂ _ _ _ (fun _ _ => ?_)
    | split
    | with_reducible refine Steady.eq₁ (by with_reducible assumption) ?_
    | with_reducible refine Steady.eq₂ (by with_reducible assumption) ?_
    | with_reducible refine Steady.opt_eq (by with_reducible assumption) ?_
    | with_reducible refine Steady.opt₂_eq (by with_reducible assumption) ?_
    | dsimp -zeta only
    | with_reducible refine Steady.fields ?_ rfl ⟨rfl, rfl⟩)

theorem State.refuseStep_steady (s : State) (f : Fetched) (st : ℕ) (j : Option Judged) :
    Steady s (State.refuseStep s f st j) := by
  unfold State.refuseStep
  repeat' (first
    | with_reducible assumption
    | with_reducible exact Steady.refl _
    | with_reducible apply Steady.trans _ (State.takeFree_steady ..)
    | with_reducible apply Steady.trans _ (State.setObj_steady ..)
    | with_reducible apply Steady.trans _ (State.postStatus_steady ..)
    | with_reducible apply Steady.trans _ (State.postMarker_still ..).steady
    | with_reducible apply Steady.trans _ (State.dropMarkers_still ..).steady
    | with_reducible apply Steady.trans _ (State.haltFor_steady ..)
    | split)

theorem execAdmissionCheck_steady (s : State) :
    ∃ t, execAdmissionCheck s = .next t ∧ Steady s t := by
  unfold execAdmissionCheck
  refine ⟨_, rfl, ?_⟩
  repeat' (first
    | with_reducible assumption
    | with_reducible exact Steady.refl _
    | (extract_lets +onlyGivenNames x
       first
       | (refine Steady.via (t := x) ?side (fun hx => ?main); (case' side => subst x); (case' main => (clear_value x; revert x; intro _ _)))
       | subst x)
    | with_reducible apply Steady.trans _ (State.stepBoundary_still ..).steady
    | with_reducible apply Steady.trans _ (State.acceptStep_steady ..)
    | with_reducible apply Steady.trans _ (State.refuseStep_steady ..)
    | split)

end Sys2Proof.Machine
end

