-- ==== Sys2Proof/Laws/Kept/Target.lean ====
section
/-!
SUPPORT. What the operations of Machine/Target.lean keep (Safety.lean: Still, Steady, or Kept).
-/

namespace Sys2Proof.Machine

theorem State.reduceMem_steady (s : State) (addr : ℕ) (efmt : ℕ) (f : ℕ → ℕ → ℕ → ℕ) (payload : List Sys2Proof.Byte) :
    Steady s (State.reduceMem s addr efmt f payload) := by
  unfold State.reduceMem
  repeat' (first
    | with_reducible assumption
    | with_reducible exact Steady.refl _
    | with_reducible apply Steady.trans _ (State.writeMem_steady ..))

theorem State.accept_still (s : State) (h : BitVec 256) (op : ℕ) (apply : State → State) (happly : ∀ x0, Still x0 (apply x0)) :
    Still s (State.accept s h op apply) := by
  unfold State.accept
  repeat' (first
    | with_reducible assumption
    | with_reducible exact Still.refl _
    | with_reducible apply Still.trans _ (State.count_still ..)
    | with_reducible apply Still.trans _ (State.reply_still ..)
    | split
    | with_reducible apply Still.trans _ (happly ..))

theorem State.accept_steady (s : State) (h : BitVec 256) (op : ℕ) (apply : State → State) (happly : ∀ x0, Steady x0 (apply x0)) :
    Steady s (State.accept s h op apply) := by
  unfold State.accept
  repeat' (first
    | with_reducible assumption
    | with_reducible exact Steady.refl _
    | with_reducible apply Steady.trans _ (State.count_still ..).steady
    | with_reducible apply Steady.trans _ (State.reply_still ..).steady
    | split
    | with_reducible apply Steady.trans _ (happly ..))

theorem State.accept_kept (s : State) (h : BitVec 256) (op : ℕ) (apply : State → State) (happly : ∀ x0, Kept x0 (apply x0)) :
    Kept s (State.accept s h op apply) := by
  unfold State.accept
  repeat' (first
    | with_reducible assumption
    | with_reducible exact Kept.refl _
    | with_reducible apply Kept.trans _ (State.count_still ..).kept
    | with_reducible apply Kept.trans _ (State.reply_still ..).kept
    | split
    | with_reducible apply Kept.trans _ (happly ..))

theorem State.rcStore_still (s : State) (h : BitVec 256) (st : ℕ) (data : BitVec 64) :
    Still s (State.rcStore s h st data) := by
  unfold State.rcStore
  repeat' (first
    | with_reducible assumption
    | with_reducible exact Still.refl _
    | split
    | (with_reducible refine Still.fields ?_ rfl ⟨rfl, rfl⟩; first | with_reducible assumption | with_reducible exact Still.refl _))

theorem State.exactlyOnce_still (s : State) (h : BitVec 256) (readError : Bool) (apply : State → State × ℕ × BitVec 64) (happly : ∀ x0, Still x0 (apply x0).1) :
    Still s (State.exactlyOnce s h readError apply) := by
  unfold State.exactlyOnce
  repeat' (first
    | with_reducible assumption
    | with_reducible exact Still.refl _
    | with_reducible apply Still.trans _ (State.reply_still ..)
    | with_reducible apply Still.trans _ (State.rcStore_still ..)
    | with_reducible apply Still.trans _ (State.takeFree_still ..)
    | with_reducible apply Still.trans _ (State.soot__still ..)
    | with_reducible apply Still.trans _ (State.count_still ..)
    | split
    | with_reducible apply Still.trans _ (happly ..))

theorem State.exactlyOnce_steady (s : State) (h : BitVec 256) (readError : Bool) (apply : State → State × ℕ × BitVec 64) (happly : ∀ x0, Steady x0 (apply x0).1) :
    Steady s (State.exactlyOnce s h readError apply) := by
  unfold State.exactlyOnce
  repeat' (first
    | with_reducible assumption
    | with_reducible exact Steady.refl _
    | with_reducible apply Steady.trans _ (State.reply_still ..).steady
    | with_reducible apply Steady.trans _ (State.rcStore_still ..).steady
    | with_reducible apply Steady.trans _ (State.takeFree_steady ..)
    | with_reducible apply Steady.trans _ (State.soot__still ..).steady
    | with_reducible apply Steady.trans _ (State.count_still ..).steady
    | split
    | with_reducible apply Steady.trans _ (happly ..))

theorem State.exactlyOnce_kept (s : State) (h : BitVec 256) (readError : Bool) (apply : State → State × ℕ × BitVec 64) (happly : ∀ x0, Kept x0 (apply x0).1) :
    Kept s (State.exactlyOnce s h readError apply) := by
  unfold State.exactlyOnce
  repeat' (first
    | with_reducible assumption
    | with_reducible exact Kept.refl _
    | with_reducible apply Kept.trans _ (State.reply_still ..).kept
    | with_reducible apply Kept.trans _ (State.rcStore_still ..).kept
    | with_reducible apply Kept.trans _ (State.takeFree_kept ..)
    | with_reducible apply Kept.trans _ (State.soot__still ..).kept
    | with_reducible apply Kept.trans _ (State.count_still ..).kept
    | split
    | with_reducible apply Kept.trans _ (happly ..))

theorem State.applyLoad_still (s : State) (h : BitVec 256) :
    Still s (State.applyLoad s h) := by
  unfold State.applyLoad
  repeat' (first
    | with_reducible assumption
    | with_reducible exact Still.refl _
    | with_reducible apply Still.trans _ (State.reply_still ..)
    | split)

theorem State.applyStore_steady (s : State) (h : BitVec 256) (payload : List Sys2Proof.Byte) :
    Steady s (State.applyStore s h payload) := by
  unfold State.applyStore
  repeat' (first
    | with_reducible assumption
    | with_reducible exact Steady.refl _
    | (extract_lets +onlyGivenNames x
       (refine Steady.via (t := x) ?side (fun hx => ?main); (case' side => subst x); (case' main => (clear_value x; revert x; intro _ _))))
    | with_reducible apply Steady.trans _ (State.reply_still ..).steady
    | with_reducible apply Steady.trans _ (State.writeMem_steady ..)
    | split)

theorem State.applyMstore_steady (s : State) (h : BitVec 256) (payload : List Sys2Proof.Byte) :
    Steady s (State.applyMstore s h payload) := by
  unfold State.applyMstore
  repeat' (first
    | with_reducible assumption
    | with_reducible exact Steady.refl _
    | (extract_lets +onlyGivenNames x
       first
       | (refine Steady.via (t := x) ?side (fun hx => ?main); (case' side => subst x); (case' main => (clear_value x; revert x; intro _ _)))
       | subst x)
    | with_reducible apply Steady.trans _ (State.reply_still ..).steady
    | with_reducible apply Steady.trans _ (State.writeMem_steady ..)
    | split
    | dsimp -zeta only
    | (with_reducible refine Steady.fields ?_ rfl ⟨rfl, rfl⟩; with_reducible assumption))

theorem State.applyRed_steady (f : ℕ → ℕ → ℕ → ℕ) (h : BitVec 256) (payload : List Sys2Proof.Byte) (s : State) :
    Steady s (State.applyRed f h payload s).1 := by
  unfold State.applyRed
  repeat' (first
    | with_reducible assumption
    | with_reducible exact Steady.refl _
    | with_reducible apply Steady.trans _ (State.reduceMem_steady ..)
    | split)

theorem State.applyAtom_steady (new : ℕ → ℕ) (h : BitVec 256) (payload : List Sys2Proof.Byte) (s : State) :
    Steady s (State.applyAtom new h payload s).1 := by
  unfold State.applyAtom
  repeat' (first
    | with_reducible assumption
    | with_reducible exact Steady.refl _
    | with_reducible apply Steady.trans _ (State.writeMemNat_steady ..)
    | split)

theorem execLoad_still (hdr : BitVec 256) (s : State) :
    ∃ t, execLoad hdr s = .next t ∧ Still s t := by
  unfold execLoad
  refine ⟨_, rfl, ?_⟩
  repeat' (first
    | with_reducible assumption
    | with_reducible exact Still.refl _
    | with_reducible apply Still.trans _ (State.accept_still _ _ _ _ (fun _ => ?_))
    | with_reducible apply Still.trans _ (State.applyLoad_still ..))

theorem execStore_steady (hdr : BitVec 256) (payload : List Sys2Proof.Byte) (s : State) :
    ∃ t, execStore hdr payload s = .next t ∧ Steady s t := by
  unfold execStore
  refine ⟨_, rfl, ?_⟩
  repeat' (first
    | with_reducible assumption
    | with_reducible exact Steady.refl _
    | with_reducible apply Steady.trans _ (State.accept_steady _ _ _ _ (fun _ => ?_))
    | with_reducible apply Steady.trans _ (State.applyStore_steady ..))

theorem execMstore_steady (hdr : BitVec 256) (payload : List Sys2Proof.Byte) (s : State) :
    ∃ t, execMstore hdr payload s = .next t ∧ Steady s t := by
  unfold execMstore
  refine ⟨_, rfl, ?_⟩
  repeat' (first
    | with_reducible assumption
    | with_reducible exact Steady.refl _
    | with_reducible apply Steady.trans _ (State.accept_steady _ _ _ _ (fun _ => ?_))
    | with_reducible apply Steady.trans _ (State.applyMstore_steady ..))

theorem execAtomFadd_steady (hdr : BitVec 256) (payload : List Sys2Proof.Byte) (cacheReadError : Bool) (s : State) :
    ∃ t, execAtomFadd hdr payload cacheReadError s = .next t ∧ Steady s t := by
  unfold execAtomFadd
  refine ⟨_, rfl, ?_⟩
  repeat' (first
    | with_reducible assumption
    | with_reducible exact Steady.refl _
    | with_reducible apply Steady.trans _ (State.accept_steady _ _ _ _ (fun _ => ?_))
    | with_reducible apply Steady.trans _ (State.exactlyOnce_steady _ _ _ _ (fun _ => ?_))
    | with_reducible apply Steady.trans _ (State.applyAtom_steady ..))

theorem execAtomSwap_steady (hdr : BitVec 256) (payload : List Sys2Proof.Byte) (cacheReadError : Bool) (s : State) :
    ∃ t, execAtomSwap hdr payload cacheReadError s = .next t ∧ Steady s t := by
  unfold execAtomSwap
  refine ⟨_, rfl, ?_⟩
  repeat' (first
    | with_reducible assumption
    | with_reducible exact Steady.refl _
    | with_reducible apply Steady.trans _ (State.accept_steady _ _ _ _ (fun _ => ?_))
    | with_reducible apply Steady.trans _ (State.exactlyOnce_steady _ _ _ _ (fun _ => ?_))
    | with_reducible apply Steady.trans _ (State.applyAtom_steady ..))

theorem execAtomCas_steady (hdr : BitVec 256) (payload : List Sys2Proof.Byte) (cacheReadError : Bool) (s : State) :
    ∃ t, execAtomCas hdr payload cacheReadError s = .next t ∧ Steady s t := by
  unfold execAtomCas
  refine ⟨_, rfl, ?_⟩
  repeat' (first
    | with_reducible assumption
    | with_reducible exact Steady.refl _
    | with_reducible apply Steady.trans _ (State.accept_steady _ _ _ _ (fun _ => ?_))
    | with_reducible apply Steady.trans _ (State.exactlyOnce_steady _ _ _ _ (fun _ => ?_))
    | with_reducible apply Steady.trans _ (State.applyAtom_steady ..))

theorem execRedAdd_steady (hdr : BitVec 256) (payload : List Sys2Proof.Byte) (cacheReadError : Bool) (s : State) :
    ∃ t, execRedAdd hdr payload cacheReadError s = .next t ∧ Steady s t := by
  unfold execRedAdd
  refine ⟨_, rfl, ?_⟩
  repeat' (first
    | with_reducible assumption
    | with_reducible exact Steady.refl _
    | with_reducible apply Steady.trans _ (State.accept_steady _ _ _ _ (fun _ => ?_))
    | with_reducible apply Steady.trans _ (State.exactlyOnce_steady _ _ _ _ (fun _ => ?_))
    | with_reducible apply Steady.trans _ (State.applyRed_steady ..))

theorem execRedMax_steady (hdr : BitVec 256) (payload : List Sys2Proof.Byte) (cacheReadError : Bool) (s : State) :
    ∃ t, execRedMax hdr payload cacheReadError s = .next t ∧ Steady s t := by
  unfold execRedMax
  refine ⟨_, rfl, ?_⟩
  repeat' (first
    | with_reducible assumption
    | with_reducible exact Steady.refl _
    | with_reducible apply Steady.trans _ (State.accept_steady _ _ _ _ (fun _ => ?_))
    | with_reducible apply Steady.trans _ (State.exactlyOnce_steady _ _ _ _ (fun _ => ?_))
    | with_reducible apply Steady.trans _ (State.applyRed_steady ..))

end Sys2Proof.Machine
end

