-- ==== Sys2Proof/Laws/Kept/Return.lean ====
section
/-!
SUPPORT. What the operations of Machine/Return.lean keep (Safety.lean: Still, Steady, or Kept).
-/

namespace Sys2Proof.Machine

theorem State.poisonPos_steady (s : State) (d : Desc) (e : ℕ) (p : ℕ) :
    Steady s (State.poisonPos s d e p) := by
  unfold State.poisonPos
  repeat' (first
    | with_reducible assumption
    | with_reducible exact Steady.refl _
    | (extract_lets +onlyGivenNames x
       (refine Steady.via (t := x) ?side (fun hx => ?main); (case' side => subst x); (case' main => (clear_value x; revert x; intro _ _))))
    | with_reducible apply Steady.trans _ (State.setRstate_steady ..)
    | with_reducible apply Steady.trans _ (State.setEntry_still ..).steady
    | split)

theorem State.returnError_steady (s : State) (b : Bool) (t : Step) (h : BitVec 256) (check : ℕ) :
    Steady s (State.returnError s b t h check) := by
  unfold State.returnError
  repeat' (first
    | with_reducible assumption
    | with_reducible exact Steady.refl _
    | with_reducible apply Steady.trans _ (State.count_still ..).steady
    | with_reducible apply Steady.trans _ (State.poisonPos_steady ..)
    | with_reducible apply Steady.trans _ (State.mark_steady ..)
    | split)

theorem State.poisonMark_steady (s : State) (b : Bool) (e : ℕ) (p : ℕ) (ev : SootEv) :
    Steady s (State.poisonMark s b e p ev) := by
  unfold State.poisonMark
  repeat' (first
    | with_reducible assumption
    | with_reducible exact Steady.refl _
    | with_reducible apply Steady.trans _ (State.poisonPos_steady ..)
    | with_reducible apply Steady.trans _ (State.mark_steady ..)
    | split)

theorem State.settleToken_steady (s : State) (e : ℕ) :
    Steady s (State.settleToken s e) := by
  unfold State.settleToken
  repeat' (first
    | with_reducible assumption
    | with_reducible exact Steady.refl _
    | (extract_lets +onlyGivenNames x
       first
       | (refine Steady.via (t := x) ?side (fun hx => ?main); (case' side => subst x); (case' main => (clear_value x; revert x; intro _ _)))
       | subst x)
    | with_reducible apply Steady.trans _ (State.retire_steady ..)
    | with_reducible apply Steady.trans _ (State.setEntry_still ..).steady
    | split
    | dsimp -zeta only
    | (with_reducible refine Steady.fields ?_ rfl ⟨rfl, rfl⟩; with_reducible assumption))

theorem State.sendReturn_steady (s : State) (n : ℕ) (p : Sys2Proof.Packet) (alone : Bool) :
    Steady s (State.sendReturn s n p alone) := by
  unfold State.sendReturn
  repeat' (first
    | with_reducible assumption
    | with_reducible exact Steady.refl _
    | (extract_lets +onlyGivenNames x
       subst x)
    | with_reducible apply Steady.trans _ (State.toPeer_still ..).steady
    | with_reducible apply Steady.trans _ (State.requestTo_still ..).steady
    | with_reducible apply Steady.trans _ (State.copyFar_steady ..)
    | split
    | dsimp -zeta only
    | (with_reducible refine Steady.fields ?_ rfl ⟨rfl, rfl⟩; first | with_reducible assumption | with_reducible exact Steady.refl _))

theorem State.endReduce_steady (s : State) (n : ℕ) :
    Steady s (State.endReduce s n) := by
  unfold State.endReduce
  repeat' (first
    | with_reducible assumption
    | with_reducible exact Steady.refl _
    | with_reducible apply Steady.trans _ (State.sendReturn_steady ..)
    | with_reducible apply Steady.trans _ (State.setFlueCtx_still ..).steady
    | split)

theorem State.issueReductions_steady (s : State) (n : ℕ) (key : Key) (scorer : ℕ) (entry : ℕ) (pos : ℕ) (fmt : ℕ) (ws : List (Piece × List Sys2Proof.Byte)) :
    Steady s (State.issueReductions s n key scorer entry pos fmt ws) := by
  unfold State.issueReductions
  repeat' (first
    | with_reducible assumption
    | with_reducible exact Steady.refl _
    | (extract_lets +onlyGivenNames x
       first
       | (refine Steady.via (t := x) ?side (fun hx => ?main); (case' side => subst x); (case' main => (clear_value x; revert x; intro _ _)))
       | subst x)
    | with_reducible apply Steady.trans _ (State.reduceMem_steady ..)
    | with_reducible apply Steady.trans _ (State.requestTo_still ..).steady
    | with_reducible apply Steady.foldl _ _ _ (fun _ _ => ?_)
    | with_reducible apply Steady.foldl₁ _ _ _ (fun _ _ => ?_)
    | with_reducible apply Steady.foldl₂ _ _ _ (fun _ _ => ?_)
    | split
    | with_reducible refine Steady.eq₁ (by with_reducible assumption) ?_
    | with_reducible refine Steady.eq₂ (by with_reducible assumption) ?_
    | with_reducible refine Steady.opt_eq (by with_reducible assumption) ?_
    | with_reducible refine Steady.opt₂_eq (by with_reducible assumption) ?_
    | dsimp -zeta only
    | with_reducible refine Steady.fields ?_ rfl ⟨rfl, rfl⟩)

theorem State.reduceRow_steady (s : State) (n : ℕ) (p : Sys2Proof.Packet) (w : Sys2Proof.F32) (block : ℕ) (off : ℕ) :
    Steady s (State.reduceRow s n p w block off) := by
  unfold State.reduceRow
  repeat' (first
    | with_reducible assumption
    | with_reducible exact Steady.refl _
    | with_reducible apply Steady.trans _ (State.addFlueCtx_still ..).steady
    | with_reducible apply Steady.trans _ (State.endReduce_steady ..)
    | with_reducible apply Steady.trans _ (State.issueReductions_steady ..))

theorem State.reduceFar_steady (s : State) (t : Step) (e : ℕ) (p : ℕ) (q : Sys2Proof.Packet) :
    ∀ out, State.reduceFar s t e p q = some out → Steady s out := by
  refine Steady.opt_some ?_
  unfold State.reduceFar
  split
  · exact Steady.opt_none
  · exact State.reduceRow_steady ..

theorem State.reduceFar_kept (s : State) (t : Step) (e : ℕ) (p : ℕ) (q : Sys2Proof.Packet) :
    ∀ out, State.reduceFar s t e p q = some out → Kept s out := fun out h => (State.reduceFar_steady _ _ _ _ _ out h).kept

theorem State.placeReturn_steady (s : State) (t : Step) (e : ℕ) (p : ℕ) (payload : List Sys2Proof.Byte) :
    Steady s (State.placeReturn s t e p payload) := by
  unfold State.placeReturn
  repeat' (first
    | with_reducible assumption
    | with_reducible exact Steady.refl _
    | (extract_lets +onlyGivenNames x
       first
       | (refine Steady.via (t := x) ?side (fun hx => ?main); (case' side => subst x); (case' main => (clear_value x; revert x; intro _ _)))
       | subst x)
    | with_reducible apply Steady.trans _ (State.settleToken_steady ..)
    | with_reducible apply Steady.trans _ (State.setRstate_steady ..)
    | with_reducible apply Steady.trans _ (State.addFlueCtx_still ..).steady
    | with_reducible apply Steady.trans _ (State.count_still ..).steady
    | with_reducible apply Steady.trans _ (State.writeMem_steady ..)
    | split
    | dsimp -zeta only
    | (with_reducible refine Steady.fields ?_ rfl ⟨rfl, rfl⟩; with_reducible assumption))

theorem State.takeReturn_steady (s : State) (p : Sys2Proof.Packet) (chk : Sys2Proof.Arrival) :
    ∀ out, State.takeReturn s p chk = some out → Steady s out.2 := by
  refine Steady.opt₂_some ?_
  unfold State.takeReturn
  extract_lets +onlyGivenNames h
  generalize h = h'
  split
  · exact Steady.opt₂_mk (State.takeDrain_still ..).steady
  · split
    · exact Steady.opt₂_mk (State.count_still ..).steady
    · extract_lets b e pos
      generalize RHdr.cells h' = c1
      split
      · exact Steady.opt₂_mk (State.breakTiming_still ..).steady
      · split
        · exact Steady.opt₂_mk (State.returnError_steady ..)
        · split
          · exact Steady.opt₂_mk (State.poisonMark_steady ..)
          · split
            · exact Steady.opt₂_mk ((State.setRstate_steady ..).trans (State.settleToken_steady ..))
            · split
              · cases hq : State.reduceFar s _ e pos p with
                | none => exact Steady.opt₂_none
                | some u => exact Steady.opt₂_mk (State.reduceFar_steady _ _ _ _ _ u hq)
              · exact Steady.opt₂_mk (State.placeReturn_steady ..)

theorem State.takeReturn_kept (s : State) (p : Sys2Proof.Packet) (chk : Sys2Proof.Arrival) :
    ∀ out, State.takeReturn s p chk = some out → Kept s out.2 := fun out h => (State.takeReturn_steady _ _ _ out h).kept

theorem State.poisonToken_steady (s : State) (e : ℕ) (ev : SootEv) :
    Steady s (State.poisonToken s e ev) := by
  unfold State.poisonToken
  repeat' (first
    | with_reducible assumption
    | with_reducible exact Steady.refl _
    | (extract_lets +onlyGivenNames x
       first
       | (refine Steady.via (t := x) ?side (fun hx => ?main); (case' side => subst x); (case' main => (clear_value x; revert x; intro _ _)))
       | subst x)
    | with_reducible apply Steady.trans _ (State.setEntry_still ..).steady
    | with_reducible apply Steady.trans _ (State.mark_steady ..)
    | split
    | dsimp -zeta only
    | (with_reducible refine Steady.fields ?_ rfl ⟨rfl, rfl⟩; with_reducible assumption))

theorem State.dropSent_still (s : State) (n : ℕ) (k : Key) :
    Still s (State.dropSent s n k) := by
  unfold State.dropSent
  repeat' (first
    | with_reducible assumption
    | with_reducible exact Still.refl _
    | with_reducible apply Still.trans _ (State.dropFlueKey_still ..))

theorem State.reduceDone_steady (s : State) (n : ℕ) (k : Key) (bad : Bool) :
    Steady s (State.reduceDone s n k bad) := by
  unfold State.reduceDone
  repeat' (first
    | with_reducible assumption
    | with_reducible exact Steady.refl _
    | with_reducible apply Steady.trans _ (State.endReduce_steady ..)
    | with_reducible apply Steady.trans _ (State.setFlueCtx_still ..).steady
    | split)

theorem State.written_steady (s : State) (e : ℕ) (combined : Bool) :
    Steady s (State.written s e combined) := by
  unfold State.written
  repeat' (first
    | with_reducible assumption
    | with_reducible exact Steady.refl _
    | with_reducible apply Steady.trans _ (State.retire_steady ..)
    | with_reducible apply Steady.trans _ (State.count_still ..).steady
    | split)

theorem State.finishHome_steady (s : State) (e : ℕ) :
    Steady s (State.finishHome s e) := by
  unfold State.finishHome
  repeat' (first
    | with_reducible assumption
    | with_reducible exact Steady.refl _
    | with_reducible apply Steady.trans _ (State.written_steady ..)
    | with_reducible apply Steady.trans _ (State.dropFlueCtx_still ..).steady
    | with_reducible apply Steady.trans _ (State.tryComplete_steady ..)
    | split
    | (with_reducible refine Steady.fields ?_ rfl ⟨rfl, rfl⟩; first | with_reducible assumption | with_reducible exact Steady.refl _))

theorem State.replayReturn_steady (s : State) (n : ℕ) (k : Key) :
    Steady s (State.replayReturn s n k) := by
  unfold State.replayReturn
  repeat' (first
    | with_reducible assumption
    | with_reducible exact Steady.refl _
    | with_reducible apply Steady.trans _ (State.unholdFar_still ..).steady
    | with_reducible apply Steady.trans _ (State.breakTiming_still ..).steady
    | with_reducible apply Steady.trans _ (State.sendReturn_steady ..)
    | with_reducible apply Steady.trans _ (State.setFlueCtx_still ..).steady
    | with_reducible apply Steady.trans _ (State.count_still ..).steady
    | with_reducible apply Steady.trans _ (State.soot__still ..).steady
    | split)

theorem State.resolveZero_steady (s : State) (b : Bool) (d : Desc) (e : ℕ) :
    Steady s (State.resolveZero s b d e) := by
  unfold State.resolveZero
  repeat' (first
    | with_reducible assumption
    | with_reducible exact Steady.refl _
    | (extract_lets +onlyGivenNames x
       subst x)
    | with_reducible apply Steady.trans _ (State.retire_steady ..)
    | with_reducible apply Steady.trans _ (State.writeZero_steady ..)
    | with_reducible apply Steady.foldl _ _ _ (fun _ _ => ?_)
    | with_reducible apply Steady.foldl₁ _ _ _ (fun _ _ => ?_)
    | with_reducible apply Steady.foldl₂ _ _ _ (fun _ _ => ?_)
    | split
    | with_reducible refine Steady.eq₁ (by with_reducible assumption) ?_
    | with_reducible refine Steady.eq₂ (by with_reducible assumption) ?_
    | with_reducible refine Steady.opt_eq (by with_reducible assumption) ?_
    | with_reducible refine Steady.opt₂_eq (by with_reducible assumption) ?_
    | dsimp -zeta only
    | with_reducible refine Steady.fields ?_ rfl ⟨rfl, rfl⟩)

theorem State.homeAcked_steady (s : State) (e : ℕ) :
    Steady s (State.homeAcked s e) := by
  unfold State.homeAcked
  repeat' (first
    | with_reducible assumption
    | with_reducible exact Steady.refl _
    | with_reducible apply Steady.trans _ (State.finishHome_steady ..)
    | with_reducible apply Steady.trans _ (State.setFlueCtx_still ..).steady
    | split
    | (with_reducible refine Steady.fields ?_ rfl ⟨rfl, rfl⟩; first | with_reducible assumption | with_reducible exact Steady.refl _))

end Sys2Proof.Machine
end

