-- ==== Sys2Proof/Laws/Kept/Bellows.lean ====
section
/-!
SUPPORT. What the operations of Machine/Bellows.lean keep (Safety.lean: Still, Steady, or Kept).
-/

namespace Sys2Proof.Machine

theorem State.dropDispCtx_still (s : State) (n : ℕ) :
    Still s (State.dropDispCtx s n) := by
  unfold State.dropDispCtx
  repeat' (first
    | with_reducible assumption
    | with_reducible exact Still.refl _
    | split
    | (with_reducible refine Still.fields ?_ rfl ⟨rfl, rfl⟩; first | with_reducible assumption | with_reducible exact Still.refl _))

theorem State.setDispCtx_still (s : State) (c : Ctx) :
    Still s (State.setDispCtx s c) := by
  unfold State.setDispCtx
  repeat' (first
    | with_reducible assumption
    | with_reducible exact Still.refl _
    | split
    | (with_reducible refine Still.fields ?_ rfl ⟨rfl, rfl⟩; first | with_reducible assumption | with_reducible exact Still.refl _))

theorem State.halfFence_steady (s : State) (k : Key) (t : Step) :
    Steady s (State.halfFence s k t) := by
  unfold State.halfFence
  repeat' (first
    | with_reducible assumption
    | with_reducible exact Steady.refl _
    | (extract_lets +onlyGivenNames x
       subst x)
    | with_reducible apply Steady.trans _ (State.checkFences_steady ..)
    | split
    | dsimp -zeta only
    | (with_reducible refine Steady.fields ?_ rfl ⟨rfl, rfl⟩; first | with_reducible assumption | with_reducible exact Steady.refl _))

theorem State.dispatchProgress_steady (s : State) (k : Key) :
    Steady s (State.dispatchProgress s k) := by
  unfold State.dispatchProgress
  repeat' (first
    | with_reducible assumption
    | with_reducible exact Steady.refl _
    | with_reducible apply Steady.trans _ (State.halfFence_steady ..)
    | with_reducible apply Steady.trans _ (State.setStep_still ..).steady
    | split)

theorem State.farProgress_steady (s : State) :
    Steady s (State.farProgress s) := by
  unfold State.farProgress
  repeat' (first
    | with_reducible assumption
    | with_reducible exact Steady.refl _
    | (extract_lets +onlyGivenNames x
       subst x)
    | with_reducible apply Steady.trans _ (State.dispatchProgress_steady ..)
    | with_reducible apply Steady.trans _ (State.checkFences_steady ..)
    | with_reducible apply Steady.foldl _ _ _ (fun _ _ => ?_)
    | with_reducible apply Steady.foldl₁ _ _ _ (fun _ _ => ?_)
    | with_reducible apply Steady.foldl₂ _ _ _ (fun _ _ => ?_)
    | split)

theorem State.sendDispatch_steady (s : State) (c : Ctx) (p : Sys2Proof.Packet) :
    Steady s (State.sendDispatch s c p) := by
  unfold State.sendDispatch
  repeat' (first
    | with_reducible assumption
    | with_reducible exact Steady.refl _
    | (extract_lets +onlyGivenNames x
       first
       | (refine Steady.via (t := x) ?side (fun hx => ?main); (case' side => subst x); (case' main => (clear_value x; revert x; intro _ _)))
       | subst x)
    | with_reducible apply Steady.trans _ (State.setDispCtx_still ..).steady
    | with_reducible apply Steady.trans _ (State.toPeer_still ..).steady
    | with_reducible apply Steady.trans _ (State.copyFar_steady ..)
    | with_reducible apply Steady.trans _ (State.dropDispCtx_still ..).steady
    | with_reducible apply Steady.trans _ (State.requestTo_still ..).steady
    | split
    | dsimp -zeta only
    | (with_reducible refine Steady.fields ?_ rfl ⟨rfl, rfl⟩; with_reducible assumption))

theorem State.pairSent_steady (s : State) (d : Desc) (h : BitVec 256) :
    Steady s (State.pairSent s d h) := by
  unfold State.pairSent
  repeat' (first
    | with_reducible assumption
    | with_reducible exact Steady.refl _
    | (extract_lets +onlyGivenNames x
       subst x)
    | with_reducible apply Steady.trans _ (State.setRstate_steady ..)
    | split)

theorem State.poisonPair_steady (s : State) (h : BitVec 256) (ev : SootEv) :
    Steady s (State.poisonPair s h ev) := by
  unfold State.poisonPair
  repeat' (first
    | with_reducible assumption
    | with_reducible exact Steady.refl _
    | with_reducible apply Steady.trans _ (State.soot__still ..).steady
    | with_reducible apply Steady.trans _ (State.poisonPos_steady ..)
    | with_reducible apply Steady.trans _ (State.mark_steady ..)
    | split)

theorem State.ackDispatch_steady (s : State) (n : ℕ) :
    Steady s (State.ackDispatch s n) := by
  unfold State.ackDispatch
  repeat' (first
    | with_reducible assumption
    | with_reducible exact Steady.refl _
    | with_reducible apply Steady.trans _ (State.dispatchProgress_steady ..)
    | with_reducible apply Steady.trans _ (State.dropDispCtx_still ..).steady
    | split)

theorem State.replayDispatch_steady (s : State) (n : ℕ) :
    Steady s (State.replayDispatch s n) := by
  unfold State.replayDispatch
  repeat' (first
    | with_reducible assumption
    | with_reducible exact Steady.refl _
    | with_reducible apply Steady.trans _ (State.dropDispCtx_still ..).steady
    | with_reducible apply Steady.trans _ (State.breakTiming_still ..).steady
    | with_reducible apply Steady.trans _ (State.count_still ..).steady
    | with_reducible apply Steady.trans _ (State.sendDispatch_steady ..)
    | with_reducible apply Steady.trans _ (State.poisonPair_steady ..)
    | split)

theorem State.busyDispatch_still (s : State) (n : ℕ) :
    Still s (State.busyDispatch s n) := by
  unfold State.busyDispatch
  repeat' (first
    | with_reducible assumption
    | with_reducible exact Still.refl _
    | with_reducible apply Still.trans _ (State.setDispCtx_still ..)
    | with_reducible apply Still.trans _ (State.breakTiming_still ..)
    | split)

theorem State.replayFar_steady (s : State) (h : BitVec 256) :
    Steady s (State.replayFar s h) := by
  unfold State.replayFar
  repeat' (first
    | with_reducible assumption
    | with_reducible exact Steady.refl _
    | (extract_lets +onlyGivenNames x
       first
       | (refine Steady.via (t := x) ?side (fun hx => ?main); (case' side => subst x); (case' main => (clear_value x; revert x; intro _ _)))
       | subst x)
    | with_reducible apply Steady.trans _ (State.breakTiming_still ..).steady
    | with_reducible apply Steady.trans _ (State.count_still ..).steady
    | with_reducible apply Steady.trans _ (State.copyFar_steady ..)
    | with_reducible apply Steady.trans _ (State.poisonPair_steady ..)
    | split
    | dsimp -zeta only
    | (with_reducible refine Steady.fields ?_ rfl ⟨rfl, rfl⟩; first | with_reducible assumption | with_reducible exact Steady.refl _))

theorem State.servePath_still (s : State) (path : Sys2Proof.DispPath) (dest : ℕ) :
    Still s (State.servePath s path dest) := by
  unfold State.servePath
  repeat' (first
    | with_reducible assumption
    | with_reducible exact Still.refl _
    | split
    | (with_reducible refine Still.fields ?_ rfl ⟨rfl, rfl⟩; first | with_reducible assumption | with_reducible exact Still.refl _))

theorem State.unpend_still (s : State) (p : Pend) :
    Still s (State.unpend s p) := by
  unfold State.unpend
  repeat' (first
    | with_reducible assumption
    | with_reducible exact Still.refl _
    | split
    | (with_reducible refine Still.fields ?_ rfl ⟨rfl, rfl⟩; first | with_reducible assumption | with_reducible exact Still.refl _))

theorem State.flushLast_steady (s : State) (k : Key) (rack : ℕ) :
    Steady s (State.flushLast s k rack) := by
  unfold State.flushLast
  repeat' (first
    | with_reducible assumption
    | with_reducible exact Steady.refl _
    | with_reducible apply Steady.trans _ (State.flushAgg_steady ..)
    | split)

theorem execDispatchSend_steady (path : Sys2Proof.DispPath) (s : State) :
    ∃ t, execDispatchSend path s = .next t ∧ Steady s t := by
  unfold execDispatchSend
  refine ⟨_, rfl, ?_⟩
  repeat' (first
    | with_reducible assumption
    | with_reducible exact Steady.refl _
    | (extract_lets +onlyGivenNames x
       subst x)
    | with_reducible apply Steady.trans _ (State.pairSent_steady ..)
    | with_reducible apply Steady.trans _ (State.count_still ..).steady
    | with_reducible apply Steady.trans _ (State.servePath_still ..).steady
    | with_reducible apply Steady.trans _ (State.unpend_still ..).steady
    | with_reducible apply Steady.trans _ (State.aggregate_steady ..)
    | with_reducible apply Steady.trans _ (State.dispatchProgress_steady ..)
    | with_reducible apply Steady.trans _ (State.flushLast_steady ..)
    | with_reducible apply Steady.trans _ (State.dropDispCtx_still ..).steady
    | with_reducible apply Steady.trans _ (State.flushOldest_steady ..)
    | with_reducible apply Steady.trans _ (State.sendDispatch_steady ..)
    | with_reducible apply Steady.foldl _ _ _ (fun _ _ => ?_)
    | with_reducible apply Steady.foldl₁ _ _ _ (fun _ _ => ?_)
    | with_reducible apply Steady.foldl₂ _ _ _ (fun _ _ => ?_)
    | split
    | with_reducible refine Steady.eq₁ (by with_reducible assumption) ?_)

theorem State.forward_still (s : State) (w : FabWait) :
    Still s (State.forward s w) := by
  unfold State.forward
  repeat' (first
    | with_reducible assumption
    | with_reducible exact Still.refl _
    | with_reducible apply Still.trans _ (State.toPeer_still ..)
    | with_reducible apply Still.trans _ (State.request_still ..)
    | split)

theorem execBusyBackoffExpiry_steady (s : State) :
    ∃ t, execBusyBackoffExpiry s = .next t ∧ Steady s t := by
  unfold execBusyBackoffExpiry
  refine ⟨_, rfl, ?_⟩
  repeat' (first
    | with_reducible assumption
    | with_reducible exact Steady.refl _
    | with_reducible apply Steady.trans _ (State.sendDispatch_steady ..)
    | with_reducible apply Steady.trans _ (State.forward_still ..).steady
    | split
    | (with_reducible refine Steady.fields ?_ rfl ⟨rfl, rfl⟩; first | with_reducible assumption | with_reducible exact Steady.refl _))

theorem execHalfZeroAcknowledged_still (s : State) :
    ∃ t, execHalfZeroAcknowledged s = .next t ∧ Still s t := by
  unfold execHalfZeroAcknowledged
  refine ⟨_, rfl, ?_⟩
  repeat' (first
    | with_reducible assumption
    | with_reducible exact Still.refl _
    | with_reducible apply Still.trans _ (State.onStep_still ..)
    | split)

end Sys2Proof.Machine
end

