-- ==== Sys2Proof/Laws/Kept/PoolTake.lean ====
section
/-!
SUPPORT. What the operations of Machine/PoolTake.lean keep (Safety.lean: Still, Steady, or Kept).
-/

namespace Sys2Proof.Machine

theorem State.freeLand_still (s : State) (slot : ℕ) :
    Still s (State.freeLand s slot) := by
  unfold State.freeLand
  repeat' (first
    | with_reducible assumption
    | with_reducible exact Still.refl _
    | split
    | (with_reducible refine Still.fields ?_ rfl ⟨rfl, rfl⟩; first | with_reducible assumption | with_reducible exact Still.refl _))

theorem State.relayReplay_still (s : State) (h : BitVec 256) :
    Still s (State.relayReplay s h) := by
  unfold State.relayReplay
  extract_lets src
  exact State.toGate_still ..

theorem State.slotFault_steady (s : State) (x : PSlot) (ev : SootEv) :
    Steady s (State.slotFault s x ev) := by
  unfold State.slotFault
  exact .trans (State.soot__still ..).steady (State.noticeTo_steady ..)

theorem State.slotFaults_steady (s : State) (own : List Bool) (xs : List PSlot) (ev : SootEv) :
    Steady s (State.slotFaults s own xs ev) := by
  unfold State.slotFaults
  repeat' (first
    | with_reducible assumption
    | with_reducible exact Steady.refl _
    | with_reducible apply Steady.trans _ (State.markSteps_steady ..)
    | (extract_lets +onlyGivenNames x
       first
       | (refine Steady.via (t := x.1) ?side (fun hx => ?main); (case' side => subst x); (case' main => (clear_value x; revert x; intro _ _)))
       | subst x)
    | with_reducible apply Steady.trans _ (State.slotFault_steady ..)
    | with_reducible apply Steady.trans _ (State.soot__still ..).steady
    | with_reducible apply Steady.foldl _ _ _ (fun _ _ => ?_)
    | with_reducible apply Steady.foldl₁ _ _ _ (fun _ _ => ?_)
    | with_reducible apply Steady.foldl₂ _ _ _ (fun _ _ => ?_)
    | split)

theorem State.commitPacket_steady (s : State) (p : Sys2Proof.Packet) (cells : List (ℕ × ℕ)) (chk : Sys2Proof.Arrival) :
    Steady s (State.commitPacket s p cells chk) := by
  unfold State.commitPacket
  repeat' (first
    | with_reducible assumption
    | with_reducible exact Steady.refl _
    | (extract_lets +onlyGivenNames x
       first
       | (refine Steady.via (t := x) ?side (fun hx => ?main); (case' side => subst x); (case' main => (clear_value x; revert x; intro _ _)))
       | subst x)
    | with_reducible apply Steady.trans _ (State.setSlots_still ..).steady
    | with_reducible apply Steady.trans _ (State.giveCells_still ..).steady
    | with_reducible apply Steady.trans _ (State.setPoolList_still ..).steady
    | with_reducible apply Steady.trans _ (State.slotFaults_steady ..)
    | with_reducible apply Steady.trans _ (State.closeDue_still ..).steady
    | with_reducible apply Steady.trans _ (State.pointerCheck_still ..).steady
    | with_reducible apply Steady.foldl _ _ _ (fun _ _ => ?_)
    | with_reducible apply Steady.foldl₁ _ _ _ (fun _ _ => ?_)
    | with_reducible apply Steady.foldl₂ _ _ _ (fun _ _ => ?_)
    | split)

theorem State.poolTake_steady (s : State) (p : Sys2Proof.Packet) (chk : Sys2Proof.Arrival) (foreign : Bool) :
    ∀ out, State.poolTake s p chk foreign = some out → Steady s out.2 := by
  refine Steady.opt₂_some ?_
  unfold State.poolTake
  repeat' (first
    | with_reducible assumption
    | with_reducible apply Steady.opt_map _ _ (fun _ => ?_)
    | with_reducible apply Steady.opt_map₂ _ _ (fun _ => ?_)
    | with_reducible apply Steady.opt₂_map _ _ (fun _ => ?_)
    | with_reducible exact Steady.refl _
    | with_reducible apply Steady.trans _ (State.pointerCheck_still ..).steady
    | (extract_lets +onlyGivenNames x
       subst x)
    | with_reducible apply Steady.trans _ (State.takeCells_still ..).steady
    | with_reducible apply Steady.trans _ (State.count_still ..).steady
    | with_reducible apply Steady.trans _ (State.giveCells_still ..).steady
    | with_reducible apply Steady.trans _ (State.soot__still ..).steady
    | with_reducible apply Steady.trans _ (State.commitPacket_steady ..)
    | with_reducible apply Steady.foldl _ _ _ (fun _ _ => ?_)
    | with_reducible apply Steady.foldl₁ _ _ _ (fun _ _ => ?_)
    | with_reducible apply Steady.foldl₂ _ _ _ (fun _ _ => ?_)
    | split
    | with_reducible apply Steady.opt₂_none
    | with_reducible apply Steady.opt₂_intro
    | with_reducible refine Steady.eq₁ (by with_reducible assumption) ?_
    | with_reducible refine Steady.eq₂ (by with_reducible assumption) ?_)

theorem State.poolTake_kept (s : State) (p : Sys2Proof.Packet) (chk : Sys2Proof.Arrival) (foreign : Bool) :
    ∀ out, State.poolTake s p chk foreign = some out → Kept s out.2 := fun out h => (State.poolTake_steady _ _ _ _ out h).kept

theorem State.setLand_still (s : State) (l : Land) :
    Still s (State.setLand s l) := by
  unfold State.setLand
  repeat' (first
    | with_reducible assumption
    | with_reducible exact Still.refl _
    | split
    | (with_reducible refine Still.fields ?_ rfl ⟨rfl, rfl⟩; first | with_reducible assumption | with_reducible exact Still.refl _))

theorem State.placeLanded_steady (s : State) (l : Land) (p : Sys2Proof.Packet) (chk : Sys2Proof.Arrival) :
    ∀ out, State.placeLanded s l p chk = some out → Steady s out := by
  refine Steady.opt_some ?_
  unfold State.placeLanded
  repeat' (first
    | with_reducible assumption
    | with_reducible apply Steady.opt_map _ _ (fun _ => ?_)
    | with_reducible apply Steady.opt_map₂ _ _ (fun _ => ?_)
    | with_reducible apply Steady.opt₂_map _ _ (fun _ => ?_)
    | with_reducible exact Steady.refl _
    | (extract_lets +onlyGivenNames x
       subst x)
    | with_reducible apply Steady.trans _ (State.relayReplay_still ..).steady
    | with_reducible apply Steady.opt₂_trans _ (Steady.opt₂_of (State.takeReturn_steady _ _ _))
    | with_reducible apply Steady.opt₂_trans _ (Steady.opt₂_of (State.poolTake_steady _ _ _ _))
    | with_reducible apply Steady.trans _ (State.forward_still ..).steady
    | with_reducible apply Steady.trans _ (State.setLand_still ..).steady
    | split
    | with_reducible apply Steady.opt_none
    | with_reducible apply Steady.opt_intro)

theorem State.placeLanded_kept (s : State) (l : Land) (p : Sys2Proof.Packet) (chk : Sys2Proof.Arrival) :
    ∀ out, State.placeLanded s l p chk = some out → Kept s out := fun out h => (State.placeLanded_steady _ _ _ _ out h).kept

theorem pumpLand_steady (a0 : ℕ) (a1 : ℕ) (a2 : State) :
    Steady a2 (pumpLand a0 a1 a2) := by
  induction a0 generalizing a2 with
  | zero => exact (State.freeLand_still ..).steady
  | succ n ih =>
    unfold pumpLand
    split
    · exact Steady.refl _
    · split
      · exact (State.freeLand_still ..).steady
      · split
        · next u h =>
          have k := State.placeLanded_steady _ _ _ _ _ h
          split
          · exact k.trans ((State.setLand_still ..).steady.trans (ih _))
          · exact k
        · exact Steady.fields (Steady.refl a2) rfl ⟨rfl, rfl⟩

theorem State.landDone_still (s : State) (slot : ℕ) :
    Still s (State.landDone s slot) := by
  unfold State.landDone
  repeat' (first
    | with_reducible assumption
    | with_reducible exact Still.refl _
    | with_reducible apply Still.trans _ (State.freeLand_still ..)
    | with_reducible apply Still.trans _ (State.setLand_still ..)
    | split)

theorem State.landedAnswer_still (s : State) (h : BitVec 256) (st : ℕ) :
    Still s (State.landedAnswer s h st) := by
  unfold State.landedAnswer
  repeat' (first
    | with_reducible assumption
    | with_reducible exact Still.refl _
    | with_reducible apply Still.trans _ (State.setLand_still ..)
    | with_reducible apply Still.trans _ (State.landDone_still ..)
    | with_reducible apply Still.trans _ (State.relayReplay_still ..)
    | split
    | (with_reducible refine Still.fields ?_ rfl ⟨rfl, rfl⟩; first | with_reducible assumption | with_reducible exact Still.refl _))

theorem State.ownAnswer_steady (s : State) (h : BitVec 256) (st : ℕ) :
    Steady s (State.ownAnswer s h st) := by
  unfold State.ownAnswer
  repeat' (first
    | with_reducible assumption
    | with_reducible exact Steady.refl _
    | with_reducible apply Steady.trans _ (State.replayDispatch_steady ..)
    | with_reducible apply Steady.trans _ (State.ackDispatch_steady ..)
    | split)

theorem State.sealShared_still (s : State) (b : Bool) :
    Still s (State.sealShared s b) := by
  unfold State.sealShared
  repeat' (first
    | with_reducible assumption
    | with_reducible exact Still.refl _
    | (extract_lets +onlyGivenNames x
       first
       | (refine Still.via (t := x) ?side (fun hx => ?main); (case' side => subst x); (case' main => (clear_value x; revert x; intro _ _)))
       | subst x)
    | with_reducible apply Still.trans _ (State.setStep_still ..)
    | with_reducible apply Still.trans _ (State.setSlots_still ..)
    | with_reducible apply Still.trans _ (State.closeDue_still ..)
    | with_reducible apply Still.foldl _ _ _ (fun _ _ => ?_)
    | with_reducible apply Still.foldl₁ _ _ _ (fun _ _ => ?_)
    | with_reducible apply Still.foldl₂ _ _ _ (fun _ _ => ?_)
    | split)

end Sys2Proof.Machine
end

