-- ==== Sys2Proof/Laws/Kept/Bulks.lean ====
section
/-!
SUPPORT. What the operations of Machine/Bulks.lean keep (Safety.lean: Still, Steady, or Kept).
-/

namespace Sys2Proof.Machine

theorem execAggFlushAge_steady (rack : BitVec 9) (s : State) :
    ∃ t, execAggFlushAge rack s = .next t ∧ Steady s t := by
  unfold execAggFlushAge
  refine ⟨_, rfl, ?_⟩
  repeat' (first
    | with_reducible assumption
    | with_reducible exact Steady.refl _
    | with_reducible apply Steady.trans _ (State.flushAgg_steady ..)
    | split)

theorem State.keepReturns_still (s : State) (b : Bulk) :
    Still s (State.keepReturns s b) := by
  unfold State.keepReturns
  extract_lets new l
  exact Still.fields (.refl _) rfl ⟨rfl, rfl⟩

theorem execBulkAck_steady (rack : BitVec 9) (seq : BitVec 32) (s : State) :
    ∃ t, execBulkAck rack seq s = .next t ∧ Steady s t := by
  unfold execBulkAck
  refine ⟨_, rfl, ?_⟩
  repeat' (first
    | with_reducible assumption
    | with_reducible exact Steady.refl _
    | with_reducible apply Steady.trans _ (State.keepReturns_still ..).steady
    | with_reducible apply Steady.trans _ (State.farProgress_steady ..)
    | with_reducible apply Steady.trans _ (State.dropBulk_steady ..)
    | split)

theorem State.loseBulk_steady (s : State) (b : Bulk) :
    Steady s (State.loseBulk s b) := by
  unfold State.loseBulk
  repeat' (first
    | with_reducible assumption
    | with_reducible exact Steady.refl _
    | (extract_lets +onlyGivenNames x
       first
       | (refine Steady.via (t := x) ?side (fun hx => ?main); (case' side => subst x); (case' main => (clear_value x; revert x; intro _ _)))
       | subst x)
    | with_reducible apply Steady.trans _ (State.poisonPos_steady ..)
    | with_reducible apply Steady.trans _ (State.markSteps_steady ..)
    | with_reducible apply Steady.trans _ (State.noticeTo_steady ..)
    | with_reducible apply Steady.foldl _ _ _ (fun _ _ => ?_)
    | with_reducible apply Steady.foldl₁ _ _ _ (fun _ _ => ?_)
    | with_reducible apply Steady.foldl₂ _ _ _ (fun _ _ => ?_)
    | split)

theorem execBulkTimeout_steady (rack : BitVec 9) (seq : BitVec 32) (s : State) :
    ∃ t, execBulkTimeout rack seq s = .next t ∧ Steady s t := by
  unfold execBulkTimeout
  refine ⟨_, rfl, ?_⟩
  repeat' (first
    | with_reducible assumption
    | with_reducible exact Steady.refl _
    | with_reducible apply Steady.trans _ (State.emitBulk_still ..).steady
    | with_reducible apply Steady.trans _ (State.farProgress_steady ..)
    | with_reducible apply Steady.trans _ (State.loseBulk_steady ..)
    | with_reducible apply Steady.trans _ (State.dropBulk_steady ..)
    | split
    | (with_reducible refine Steady.fields ?_ rfl ⟨rfl, rfl⟩; first | with_reducible assumption | with_reducible exact Steady.refl _))

theorem execBulkArrival_steady (hdr : BitVec 512) (body : List Sys2Proof.Byte) (chks : List Sys2Proof.Arrival) (s : State) :
    ∃ t, execBulkArrival hdr body chks s = .next t ∧ Steady s t := by
  unfold execBulkArrival
  refine ⟨_, rfl, ?_⟩
  repeat' (first
    | with_reducible assumption
    | with_reducible exact Steady.refl _
    | (extract_lets +onlyGivenNames x
       first
       | (refine Steady.via (t := x) ?side (fun hx => ?main); (case' side => subst x); (case' main => (clear_value x; revert x; intro _ _)))
       | subst x)
    | with_reducible apply Steady.trans _ (State.emit_steady ..)
    | with_reducible apply Steady.trans _ (State.soot__still ..).steady
    | with_reducible apply Steady.trans _ (State.count_still ..).steady
    | with_reducible apply Steady.trans _ (State.writeMem_steady ..)
    | with_reducible apply Steady.trans _ (pumpLand_steady ..)
    | with_reducible apply Steady.foldl _ _ _ (fun _ _ => ?_)
    | with_reducible apply Steady.foldl₁ _ _ _ (fun _ _ => ?_)
    | with_reducible apply Steady.foldl₂ _ _ _ (fun _ _ => ?_)
    | split
    | with_reducible refine Steady.eq₁ (by with_reducible assumption) ?_
    | with_reducible refine Steady.eq₂ (by with_reducible assumption) ?_
    | with_reducible refine Steady.opt_eq (by with_reducible assumption) ?_
    | with_reducible refine Steady.opt₂_eq (by with_reducible assumption) ?_
    | dsimp -zeta only
    | with_reducible refine Steady.fields ?_ rfl ⟨rfl, rfl⟩)

end Sys2Proof.Machine
end

