-- ==== Sys2Proof/Laws/Kept/Damper.lean ====
section
/-!
SUPPORT. What the operations of Machine/Damper.lean keep (Safety.lean: Still, Steady, or Kept).
-/

namespace Sys2Proof.Machine

theorem State.markerPend_still (s : State) (b : Bool) (t : Step) (i : ℕ) (rank : ℕ) (final : Bool) (half : Bool) :
    Still s (State.markerPend s b t i rank final half).2 := by
  unfold State.markerPend
  repeat' (first
    | with_reducible assumption
    | with_reducible exact Still.refl _
    | with_reducible apply Still.trans _ (State.takeFree_still ..))

theorem State.joinPend_still (s : State) (ps : List Pend) :
    Still s (State.joinPend s ps) := by
  unfold State.joinPend
  repeat' (first
    | with_reducible assumption
    | with_reducible exact Still.refl _
    | split
    | (with_reducible refine Still.fields ?_ rfl ⟨rfl, rfl⟩; first | with_reducible assumption | with_reducible exact Still.refl _))

theorem State.holdPair_steady (s : State) (b : Bool) (t : Step) (e : ℕ) (slot : ℕ) :
    Steady s (State.holdPair s b t e slot) := by
  unfold State.holdPair
  repeat' (first
    | with_reducible assumption
    | with_reducible exact Steady.refl _
    | with_reducible apply Steady.trans _ (State.setDispCtx_still ..).steady
    | with_reducible apply Steady.trans _ (State.count_still ..).steady
    | with_reducible apply Steady.trans _ (State.setRstate_steady ..)
    | split)

theorem State.releaseFirst_steady (s : State) (b : Bool) (t : Step) (e : ℕ) (slot : ℕ) (lr : ℕ) :
    Steady s (State.releaseFirst s b t e slot lr) := by
  unfold State.releaseFirst
  repeat' (first
    | with_reducible assumption
    | with_reducible exact Steady.refl _
    | with_reducible apply Steady.trans _ (State.joinPend_still ..).steady
    | with_reducible apply Steady.trans _ (State.count_still ..).steady
    | with_reducible apply Steady.trans _ (State.setRstate_steady ..))

theorem State.releasePairs_steady (s : State) (b : Bool) (t : Step) (e : ℕ) (pairs : List (ℕ × ℕ × ℕ)) :
    Steady s (State.releasePairs s b t e pairs) := by
  unfold State.releasePairs
  repeat' (first
    | with_reducible assumption
    | with_reducible exact Steady.refl _
    | (extract_lets +onlyGivenNames x
       subst x)
    | with_reducible apply Steady.trans _ (State.releaseFirst_steady ..)
    | with_reducible apply Steady.trans _ (State.holdPair_steady ..)
    | with_reducible apply Steady.trans _ (State.toPeer_still ..).steady
    | with_reducible apply Steady.foldl _ _ _ (fun _ _ => ?_)
    | with_reducible apply Steady.foldl₁ _ _ _ (fun _ _ => ?_)
    | with_reducible apply Steady.foldl₂ _ _ _ (fun _ _ => ?_)
    | split)

theorem execCertaintyRequest_still (stepId : BitVec 32) (entry : BitVec 19) (pairs : List (BitVec 4 × BitVec 16 × ℕ)) (s : State) :
    ∃ t, execCertaintyRequest stepId entry pairs s = .next t ∧ Still s t := by
  unfold execCertaintyRequest
  refine ⟨_, rfl, ?_⟩
  repeat' (first
    | with_reducible assumption
    | with_reducible exact Still.refl _
    | with_reducible apply Still.trans _ (State.toPeer_still ..)
    | split)

theorem execCertaintyAnswer_steady (stepId : BitVec 32) (entry : BitVec 19) (flags : List (BitVec 4 × Bool)) (s : State) :
    ∃ t, execCertaintyAnswer stepId entry flags s = .next t ∧ Steady s t := by
  unfold execCertaintyAnswer
  refine ⟨_, rfl, ?_⟩
  repeat' (first
    | with_reducible assumption
    | with_reducible exact Steady.refl _
    | (extract_lets +onlyGivenNames x
       subst x)
    | with_reducible apply Steady.trans _ (State.holdPair_steady ..)
    | with_reducible apply Steady.foldl _ _ _ (fun _ _ => ?_)
    | with_reducible apply Steady.foldl₁ _ _ _ (fun _ _ => ?_)
    | with_reducible apply Steady.foldl₂ _ _ _ (fun _ _ => ?_)
    | split)

theorem State.gather_still (s : State) (d : Desc) (b : Bool) (e : ℕ) :
    Still s (State.gather s d b e) := by
  unfold State.gather
  repeat' (first
    | with_reducible assumption
    | with_reducible exact Still.refl _
    | with_reducible apply Still.trans _ (State.fetch_still ..)
    | split
    | (with_reducible refine Still.fields ?_ rfl ⟨rfl, rfl⟩; first | with_reducible assumption | with_reducible exact Still.refl _))

theorem execRowGatherComplete_steady (entry : BitVec 19) (s : State) :
    ∃ t, execRowGatherComplete entry s = .next t ∧ Steady s t := by
  unfold execRowGatherComplete
  refine ⟨_, rfl, ?_⟩
  repeat' (first
    | with_reducible assumption
    | with_reducible exact Steady.refl _
    | (extract_lets +onlyGivenNames x
       subst x)
    | with_reducible apply Steady.trans _ (State.countEnc_still ..).steady
    | with_reducible apply Steady.trans _ (State.writeMem_steady ..)
    | with_reducible apply Steady.trans _ (State.dropFetch_still ..).steady
    | with_reducible apply Steady.trans _ (State.setEntry_still ..).steady
    | with_reducible apply Steady.trans _ (State.joinPend_still ..).steady
    | with_reducible apply Steady.trans _ (State.dispatchProgress_steady ..)
    | with_reducible apply Steady.foldl _ _ _ (fun _ _ => ?_)
    | with_reducible apply Steady.foldl₁ _ _ _ (fun _ _ => ?_)
    | with_reducible apply Steady.foldl₂ _ _ _ (fun _ _ => ?_)
    | split
    | with_reducible refine Steady.eq₁ (by with_reducible assumption) ?_
    | with_reducible refine Steady.eq₂ (by with_reducible assumption) ?_
    | with_reducible refine Steady.opt_eq (by with_reducible assumption) ?_
    | with_reducible refine Steady.opt₂_eq (by with_reducible assumption) ?_
    | dsimp -zeta only
    | with_reducible refine Steady.fields ?_ rfl ⟨rfl, rfl⟩)

end Sys2Proof.Machine
end

