-- ==== Sys2Proof/Laws/Kept/Dictionary.lean ====
section
/-!
SUPPORT. What the operations of Machine/Dictionary.lean keep (Safety.lean: Still, Steady, or Kept).
-/

namespace Sys2Proof.Machine

theorem State.afterRead_still (s : State) (key : ℕ) :
    Still s (State.afterRead s key) := by
  unfold State.afterRead
  repeat' (first
    | with_reducible assumption
    | with_reducible exact Still.refl _
    | with_reducible apply Still.trans _ (State.setObj_still ..)
    | split)

theorem State.objectRead_still (s : State) (r : Sys2Proof.OdReq) :
    Still s (State.objectRead s r) := by
  unfold State.objectRead
  repeat' (first
    | with_reducible assumption
    | with_reducible exact Still.refl _
    | (extract_lets +onlyGivenNames x
       first
       | (refine Still.via (t := x) ?side (fun hx => ?main); (case' side => subst x); (case' main => (clear_value x; revert x; intro _ _)))
       | subst x)
    | with_reducible apply Still.trans _ (State.onRequest_still _ _ _ _ (fun _ => ?_))
    | with_reducible apply Still.trans _ (State.setPort_still ..)
    | with_reducible apply Still.trans _ (State.answer_still ..)
    | with_reducible apply Still.trans _ (State.afterRead_still ..)
    | split)

theorem State.segAnswer_still (s : State) (r : Sys2Proof.OdReq) (op : ℕ) (st : ℕ) (data : List Sys2Proof.Byte) :
    Still s (State.segAnswer s r op st data) := by
  unfold State.segAnswer
  extract_lets x
  have hx : Still s x := Still.cond (Still.refl s) (State.count_still ..)
  clear_value x
  split
  · exact hx.trans (State.respond_still ..)
  · refine hx.trans ⟨.ofForm (.ofForm rfl rfl rfl fun c => ⟨c.1, c.2.1, c.2.2.1, ?_, c.2.2.2.2⟩) rfl rfl rfl rfl rfl rfl rfl rfl, rfl, rfl⟩
    dsimp only
    split
    · exact c.2.2.2.1
    · exact Memory.write_wf c.2.2.2.1 _ _

theorem State.segRead_still (s : State) (r : Sys2Proof.OdReq) :
    Still s (State.segRead s r) := by
  unfold State.segRead
  repeat' (first
    | with_reducible assumption
    | with_reducible exact Still.refl _
    | with_reducible apply Still.trans _ (State.onRequest_still _ _ _ _ (fun _ => ?_))
    | with_reducible apply Still.trans _ (State.segAnswer_still ..))

theorem execSegRead_still (r : Sys2Proof.OdReq) (s : State) :
    ∃ t, execSegRead r s = .next t ∧ Still s t := by
  unfold execSegRead
  refine ⟨_, rfl, ?_⟩
  repeat' (first
    | with_reducible assumption
    | with_reducible exact Still.refl _
    | with_reducible apply Still.trans _ (State.segRead_still ..))

theorem State.stageSegment_steady (s : State) (r : Sys2Proof.OdReq) (op : ℕ) (ends : Bool) :
    Steady s (State.stageSegment s r op ends) := by
  unfold State.stageSegment
  repeat' (first
    | with_reducible assumption
    | with_reducible exact Steady.refl _
    | (extract_lets +onlyGivenNames x
       first
       | (refine Steady.via (t := x) ?side (fun hx => ?main); (case' side => subst x); (case' main => (clear_value x; revert x; intro _ _)))
       | subst x)
    | with_reducible apply Steady.trans _ (State.writeMem_steady ..)
    | with_reducible apply Steady.trans _ (State.takeDomain_steady ..)
    | with_reducible apply Steady.trans _ (State.segAnswer_still ..).steady
    | split
    | dsimp -zeta only
    | (with_reducible refine Steady.fields ?_ rfl ⟨rfl, rfl⟩; with_reducible assumption))

theorem State.afterLength_still (s : State) (r : Sys2Proof.OdReq) (ends : Bool) :
    Still s (State.afterLength s r ends) := by
  unfold State.afterLength
  repeat' (first
    | with_reducible assumption
    | with_reducible exact Still.refl _
    | with_reducible apply Still.trans _ (State.abandonXfer_still ..)
    | split
    | (with_reducible refine Still.fields ?_ rfl ⟨rfl, rfl⟩; first | with_reducible assumption | with_reducible exact Still.refl _))

theorem State.segWrite_steady (s : State) (r : Sys2Proof.OdReq) (op : ℕ) (ends : Bool) :
    Steady s (State.segWrite s r op ends) := by
  unfold State.segWrite
  repeat' (first
    | with_reducible assumption
    | with_reducible exact Steady.refl _
    | (extract_lets +onlyGivenNames x
       subst x)
    | with_reducible apply Steady.trans _ (State.onRequest_steady _ _ _ _ (fun _ => ?_))
    | with_reducible apply Steady.trans _ (State.segAnswer_still ..).steady
    | with_reducible apply Steady.trans _ (State.stageSegment_steady ..)
    | with_reducible apply Steady.trans _ (State.afterLength_still ..).steady
    | split
    | dsimp -zeta only
    | (with_reducible refine Steady.fields ?_ rfl ⟨rfl, rfl⟩; first | with_reducible assumption | with_reducible exact Steady.refl _))

theorem execSegWrite_steady (r : Sys2Proof.OdReq) (s : State) :
    ∃ t, execSegWrite r s = .next t ∧ Steady s t := by
  unfold execSegWrite
  refine ⟨_, rfl, ?_⟩
  repeat' (first
    | with_reducible assumption
    | with_reducible exact Steady.refl _
    | with_reducible apply Steady.trans _ (State.segWrite_steady ..))

theorem execSegWriteEnd_steady (r : Sys2Proof.OdReq) (s : State) :
    ∃ t, execSegWriteEnd r s = .next t ∧ Steady s t := by
  unfold execSegWriteEnd
  refine ⟨_, rfl, ?_⟩
  repeat' (first
    | with_reducible assumption
    | with_reducible exact Steady.refl _
    | with_reducible apply Steady.trans _ (State.segWrite_steady ..))

theorem execDomainTransferTimeout_still (s : State) :
    ∃ t, execDomainTransferTimeout s = .next t ∧ Still s t := by
  unfold execDomainTransferTimeout
  refine ⟨_, rfl, ?_⟩
  repeat' (first
    | with_reducible assumption
    | with_reducible exact Still.refl _
    | with_reducible apply Still.trans _ (State.abandonXfer_still ..)
    | split)

theorem execExpertWdigestWrite_steady (r : Sys2Proof.OdReq) (s : State) :
    ∃ t, execExpertWdigestWrite r s = .next t ∧ Steady s t := by
  unfold execExpertWdigestWrite
  refine ⟨_, rfl, ?_⟩
  repeat' (first
    | with_reducible assumption
    | with_reducible exact Steady.refl _
    | with_reducible apply Steady.trans _ (State.segWrite_steady ..)
    | split)

theorem State.unlock_still (path : Sys2Proof.Path) (v : ℕ) (s : State) :
    Still s (State.unlock path v s) := by
  unfold State.unlock
  repeat' (first
    | with_reducible assumption
    | with_reducible exact Still.refl _
    | (extract_lets +onlyGivenNames x
       first
       | (refine Still.via (t := x) ?side (fun hx => ?main); (case' side => subst x); (case' main => (clear_value x; revert x; intro _ _)))
       | subst x)
    | with_reducible apply Still.trans _ (State.count_still ..)
    | split
    | dsimp -zeta only
    | (with_reducible refine Still.fields ?_ rfl ⟨rfl, rfl⟩; with_reducible assumption))

theorem execExpertUnlock_still (path : Sys2Proof.Path) (tag : Sys2Proof.ReqTag) (v : BitVec 32) (s : State) :
    ∃ t, execExpertUnlock path tag v s = .next t ∧ Still s t := by
  unfold execExpertUnlock
  refine ⟨_, rfl, ?_⟩
  repeat' (first
    | with_reducible assumption
    | with_reducible exact Still.refl _
    | with_reducible apply Still.trans _ (odWrite_still _ _ _ _ (fun _ => ?_))
    | with_reducible apply Still.trans _ (State.unlock_still ..))

theorem State.ackAlerts_still (v : ℕ) (s : State) :
    Still s (State.ackAlerts v s) := by
  unfold State.ackAlerts
  repeat' (first
    | with_reducible assumption
    | with_reducible exact Still.refl _
    | with_reducible apply Still.trans _ (State.setObj_still ..))

theorem execAlertAck_still (path : Sys2Proof.Path) (tag : Sys2Proof.ReqTag) (v : BitVec 32) (s : State) :
    ∃ t, execAlertAck path tag v s = .next t ∧ Still s t := by
  unfold execAlertAck
  refine ⟨_, rfl, ?_⟩
  repeat' (first
    | with_reducible assumption
    | with_reducible exact Still.refl _
    | with_reducible apply Still.trans _ (odWrite_still _ _ _ _ (fun _ => ?_))
    | with_reducible apply Still.trans _ (State.ackAlerts_still ..))

theorem State.control_still (s : State) (inst : Sys2Proof.ReqTag) (cmd : ℕ) (cc : ℕ) (data : List Sys2Proof.Byte) :
    Still s (State.control s inst cmd cc data) := by
  unfold State.control
  repeat' (first
    | with_reducible assumption
    | with_reducible exact Still.refl _
    | with_reducible apply Still.trans _ (State.emit_still ..)
    | split)

theorem execSetEndpointId_still (inst : Sys2Proof.ReqTag) (op : Sys2Proof.Byte) (eid : Sys2Proof.Byte) (s : State) :
    ∃ t, execSetEndpointId inst op eid s = .next t ∧ Still s t := by
  unfold execSetEndpointId
  refine ⟨_, rfl, ?_⟩
  repeat' (first
    | with_reducible assumption
    | with_reducible exact Still.refl _
    | with_reducible apply Still.trans _ (State.control_still ..)
    | with_reducible apply Still.trans _ (State.setObj_still ..)
    | split)

theorem execGetEndpointId_still (inst : Sys2Proof.ReqTag) (s : State) :
    ∃ t, execGetEndpointId inst s = .next t ∧ Still s t := by
  unfold execGetEndpointId
  refine ⟨_, rfl, ?_⟩
  repeat' (first
    | with_reducible assumption
    | with_reducible exact Still.refl _
    | with_reducible apply Still.trans _ (State.control_still ..))

theorem execGetEndpointUuid_still (inst : Sys2Proof.ReqTag) (s : State) :
    ∃ t, execGetEndpointUuid inst s = .next t ∧ Still s t := by
  unfold execGetEndpointUuid
  refine ⟨_, rfl, ?_⟩
  repeat' (first
    | with_reducible assumption
    | with_reducible exact Still.refl _
    | with_reducible apply Still.trans _ (State.control_still ..))

theorem execGetMctpVersionSupport_still (inst : Sys2Proof.ReqTag) (msgType : Sys2Proof.Byte) (s : State) :
    ∃ t, execGetMctpVersionSupport inst msgType s = .next t ∧ Still s t := by
  unfold execGetMctpVersionSupport
  refine ⟨_, rfl, ?_⟩
  repeat' (first
    | with_reducible assumption
    | with_reducible exact Still.refl _
    | with_reducible apply Still.trans _ (State.control_still ..)
    | split)

theorem execGetMessageTypeSupport_still (inst : Sys2Proof.ReqTag) (s : State) :
    ∃ t, execGetMessageTypeSupport inst s = .next t ∧ Still s t := by
  unfold execGetMessageTypeSupport
  refine ⟨_, rfl, ?_⟩
  repeat' (first
    | with_reducible assumption
    | with_reducible exact Still.refl _
    | with_reducible apply Still.trans _ (State.control_still ..))

theorem execGetVendorDefinedMessageSupport_still (inst : Sys2Proof.ReqTag) (selector : Sys2Proof.Byte) (s : State) :
    ∃ t, execGetVendorDefinedMessageSupport inst selector s = .next t ∧ Still s t := by
  unfold execGetVendorDefinedMessageSupport
  refine ⟨_, rfl, ?_⟩
  repeat' (first
    | with_reducible assumption
    | with_reducible exact Still.refl _
    | with_reducible apply Still.trans _ (State.takeFree_still ..)
    | with_reducible apply Still.trans _ (State.control_still ..)
    | split)

theorem execErrorUnsupportedCmd_still (inst : Sys2Proof.ReqTag) (cmd : Sys2Proof.Byte) (s : State) :
    ∃ t, execErrorUnsupportedCmd inst cmd s = .next t ∧ Still s t := by
  unfold execErrorUnsupportedCmd
  refine ⟨_, rfl, ?_⟩
  repeat' (first
    | with_reducible assumption
    | with_reducible exact Still.refl _
    | with_reducible apply Still.trans _ (State.control_still ..))

theorem execDynamicAddressAssigned_still (addr : Sys2Proof.Byte) (s : State) :
    ∃ t, execDynamicAddressAssigned addr s = .next t ∧ Still s t := by
  unfold execDynamicAddressAssigned
  refine ⟨_, rfl, ?_⟩
  repeat' (first
    | with_reducible assumption
    | with_reducible exact Still.refl _
    | with_reducible apply Still.trans _ (State.setObj_still ..)
    | split)

end Sys2Proof.Machine
end

