-- ==== Sys2Proof/Laws/Kept/JobRows.lean ====
section
/-!
SUPPORT. What the operations of Machine/JobRows.lean keep (Safety.lean: Still, Steady, or Kept).
-/

namespace Sys2Proof.Machine

theorem State.transpose_steady (s : State) (j : LJob) (n : ℕ) :
    Steady s (State.transpose s j n) := by
  unfold State.transpose
  repeat' (first
    | with_reducible assumption
    | with_reducible exact Steady.refl _
    | (extract_lets +onlyGivenNames x
       first
       | (refine Steady.via (t := x) ?side (fun hx => ?main); (case' side => subst x); (case' main => (clear_value x; revert x; intro _ _)))
       | subst x)
    | with_reducible apply Steady.trans _ (State.writeMem_steady ..)
    | with_reducible apply Steady.foldl _ _ _ (fun _ _ => ?_)
    | with_reducible apply Steady.foldl₁ _ _ _ (fun _ _ => ?_)
    | with_reducible apply Steady.foldl₂ _ _ _ (fun _ _ => ?_)
    | split
    | with_reducible refine Steady.eq₁ (by with_reducible assumption) ?_
    | with_reducible refine Steady.eq₂ (by with_reducible assumption) ?_
    | with_reducible refine Steady.opt_eq (by with_reducible assumption) ?_
    | with_reducible refine Steady.opt₂_eq (by with_reducible assumption) ?_
    | dsimp -zeta only
    | with_reducible refine Steady.fields ?_ rfl ⟨rfl, rfl⟩)

theorem State.accumulateRow_still (s : State) (rem : Remote) (j : LJob) (r : ℕ) (t : ℕ) :
    Still s (State.accumulateRow s rem j r t).2 := by
  unfold State.accumulateRow
  repeat' (first
    | with_reducible assumption
    | with_reducible exact Still.refl _
    | with_reducible apply Still.trans _ (State.count_still ..)
    | with_reducible apply Still.trans _ (State.countEnc_still ..))

theorem State.convertRow_still (s : State) (rem : Remote) (j : LJob) (r : ℕ) :
    Still s (State.convertRow s rem j r).2 := by
  unfold State.convertRow
  repeat' (first
    | with_reducible assumption
    | with_reducible exact Still.refl _
    | (extract_lets +onlyGivenNames x
       subst x)
    | with_reducible apply Still.trans _ (State.count_still ..)
    | with_reducible apply Still.trans _ (State.countEnc_still ..)
    | split)

theorem State.fillRow_still (s : State) (j : LJob) :
    Still s (State.fillRow s j).2 := by
  unfold State.fillRow
  repeat' (first
    | with_reducible assumption
    | with_reducible exact Still.refl _
    | (extract_lets +onlyGivenNames x
       subst x)
    | with_reducible apply Still.trans _ (State.takeFree_still ..)
    | with_reducible apply Still.trans _ (State.countEnc_still ..)
    | split)

theorem putRow_steady (h : ℕ) (t : ℕ) (arrs : List (List Sys2Proof.Byte)) (x : State × Remote) :
    Steady x.1 (putRow h t arrs x).1 := by
  unfold putRow
  repeat' (first
    | with_reducible assumption
    | with_reducible exact Steady.refl _
    | with_reducible apply Steady.trans _ (State.storePieces_still ..).steady
    | with_reducible apply Steady.trans _ (State.writeOwn_steady ..))

theorem jobRow_steady (j : LJob) (x : State × Remote) (n : ℕ) :
    Steady x.1 (jobRow j x n).1 := by
  unfold jobRow
  obtain ⟨s, rem⟩ := x
  have row : ∀ (h t : Nat) (y : List (List Byte) × State), Steady s y.2 →
      Steady s (match y with | (bs, u) => putRow h t bs (u, rem)).1 := fun h t y k =>
    k.trans (putRow_steady h t y.1 (y.2, rem))
  have cond : ∀ (c : Prop) (d : Decidable c) (y z : List (List Byte) × State), Steady s y.2 → Steady s z.2 →
      Steady s (@ite _ c d y z).2 := fun c d y z hy hz => by split <;> assumption
  dsimp only
  split
  · exact (State.count_still ..).steady
  · refine row _ _ _ ?_
    split
    · exact cond _ _ _ _ (State.accumulateRow_still ..).steady (State.convertRow_still ..).steady
    · split
      · exact (State.count_still ..).steady.trans (State.fillRow_still ..).steady
      · exact (State.fillRow_still ..).steady

theorem State.jobRows_steady (s : State) (j : LJob) (rem : Remote) (n : ℕ) :
    Steady s (State.jobRows s j rem n) := by
  unfold State.jobRows
  repeat' (first
    | with_reducible assumption
    | with_reducible exact Steady.refl _
    | (extract_lets +onlyGivenNames x
       subst x)
    | with_reducible apply Steady.trans _ (State.transpose_steady ..)
    | with_reducible apply Steady.trans _ (jobRow_steady ..)
    | with_reducible apply Steady.foldl _ _ _ (fun _ _ => ?_)
    | with_reducible apply Steady.foldl₁ _ _ _ (fun _ _ => ?_)
    | with_reducible apply Steady.foldl₂ _ _ _ (fun _ _ => ?_)
    | split)

theorem State.spoilRows_steady (s : State) (j : LJob) (n : ℕ) (f : ℕ) :
    Steady s (State.spoilRows s j n f) := by
  unfold State.spoilRows
  repeat' (first
    | with_reducible assumption
    | with_reducible exact Steady.refl _
    | (extract_lets +onlyGivenNames x
       subst x)
    | with_reducible apply Steady.trans _ (State.writeMem_steady ..)
    | with_reducible apply Steady.trans _ (State.storePieces_still ..).steady
    | with_reducible apply Steady.trans _ (State.writeOwn_steady ..)
    | with_reducible apply Steady.foldl _ _ _ (fun _ _ => ?_)
    | with_reducible apply Steady.foldl₁ _ _ _ (fun _ _ => ?_)
    | with_reducible apply Steady.foldl₂ _ _ _ (fun _ _ => ?_)
    | split)

theorem State.runJob_steady (s : State) :
    Steady s (State.runJob s) := by
  unfold State.runJob
  repeat' (first
    | with_reducible assumption
    | with_reducible exact Steady.refl _
    | with_reducible apply Steady.trans _ (State.dropFetch_still ..).steady
    | with_reducible apply Steady.trans _ (State.jobRows_steady ..)
    | with_reducible apply Steady.trans _ (State.takeFree_steady ..)
    | with_reducible apply Steady.trans _ (State.spoilRows_steady ..)
    | split
    | (with_reducible refine Steady.fields ?_ rfl ⟨rfl, rfl⟩; first | with_reducible assumption | with_reducible exact Steady.refl _))

end Sys2Proof.Machine
end

