-- ==== Sys2Proof/Laws/Kept/Fabric.lean ====
section
/-!
SUPPORT. What the operations of Machine/Fabric.lean keep (Safety.lean: Still, Steady, or Kept).
-/

namespace Sys2Proof.Machine

theorem State.resendLater_still (s : State) (o : FabOp) :
    Still s (State.resendLater s o) := by
  unfold State.resendLater
  repeat' (first
    | with_reducible assumption
    | with_reducible exact Still.refl _
    | split
    | (with_reducible refine Still.fields ?_ rfl ⟨rfl, rfl⟩; first | with_reducible assumption | with_reducible exact Still.refl _))

theorem State.resendNow_still (s : State) (o : FabOp) :
    Still s (State.resendNow s o) := by
  unfold State.resendNow
  repeat' (first
    | with_reducible assumption
    | with_reducible exact Still.refl _
    | with_reducible apply Still.trans _ (State.request_still ..))

theorem State.breakServed_still (s : State) (x : Serve) (fab : Bool) (resend : Bool) :
    Still s (State.breakServed s x fab resend) := by
  unfold State.breakServed
  repeat' (first
    | with_reducible assumption
    | with_reducible exact Still.refl _
    | with_reducible apply Still.trans _ (State.breakLive_still ..)
    | with_reducible apply Still.trans _ (State.breakTiming_still ..)
    | split)

theorem State.collOpFailed_steady (s : State) (group : ℕ) (program : ℕ) (dst : ℕ) :
    Steady s (State.collOpFailed s group program dst) := by
  unfold State.collOpFailed
  repeat' (first
    | with_reducible assumption
    | with_reducible exact Steady.refl _
    | with_reducible apply Steady.trans _ (State.collFail_steady ..)
    | with_reducible apply Steady.trans _ (State.collRecord_still ..).steady
    | split)

theorem State.scanOpFailed_steady (s : State) (k : Key) (group : ℕ) (dst : ℕ) :
    Steady s (State.scanOpFailed s k group dst) := by
  unfold State.scanOpFailed
  repeat' (first
    | with_reducible assumption
    | with_reducible exact Steady.refl _
    | with_reducible apply Steady.trans _ (State.collRecord_still ..).steady
    | with_reducible apply Steady.trans _ (State.scanFail_steady ..)
    | split)

theorem State.jobFailed_still (s : State) :
    Still s (State.jobFailed s) := by
  unfold State.jobFailed
  repeat' (first
    | with_reducible assumption
    | with_reducible exact Still.refl _
    | split
    | (with_reducible refine Still.fields ?_ rfl ⟨rfl, rfl⟩; first | with_reducible assumption | with_reducible exact Still.refl _))

theorem State.jobReady_steady (s : State) :
    Steady s (State.jobReady s) := by
  unfold State.jobReady
  repeat' (first
    | with_reducible assumption
    | with_reducible exact Steady.refl _
    | with_reducible apply Steady.trans _ (State.runJob_steady ..)
    | split)

theorem State.loadFailed_steady (s : State) (use : FetchUse) (id : ℕ) (ev : SootEv) :
    Steady s (State.loadFailed s use id ev) := by
  unfold State.loadFailed
  repeat' (first
    | with_reducible assumption
    | with_reducible exact Steady.refl _
    | (extract_lets +onlyGivenNames x
       first
       | (refine Steady.via (t := x) ?side (fun hx => ?main); (case' side => subst x); (case' main => (clear_value x; revert x; intro _ _)))
       | subst x)
    | with_reducible apply Steady.trans _ (State.soot__still ..).steady
    | with_reducible apply Steady.trans _ (State.mark_steady ..)
    | with_reducible apply Steady.trans _ (State.dropFetch_still ..).steady
    | with_reducible apply Steady.trans _ (State.poisonToken_steady ..)
    | with_reducible apply Steady.trans _ (State.jobReady_steady ..)
    | with_reducible apply Steady.trans _ (State.takeLoad_still ..).steady
    | with_reducible apply Steady.trans _ (State.jobFailed_still ..).steady
    | split
    | dsimp -zeta only
    | (with_reducible refine Steady.fields ?_ rfl ⟨rfl, rfl⟩; with_reducible assumption))

theorem State.noticeFailed_steady (s : State) (k : Key) (ev : SootEv) :
    Steady s (State.noticeFailed s k ev) := by
  unfold State.noticeFailed
  repeat' (first
    | with_reducible assumption
    | with_reducible exact Steady.refl _
    | with_reducible apply Steady.trans _ (State.mark_steady ..)
    | with_reducible apply Steady.trans _ (State.soot__still ..).steady
    | split)

theorem State.serveFailed_steady (s : State) (o : FabOp) (ev : SootEv) :
    Steady s (State.serveFailed s o ev) := by
  unfold State.serveFailed
  repeat' (first
    | with_reducible assumption
    | with_reducible exact Steady.refl _
    | with_reducible apply Steady.trans _ (State.scanOpFailed_steady ..)
    | with_reducible apply Steady.trans _ (State.poisonPair_steady ..)
    | with_reducible apply Steady.trans _ (State.dropDispCtx_still ..).steady
    | with_reducible apply Steady.trans _ (State.soot__still ..).steady
    | with_reducible apply Steady.trans _ (State.failStep_steady ..)
    | with_reducible apply Steady.trans _ (State.dropSent_still ..).steady
    | with_reducible apply Steady.trans _ (State.poisonToken_steady ..)
    | with_reducible apply Steady.trans _ (State.dropFlueCtx_still ..).steady
    | with_reducible apply Steady.trans _ (State.mark_steady ..)
    | with_reducible apply Steady.trans _ (State.reduceDone_steady ..)
    | with_reducible apply Steady.trans _ (State.loadFailed_steady ..)
    | with_reducible apply Steady.trans _ (State.jobFailed_still ..).steady
    | with_reducible apply Steady.trans _ (State.collOpFailed_steady ..)
    | with_reducible apply Steady.trans _ (State.scanOpFailed_steady ..)
    | with_reducible apply Steady.trans _ (State.noticeFailed_steady ..)
    | with_reducible apply Steady.trans _ (State.landDone_still ..).steady
    | split
    | (with_reducible refine Steady.fields ?_ rfl ⟨rfl, rfl⟩; first | with_reducible assumption | with_reducible exact Steady.refl _))

theorem State.failFences_still (s : State) (o : FabOp) :
    Still s (State.failFences s o) := by
  unfold State.failFences
  repeat' (first
    | with_reducible assumption
    | with_reducible exact Still.refl _
    | split
    | (with_reducible refine Still.fields ?_ rfl ⟨rfl, rfl⟩; first | with_reducible assumption | with_reducible exact Still.refl _))

theorem State.declareUnknown_steady (s : State) (o : FabOp) :
    Steady s (State.declareUnknown s o) := by
  unfold State.declareUnknown
  repeat' (first
    | with_reducible assumption
    | with_reducible exact Steady.refl _
    | with_reducible apply Steady.trans _ (State.closeOp_still ..).steady
    | with_reducible apply Steady.trans _ (State.failFences_still ..).steady
    | with_reducible apply Steady.trans _ (State.count_still ..).steady
    | with_reducible apply Steady.trans _ (State.checkFences_steady ..)
    | with_reducible apply Steady.trans _ (State.serveFailed_steady ..))

theorem State.serveDone_steady (s : State) (o : FabOp) (data : List Sys2Proof.Byte) :
    Steady s (State.serveDone s o data) := by
  unfold State.serveDone
  repeat' (first
    | with_reducible assumption
    | with_reducible exact Steady.refl _
    | with_reducible apply Steady.trans _ (State.ackDispatch_steady ..)
    | with_reducible apply Steady.trans _ (State.dropSent_still ..).steady
    | with_reducible apply Steady.trans _ (State.finishHome_steady ..)
    | with_reducible apply Steady.trans _ (State.reduceDone_steady ..)
    | with_reducible apply Steady.trans _ (State.jobReady_steady ..)
    | with_reducible apply Steady.trans _ (State.takeLoad_still ..).steady
    | with_reducible apply Steady.trans _ (State.landDone_still ..).steady
    | split)

theorem State.serveReplay_steady (s : State) (o : FabOp) :
    Steady s (State.serveReplay s o) := by
  unfold State.serveReplay
  repeat' (first
    | with_reducible assumption
    | with_reducible exact Steady.refl _
    | (extract_lets +onlyGivenNames x
       subst x)
    | with_reducible apply Steady.trans _ (State.replayDispatch_steady ..)
    | with_reducible apply Steady.trans _ (State.replayReturn_steady ..)
    | with_reducible apply Steady.trans _ (State.landDone_still ..).steady
    | with_reducible apply Steady.trans _ (State.relayReplay_still ..).steady
    | with_reducible apply Steady.trans _ (State.resendNow_still ..).steady
    | with_reducible apply Steady.trans _ (State.breakServed_still ..).steady
    | split)

theorem State.serveBusy_still (s : State) (o : FabOp) :
    Still s (State.serveBusy s o) := by
  unfold State.serveBusy
  repeat' (first
    | with_reducible assumption
    | with_reducible exact Still.refl _
    | with_reducible apply Still.trans _ (State.busyDispatch_still ..)
    | with_reducible apply Still.trans _ (State.resendLater_still ..)
    | with_reducible apply Still.trans _ (State.breakServed_still ..)
    | split)

theorem State.completeOp_steady (s : State) (o : FabOp) (st : ℕ) (data : List Sys2Proof.Byte) :
    Steady s (State.completeOp s o st data) := by
  unfold State.completeOp
  repeat' (first
    | with_reducible assumption
    | with_reducible exact Steady.refl _
    | with_reducible apply Steady.trans _ (State.checkFences_steady ..)
    | with_reducible apply Steady.trans _ (State.serveDone_steady ..)
    | with_reducible apply Steady.trans _ (State.closeOp_still ..).steady
    | with_reducible apply Steady.trans _ (State.serveReplay_steady ..)
    | with_reducible apply Steady.trans _ (State.serveBusy_still ..).steady
    | with_reducible apply Steady.trans _ (State.declareUnknown_steady ..)
    | with_reducible apply Steady.trans _ (State.serveFailed_steady ..)
    | split)

theorem State.takeReply_steady (s : State) (h : BitVec 256) (data : List Sys2Proof.Byte) :
    Steady s (State.takeReply s h data) := by
  unfold State.takeReply
  repeat' (first
    | with_reducible assumption
    | with_reducible exact Steady.refl _
    | (extract_lets +onlyGivenNames x
       subst x)
    | with_reducible apply Steady.trans _ (State.count_still ..).steady
    | with_reducible apply Steady.trans _ (State.updateOp_still ..).steady
    | with_reducible apply Steady.trans _ (State.completeOp_steady ..)
    | split)

theorem State.packetAnswer_steady (s : State) (h : BitVec 256) (st : ℕ) :
    Steady s (State.packetAnswer s h st) := by
  unfold State.packetAnswer
  repeat' (first
    | with_reducible assumption
    | with_reducible exact Steady.refl _
    | with_reducible apply Steady.trans _ (State.replayReturn_steady ..)
    | with_reducible apply Steady.trans _ (State.dropSent_still ..).steady
    | with_reducible apply Steady.trans _ (State.landedAnswer_still ..).steady
    | with_reducible apply Steady.trans _ (State.replayDispatch_steady ..)
    | with_reducible apply Steady.trans _ (State.busyDispatch_still ..).steady
    | with_reducible apply Steady.trans _ (State.ackDispatch_steady ..)
    | split)

theorem State.resendFar_steady (s : State) (p : Sys2Proof.Packet) :
    Steady s (State.resendFar s p) := State.copyFar_steady ..

theorem State.replayKept_steady (s : State) (h : BitVec 256) :
    Steady s (State.replayKept s h) := by
  unfold State.replayKept
  repeat' (first
    | with_reducible assumption
    | with_reducible exact Steady.refl _
    | (extract_lets +onlyGivenNames x
       first
       | (refine Steady.via (t := x) ?side (fun hx => ?main); (case' side => subst x); (case' main => (clear_value x; revert x; intro _ _)))
       | subst x)
    | with_reducible apply Steady.trans _ (State.resendFar_steady ..)
    | with_reducible apply Steady.trans _ (State.count_still ..).steady
    | with_reducible apply Steady.trans _ (State.soot__still ..).steady
    | with_reducible apply Steady.trans _ (State.breakTiming_still ..).steady
    | split
    | dsimp -zeta only
    | with_reducible refine Steady.fields ?_ rfl ⟨rfl, rfl⟩)

theorem State.farReplay_steady (s : State) (h : BitVec 256) :
    Steady s (State.farReplay s h) := by
  unfold State.farReplay
  repeat' (first
    | with_reducible assumption
    | with_reducible exact Steady.refl _
    | with_reducible apply Steady.trans _ (State.replayKept_steady ..)
    | with_reducible apply Steady.trans _ (State.replayFar_steady ..)
    | with_reducible apply Steady.trans _ (State.replayReturn_steady ..)
    | with_reducible apply Steady.trans _ (State.copyFar_steady ..)
    | split)

theorem execReply_steady (via : Sys2Proof.ReplyVia) (s : State) :
    ∃ t, execReply via s = .next t ∧ Steady s t := by
  unfold execReply
  refine ⟨_, rfl, ?_⟩
  repeat' (first
    | with_reducible assumption
    | with_reducible exact Steady.refl _
    | with_reducible apply Steady.trans _ (State.takeReply_steady ..)
    | with_reducible apply Steady.trans _ (State.packetAnswer_steady ..)
    | with_reducible apply Steady.trans _ (State.farReplay_steady ..)
    | split)

theorem State.retryOn_still (s : State) (o : FabOp) (port : Bool) :
    Still s (State.retryOn s o port) := by
  unfold State.retryOn
  repeat' (first
    | with_reducible assumption
    | with_reducible exact Still.refl _
    | with_reducible apply Still.trans _ (State.nextAttempt_still ..)
    | with_reducible apply Still.trans _ (State.breakServed_still ..))

theorem State.retryWhere_steady (s : State) (p : FabOp → Bool) (port : Bool) :
    Steady s (State.retryWhere s p port) := by
  unfold State.retryWhere
  repeat' (first
    | with_reducible assumption
    | with_reducible exact Steady.refl _
    | with_reducible apply Steady.trans _ (State.countFlows_still ..).steady
    | (extract_lets +onlyGivenNames x
       first
       | (refine Steady.via (t := x) ?side (fun hx => ?main); (case' side => subst x); (case' main => (clear_value x; revert x; intro _ _)))
       | subst x)
    | with_reducible apply Steady.trans _ (State.retryOn_still ..).steady
    | with_reducible apply Steady.trans _ (State.declareUnknown_steady ..)
    | with_reducible apply Steady.foldl _ _ _ (fun _ _ => ?_)
    | with_reducible apply Steady.foldl₁ _ _ _ (fun _ _ => ?_)
    | with_reducible apply Steady.foldl₂ _ _ _ (fun _ _ => ?_)
    | split)

theorem execFabricRetryTimer_still (port : Bool) (tag : BitVec 10) (s : State) :
    ∃ t, execFabricRetryTimer port tag s = .next t ∧ Still s t := by
  unfold execFabricRetryTimer
  refine ⟨_, rfl, ?_⟩
  repeat' (first
    | with_reducible assumption
    | with_reducible exact Still.refl _
    | with_reducible apply Still.trans _ (State.countFlows_still ..)
    | with_reducible apply Still.trans _ (State.retryOn_still ..)
    | split)

theorem execFabricUnknown_steady (port : Bool) (tag : BitVec 10) (s : State) :
    ∃ t, execFabricUnknown port tag s = .next t ∧ Steady s t := by
  unfold execFabricUnknown
  refine ⟨_, rfl, ?_⟩
  repeat' (first
    | with_reducible assumption
    | with_reducible exact Steady.refl _
    | with_reducible apply Steady.trans _ (State.declareUnknown_steady ..)
    | split)

theorem execDrain_steady (port : Bool) (epoch : BitVec 4) (s : State) :
    ∃ t, execDrain port epoch s = .next t ∧ Steady s t := by
  unfold execDrain
  refine ⟨_, rfl, ?_⟩
  repeat' (first
    | with_reducible assumption
    | with_reducible exact Steady.refl _
    | with_reducible apply Steady.trans _ (State.retryWhere_steady ..)
    | split)

theorem State.setEpoch_still (s : State) (port : Bool) (epoch : ℕ) :
    Still s (State.setEpoch s port epoch) := by
  unfold State.setEpoch
  repeat' (first
    | with_reducible assumption
    | with_reducible exact Still.refl _
    | split
    | (with_reducible refine Still.fields ?_ rfl ⟨rfl, rfl⟩; first | with_reducible assumption | with_reducible exact Still.refl _))

theorem execRouteChange_steady (port : Bool) (epoch : BitVec 4) (s : State) :
    ∃ t, execRouteChange port epoch s = .next t ∧ Steady s t := by
  unfold execRouteChange
  refine ⟨_, rfl, ?_⟩
  repeat' (first
    | with_reducible assumption
    | with_reducible exact Steady.refl _
    | (extract_lets +onlyGivenNames x
       first
       | (refine Steady.via (t := x) ?side (fun hx => ?main); (case' side => subst x); (case' main => (clear_value x; revert x; intro _ _)))
       | subst x)
    | with_reducible apply Steady.trans _ (State.setEpoch_still ..).steady
    | with_reducible apply Steady.trans _ (State.count_still ..).steady
    | with_reducible apply Steady.trans _ (State.soot__still ..).steady
    | with_reducible apply Steady.trans _ (State.retryWhere_steady ..)
    | split)

theorem State.portDown_steady (s : State) (port : Bool) :
    Steady s (State.portDown s port) := by
  unfold State.portDown
  repeat' (first
    | with_reducible assumption
    | with_reducible exact Steady.refl _
    | (extract_lets +onlyGivenNames x
       first
       | (refine Steady.via (t := x) ?side (fun hx => ?main); (case' side => subst x); (case' main => (clear_value x; revert x; intro _ _)))
       | subst x)
    | with_reducible apply Steady.trans _ (State.retryWhere_steady ..)
    | split
    | dsimp -zeta only
    | (with_reducible refine Steady.fields ?_ rfl ⟨rfl, rfl⟩; first | with_reducible assumption | with_reducible exact Steady.refl _))

theorem execFabPortDown_steady (port : Bool) (s : State) :
    ∃ t, execFabPortDown port s = .next t ∧ Steady s t := by
  unfold execFabPortDown
  refine ⟨_, rfl, ?_⟩
  repeat' (first
    | with_reducible assumption
    | with_reducible exact Steady.refl _
    | with_reducible apply Steady.trans _ (State.portDown_steady ..)
    | with_reducible apply Steady.trans _ (State.soot__still ..).steady
    | split)

theorem State.clearCache_steady (s : State) :
    Steady s (State.clearCache s) := by
  unfold State.clearCache
  split
  · exact Steady.refl _
  · exact .ofForm (.clearMem _ _ rfl rfl rfl rfl rfl rfl rfl rfl) rfl rfl rfl rfl rfl rfl rfl rfl

theorem execFabricPortsUp_steady (epoch0 : Option (BitVec 4)) (epoch1 : Option (BitVec 4)) (gateUp : Bool) (s : State) :
    ∃ t, execFabricPortsUp epoch0 epoch1 gateUp s = .next t ∧ Steady s t := by
  unfold execFabricPortsUp
  refine ⟨_, rfl, ?_⟩
  repeat' (first
    | with_reducible assumption
    | with_reducible exact Steady.refl _
    | (extract_lets +onlyGivenNames x
       first
       | (refine Steady.via (t := x) ?side (fun hx => ?main); (case' side => subst x); (case' main => (clear_value x; revert x; intro _ _)))
       | subst x)
    | with_reducible apply Steady.trans _ (State.clearCache_steady ..)
    | with_reducible apply Steady.trans _ (State.pumpBulks_steady ..)
    | with_reducible apply Steady.trans _ (State.pumpFab_still ..).steady
    | split
    | dsimp -zeta only
    | (with_reducible refine Steady.fields ?_ rfl ⟨rfl, rfl⟩; with_reducible assumption))

theorem execFabricSendHoldEnd_still (s : State) :
    ∃ t, execFabricSendHoldEnd s = .next t ∧ Still s t := by
  unfold execFabricSendHoldEnd
  refine ⟨_, rfl, ?_⟩
  repeat' (first
    | with_reducible assumption
    | with_reducible exact Still.refl _
    | with_reducible apply Still.trans _ (State.pumpFab_still ..)
    | split
    | (with_reducible refine Still.fields ?_ rfl ⟨rfl, rfl⟩; first | with_reducible assumption | with_reducible exact Still.refl _))

end Sys2Proof.Machine
end

