-- ==== Sys2Proof/Laws/Kept/Loads.lean ====
section
/-!
SUPPORT. What the operations of Machine/Loads.lean keep (Safety.lean: Still, Steady, or Kept).
-/

namespace Sys2Proof.Machine

theorem State.applySeed_steady (s : State) (v : BitVec 64) :
    Steady s (State.applySeed s v) := by
  unfold State.applySeed
  repeat' (first
    | with_reducible assumption
    | with_reducible exact Steady.refl _
    | with_reducible apply Steady.trans _ (State.setObj_steady ..)
    | with_reducible apply Steady.trans _ (State.logFree_steady ..))

theorem State.supplySeed_steady (s : State) (v : BitVec 64) :
    Steady s (State.supplySeed s v) := by
  unfold State.supplySeed
  repeat' (first
    | with_reducible assumption
    | with_reducible exact Steady.refl _
    | with_reducible apply Steady.trans _ (State.orHold_steady _ _ _ _ (fun _ => ?_))
    | with_reducible apply Steady.trans _ (State.applySeed_steady ..)
    | split
    | (with_reducible refine Steady.fields ?_ rfl ⟨rfl, rfl⟩; first | with_reducible assumption | with_reducible exact Steady.refl _))

theorem State.logMask_steady (s : State) (m : Mask) :
    Steady s (State.logMask s m) := by
  unfold State.logMask
  repeat' (first
    | with_reducible assumption
    | with_reducible exact Steady.refl _
    | (extract_lets +onlyGivenNames x
       subst x)
    | with_reducible apply Steady.trans _ (State.logFree_steady ..)
    | with_reducible apply Steady.foldl _ _ _ (fun _ _ => ?_))

theorem State.takeMask_steady (s : State) (m : Mask) :
    Steady s (State.takeMask s m) := by
  unfold State.takeMask
  repeat' (first
    | with_reducible assumption
    | with_reducible exact Steady.refl _
    | (extract_lets +onlyGivenNames x
       first
       | (refine Steady.via (t := x) ?side (fun hx => ?main); (case' side => subst x); (case' main => (clear_value x; revert x; intro _ _)))
       | subst x)
    | with_reducible apply Steady.trans _ (State.logMask_steady ..)
    | split
    | dsimp -zeta only
    | (with_reducible refine Steady.fields ?_ rfl ⟨rfl, rfl⟩; with_reducible assumption))

theorem State.supplyMask_steady (s : State) (addr : ℕ) (len : ℕ) :
    Steady s (State.supplyMask s addr len) := by
  unfold State.supplyMask
  repeat' (first
    | with_reducible assumption
    | with_reducible exact Steady.refl _
    | with_reducible apply Steady.trans _ (State.orHold_steady _ _ _ _ (fun _ => ?_))
    | with_reducible apply Steady.trans _ (State.takeMask_steady ..)
    | split
    | (with_reducible refine Steady.fields ?_ rfl ⟨rfl, rfl⟩; first | with_reducible assumption | with_reducible exact Steady.refl _))

theorem State.noRecord_still (s : State) :
    Still s (State.noRecord s) := by
  unfold State.noRecord
  repeat' (first
    | with_reducible assumption
    | with_reducible exact Still.refl _
    | with_reducible apply Still.trans _ (State.diverge_still ..))

theorem State.startRload_still (s : State) (l : Load) :
    Still s (State.startRload s l) := by
  unfold State.startRload
  repeat' (first
    | with_reducible assumption
    | with_reducible exact Still.refl _
    | (extract_lets +onlyGivenNames x
       first
       | (refine Still.via (t := x) ?side (fun hx => ?main); (case' side => subst x); (case' main => (clear_value x; revert x; intro _ _)))
       | subst x)
    | with_reducible apply Still.trans _ (State.setObj_still ..)
    | split
    | dsimp -zeta only
    | (with_reducible refine Still.fields ?_ rfl ⟨rfl, rfl⟩; with_reducible assumption))

theorem State.rbankGo_still (v : ℕ) (s : State) :
    Still s (State.rbankGo v s) := by
  unfold State.rbankGo
  repeat' (first
    | with_reducible assumption
    | with_reducible exact Still.refl _
    | with_reducible apply Still.trans _ (State.startRload_still ..)
    | split
    | (with_reducible refine Still.fields ?_ rfl ⟨rfl, rfl⟩; first | with_reducible assumption | with_reducible exact Still.refl _))

theorem execRbankFullLoad_still (path : Sys2Proof.Path) (tag : Sys2Proof.ReqTag) (ctrl : Sys2Proof.Byte) (s : State) :
    ∃ t, execRbankFullLoad path tag ctrl s = .next t ∧ Still s t := by
  unfold execRbankFullLoad
  refine ⟨_, rfl, ?_⟩
  repeat' (first
    | with_reducible assumption
    | with_reducible exact Still.refl _
    | with_reducible apply Still.trans _ (odWrite_still _ _ _ _ (fun _ => ?_))
    | with_reducible apply Still.trans _ (State.rbankGo_still ..))

theorem execRbankHeaderLoad_still (path : Sys2Proof.Path) (tag : Sys2Proof.ReqTag) (ctrl : Sys2Proof.Byte) (s : State) :
    ∃ t, execRbankHeaderLoad path tag ctrl s = .next t ∧ Still s t := by
  unfold execRbankHeaderLoad
  refine ⟨_, rfl, ?_⟩
  repeat' (first
    | with_reducible assumption
    | with_reducible exact Still.refl _
    | with_reducible apply Still.trans _ (odWrite_still _ _ _ _ (fun _ => ?_))
    | with_reducible apply Still.trans _ (State.rbankGo_still ..))

theorem State.rloadEnded_steady (s : State) (l : Load) (payload : List Sys2Proof.Byte) :
    Steady s (State.rloadEnded s l payload) := by
  unfold State.rloadEnded
  repeat' (first
    | with_reducible assumption
    | with_reducible exact Steady.refl _
    | (extract_lets +onlyGivenNames x
       first
       | (refine Steady.via (t := x) ?side (fun hx => ?main); (case' side => subst x); (case' main => (clear_value x; revert x; intro _ _)))
       | subst x)
    | with_reducible apply Steady.trans _ (State.logFree_steady ..)
    | with_reducible apply Steady.trans _ (State.formWt_steady ..)
    | with_reducible apply Steady.trans _ (State.advance_still ..).steady
    | with_reducible apply Steady.trans _ (State.takeRec_still ..).steady
    | with_reducible apply Steady.trans _ (State.diverge_still ..).steady
    | with_reducible apply Steady.trans _ (State.noRecord_still ..).steady
    | split
    | dsimp -zeta only
    | (with_reducible refine Steady.fields ?_ rfl ⟨rfl, rfl⟩; with_reducible assumption))

theorem State.endFullLoad_steady (s : State) (l : Load) (unreadable : Bool) :
    Steady s (State.endFullLoad s l unreadable) := by
  unfold State.endFullLoad
  repeat' (first
    | with_reducible assumption
    | with_reducible exact Steady.refl _
    | (extract_lets +onlyGivenNames x
       first
       | (refine Steady.via (t := x) ?side (fun hx => ?main); (case' side => subst x); (case' main => (clear_value x; revert x; intro _ _)))
       | subst x)
    | with_reducible apply Steady.trans _ (State.setObj_steady ..)
    | with_reducible apply Steady.trans _ (State.rloadEnded_steady ..)
    | split
    | dsimp -zeta only
    | (with_reducible refine Steady.fields ?_ rfl ⟨rfl, rfl⟩; with_reducible assumption))

theorem State.endHeaderLoad_steady (s : State) (l : Load) (unreadable : Bool) :
    Steady s (State.endHeaderLoad s l unreadable) := by
  unfold State.endHeaderLoad
  repeat' (first
    | with_reducible assumption
    | with_reducible exact Steady.refl _
    | (extract_lets +onlyGivenNames x
       first
       | (refine Steady.via (t := x) ?side (fun hx => ?main); (case' side => subst x); (case' main => (clear_value x; revert x; intro _ _)))
       | subst x)
    | with_reducible apply Steady.trans _ (State.setObj_steady ..)
    | with_reducible apply Steady.trans _ (State.rloadEnded_steady ..)
    | with_reducible apply Steady.trans _ (State.soot__still ..).steady
    | split
    | dsimp -zeta only
    | (with_reducible refine Steady.fields ?_ rfl ⟨rfl, rfl⟩; with_reducible assumption))

theorem execRbankLoadDone_steady (unreadable : Bool) (s : State) :
    ∃ t, execRbankLoadDone unreadable s = .next t ∧ Steady s t := by
  unfold execRbankLoadDone
  refine ⟨_, rfl, ?_⟩
  repeat' (first
    | with_reducible assumption
    | with_reducible exact Steady.refl _
    | with_reducible apply Steady.trans _ (State.digestEnd_still ..).steady
    | with_reducible apply Steady.trans _ (State.endHeaderLoad_steady ..)
    | with_reducible apply Steady.trans _ (State.endFullLoad_steady ..)
    | split)

theorem execInputRbankLoad_steady (s : State) :
    ∃ t, execInputRbankLoad s = .next t ∧ Steady s t := by
  unfold execInputRbankLoad
  refine ⟨_, rfl, ?_⟩
  repeat' (first
    | with_reducible assumption
    | with_reducible exact Steady.refl _
    | (extract_lets +onlyGivenNames x
       first
       | (refine Steady.via (t := x) ?side (fun hx => ?main); (case' side => subst x); (case' main => (clear_value x; revert x; intro _ _)))
       | subst x)
    | with_reducible apply Steady.trans _ (State.startRload_still ..).steady
    | with_reducible apply Steady.trans _ (State.beginOp_still ..).steady
    | with_reducible apply Steady.trans _ (State.blockRewind_still ..).steady
    | with_reducible apply Steady.trans _ (State.advance_still ..).steady
    | with_reducible apply Steady.trans _ (State.takeWdigest_steady ..)
    | with_reducible apply Steady.trans _ (State.noRecord_still ..).steady
    | with_reducible apply Steady.trans _ (State.takeRec_still ..).steady
    | split
    | dsimp -zeta only
    | (with_reducible refine Steady.fields ?_ rfl ⟨rfl, rfl⟩; first | with_reducible assumption | with_reducible exact Steady.refl _))

theorem State.startFload_steady (s : State) (l : Load) :
    Steady s (State.startFload s l) := by
  unfold State.startFload
  repeat' (first
    | with_reducible assumption
    | with_reducible exact Steady.refl _
    | (extract_lets +onlyGivenNames x
       first
       | (refine Steady.via (t := x) ?side (fun hx => ?main); (case' side => subst x); (case' main => (clear_value x; revert x; intro _ _)))
       | subst x)
    | with_reducible apply Steady.trans _ (State.logFree_steady ..)
    | with_reducible apply Steady.trans _ (State.setObj_steady ..)
    | with_reducible apply Steady.foldl _ _ _ (fun _ _ => ?_)
    | with_reducible apply Steady.foldl₁ _ _ _ (fun _ _ => ?_)
    | with_reducible apply Steady.foldl₂ _ _ _ (fun _ _ => ?_)
    | split
    | with_reducible refine Steady.eq₁ (by with_reducible assumption) ?_
    | with_reducible refine Steady.eq₂ (by with_reducible assumption) ?_
    | with_reducible refine Steady.opt_eq (by with_reducible assumption) ?_
    | with_reducible refine Steady.opt₂_eq (by with_reducible assumption) ?_
    | dsimp -zeta only
    | with_reducible refine Steady.fields ?_ rfl ⟨rfl, rfl⟩)

theorem State.ftabGo_steady (v : ℕ) (s : State) :
    Steady s (State.ftabGo v s) := by
  unfold State.ftabGo
  repeat' (first
    | with_reducible assumption
    | with_reducible exact Steady.refl _
    | with_reducible apply Steady.trans _ (State.orHold_steady _ _ _ _ (fun _ => ?_))
    | with_reducible apply Steady.trans _ (State.startFload_steady ..)
    | split
    | (with_reducible refine Steady.fields ?_ rfl ⟨rfl, rfl⟩; first | with_reducible assumption | with_reducible exact Steady.refl _))

theorem execFtabLoad_steady (path : Sys2Proof.Path) (tag : Sys2Proof.ReqTag) (ctrl : Sys2Proof.Byte) (s : State) :
    ∃ t, execFtabLoad path tag ctrl s = .next t ∧ Steady s t := by
  unfold execFtabLoad
  refine ⟨_, rfl, ?_⟩
  repeat' (first
    | with_reducible assumption
    | with_reducible exact Steady.refl _
    | with_reducible apply Steady.trans _ (odWrite_steady _ _ _ _ (fun _ => ?_))
    | with_reducible apply Steady.trans _ (State.ftabGo_steady ..))

theorem State.endFload_steady (s : State) (l : Load) :
    Steady s (State.endFload s l) := by
  unfold State.endFload
  repeat' (first
    | with_reducible assumption
    | with_reducible exact Steady.refl _
    | (extract_lets +onlyGivenNames x
       first
       | (refine Steady.via (t := x) ?side (fun hx => ?main); (case' side => subst x); (case' main => (clear_value x; revert x; intro _ _)))
       | subst x)
    | with_reducible apply Steady.trans _ (State.setObj_steady ..)
    | with_reducible apply Steady.trans _ (State.formWt_steady ..)
    | with_reducible apply Steady.trans _ (State.advance_still ..).steady
    | with_reducible apply Steady.foldl _ _ _ (fun _ _ => ?_)
    | with_reducible apply Steady.foldl₁ _ _ _ (fun _ _ => ?_)
    | with_reducible apply Steady.foldl₂ _ _ _ (fun _ _ => ?_)
    | split
    | with_reducible refine Steady.eq₁ (by with_reducible assumption) ?_
    | with_reducible refine Steady.eq₂ (by with_reducible assumption) ?_
    | with_reducible refine Steady.opt_eq (by with_reducible assumption) ?_
    | with_reducible refine Steady.opt₂_eq (by with_reducible assumption) ?_
    | dsimp -zeta only
    | with_reducible refine Steady.fields ?_ rfl ⟨rfl, rfl⟩)

theorem execFtabLoadDone_steady (s : State) :
    ∃ t, execFtabLoadDone s = .next t ∧ Steady s t := by
  unfold execFtabLoadDone
  refine ⟨_, rfl, ?_⟩
  repeat' (first
    | with_reducible assumption
    | with_reducible exact Steady.refl _
    | with_reducible apply Steady.trans _ (State.digestEnd_still ..).steady
    | with_reducible apply Steady.trans _ (State.endFload_steady ..)
    | split)

theorem execInputFtabLoad_steady (s : State) :
    ∃ t, execInputFtabLoad s = .next t ∧ Steady s t := by
  unfold execInputFtabLoad
  refine ⟨_, rfl, ?_⟩
  repeat' (first
    | with_reducible assumption
    | with_reducible exact Steady.refl _
    | (extract_lets +onlyGivenNames x
       subst x)
    | with_reducible apply Steady.trans _ (State.startFload_steady ..)
    | with_reducible apply Steady.trans _ (State.beginOp_still ..).steady
    | with_reducible apply Steady.trans _ (State.blockRewind_still ..).steady
    | with_reducible apply Steady.trans _ (State.noRecord_still ..).steady
    | with_reducible apply Steady.trans _ (State.takeRec_still ..).steady
    | split
    | dsimp -zeta only
    | (with_reducible refine Steady.fields ?_ rfl ⟨rfl, rfl⟩; first | with_reducible assumption | with_reducible exact Steady.refl _))

theorem State.seedWrite_steady (v : ℕ) (s : State) :
    Steady s (State.seedWrite v s) := by
  unfold State.seedWrite
  repeat' (first
    | with_reducible assumption
    | with_reducible exact Steady.refl _
    | with_reducible apply Steady.trans _ (State.toPeer_still ..).steady
    | with_reducible apply Steady.trans _ (State.supplySeed_steady ..))

theorem execNoiseSeedWrite_steady (path : Sys2Proof.Path) (tag : Sys2Proof.ReqTag) (v : BitVec 64) (s : State) :
    ∃ t, execNoiseSeedWrite path tag v s = .next t ∧ Steady s t := by
  unfold execNoiseSeedWrite
  refine ⟨_, rfl, ?_⟩
  repeat' (first
    | with_reducible assumption
    | with_reducible exact Steady.refl _
    | with_reducible apply Steady.trans _ (odWrite_steady _ _ _ _ (fun _ => ?_))
    | with_reducible apply Steady.trans _ (State.seedWrite_steady ..))

theorem State.keepInputs_still (s : State) (seeds : List (BitVec 64)) (masks : List Mask) :
    Still s (State.keepInputs s seeds masks) := by
  unfold State.keepInputs
  repeat' (first
    | with_reducible assumption
    | with_reducible exact Still.refl _
    | with_reducible apply Still.trans _ (State.onStep_still ..))

theorem execInputSeed_steady (s : State) :
    ∃ t, execInputSeed s = .next t ∧ Steady s t := by
  unfold execInputSeed
  refine ⟨_, rfl, ?_⟩
  repeat' (first
    | with_reducible assumption
    | with_reducible exact Steady.refl _
    | with_reducible apply Steady.trans _ (State.advance_still ..).steady
    | with_reducible apply Steady.trans _ (State.keepInputs_still ..).steady
    | with_reducible apply Steady.trans _ (State.setObj_steady ..)
    | with_reducible apply Steady.trans _ (State.applySeed_steady ..)
    | with_reducible apply Steady.trans _ (State.takeRec_still ..).steady
    | with_reducible apply Steady.trans _ (State.noRecord_still ..).steady
    | split
    | (with_reducible refine Steady.fields ?_ rfl ⟨rfl, rfl⟩; first | with_reducible assumption | with_reducible exact Steady.refl _))

theorem State.skipGo_steady (v : ℕ) (s : State) :
    Steady s (State.skipGo v s) := by
  unfold State.skipGo
  repeat' (first
    | with_reducible assumption
    | with_reducible exact Steady.refl _
    | with_reducible apply Steady.trans _ (State.toPeer_still ..).steady
    | with_reducible apply Steady.trans _ (State.supplyMask_steady ..)
    | split)

theorem execSkipMaskGo_steady (path : Sys2Proof.Path) (tag : Sys2Proof.ReqTag) (ctrl : Sys2Proof.Byte) (s : State) :
    ∃ t, execSkipMaskGo path tag ctrl s = .next t ∧ Steady s t := by
  unfold execSkipMaskGo
  refine ⟨_, rfl, ?_⟩
  repeat' (first
    | with_reducible assumption
    | with_reducible exact Steady.refl _
    | with_reducible apply Steady.trans _ (odWrite_steady _ _ _ _ (fun _ => ?_))
    | with_reducible apply Steady.trans _ (State.skipGo_steady ..))

theorem execInputSkipMask_steady (s : State) :
    ∃ t, execInputSkipMask s = .next t ∧ Steady s t := by
  unfold execInputSkipMask
  refine ⟨_, rfl, ?_⟩
  repeat' (first
    | with_reducible assumption
    | with_reducible exact Steady.refl _
    | (extract_lets +onlyGivenNames x
       subst x)
    | with_reducible apply Steady.trans _ (State.advance_still ..).steady
    | with_reducible apply Steady.trans _ (State.keepInputs_still ..).steady
    | with_reducible apply Steady.trans _ (State.takeMask_steady ..)
    | with_reducible apply Steady.trans _ (State.noRecord_still ..).steady
    | with_reducible apply Steady.trans _ (State.takeRec_still ..).steady
    | with_reducible apply Steady.foldl _ _ _ (fun _ _ => ?_)
    | with_reducible apply Steady.foldl₁ _ _ _ (fun _ _ => ?_)
    | with_reducible apply Steady.foldl₂ _ _ _ (fun _ _ => ?_)
    | split
    | with_reducible refine Steady.eq₁ (by with_reducible assumption) ?_
    | with_reducible refine Steady.eq₂ (by with_reducible assumption) ?_
    | with_reducible refine Steady.opt_eq (by with_reducible assumption) ?_
    | with_reducible refine Steady.opt₂_eq (by with_reducible assumption) ?_
    | dsimp -zeta only
    | with_reducible refine Steady.fields ?_ rfl ⟨rfl, rfl⟩)

end Sys2Proof.Machine
end

