-- ==== Sys2Proof/Laws/Kept/Forward.lean ====
section
/-!
SUPPORT. What the operations of Machine/Forward.lean keep (Safety.lean: Still, Steady, or Kept).
-/

namespace Sys2Proof.Machine

theorem State.peerTimeout_steady (s : State) (stepId : BitVec 32) (batch : BitVec 12) :
    Steady s (State.peerTimeout s stepId batch) := by
  unfold State.peerTimeout
  repeat' (first
    | with_reducible assumption
    | with_reducible exact Steady.refl _
    | with_reducible apply Steady.trans _ (State.orHold_steady _ _ _ _ (fun _ => ?_))
    | with_reducible apply Steady.trans _ (State.timeoutOf_steady ..))

theorem execHostInputForward_steady (i : Sys2Proof.PeerInput) (s : State) :
    ∃ t, execHostInputForward i s = .next t ∧ Steady s t := by
  unfold execHostInputForward
  refine ⟨_, rfl, ?_⟩
  repeat' (first
    | with_reducible assumption
    | with_reducible exact Steady.refl _
    | with_reducible apply Steady.trans _ (State.supplyVerdict_steady ..)
    | with_reducible apply Steady.trans _ (State.peerTimeout_steady ..)
    | with_reducible apply Steady.trans _ (State.supplyCancel_steady ..)
    | with_reducible apply Steady.trans _ (State.supplySeed_steady ..)
    | with_reducible apply Steady.trans _ (State.supplyMask_steady ..)
    | split)

end Sys2Proof.Machine
end

