-- ==== Sys2Proof/Laws/Kept/Hearth.lean ====
section
/-!
SUPPORT. What the operations of Machine/Hearth.lean keep (Safety.lean: Still, Steady, or Kept).
-/

namespace Sys2Proof.Machine

theorem State.takeNotice_steady (s : State) (n : Sys2Proof.Notice) (chk : Sys2Proof.Arrival) :
    Steady s (State.takeNotice s n chk) := by
  unfold State.takeNotice
  repeat' (first
    | with_reducible assumption
    | with_reducible exact Steady.refl _
    | (extract_lets +onlyGivenNames x
       first
       | (refine Steady.via (t := x) ?side (fun hx => ?main); (case' side => subst x); (case' main => (clear_value x; revert x; intro _ _)))
       | subst x)
    | with_reducible apply Steady.trans _ (State.cancelStep_steady ..)
    | with_reducible apply Steady.trans _ (State.frontCancel_steady ..)
    | with_reducible apply Steady.trans _ (State.cancelPool_still ..).steady
    | with_reducible apply Steady.trans _ (State.pointerCheck_still ..).steady
    | split)

theorem execPoolStore_steady (via : Sys2Proof.PoolVia) (chk : Sys2Proof.Arrival) (s : State) :
    ∃ t, execPoolStore via chk s = .next t ∧ Steady s t := by
  unfold execPoolStore
  refine ⟨_, rfl, ?_⟩
  repeat' (first
    | with_reducible assumption
    | with_reducible exact Steady.refl _
    | (extract_lets +onlyGivenNames x
       first
       | (refine Steady.via (t := x) ?side (fun hx => ?main); (case' side => subst x); (case' main => (clear_value x; revert x; intro _ _)))
       | subst x)
    | with_reducible apply Steady.opt₂_trans _ (Steady.opt₂_of (State.poolTake_steady _ _ _ _))
    | with_reducible apply Steady.trans _ (State.ownAnswer_steady ..)
    | with_reducible apply Steady.trans _ (State.toPeer_still ..).steady
    | with_reducible apply Steady.trans _ (State.count_still ..).steady
    | with_reducible apply Steady.trans _ (State.accept_steady _ _ _ _ (fun _ => ?_))
    | with_reducible apply Steady.trans _ (State.exactlyOnce_steady _ _ _ _ (fun _ => ?_))
    | with_reducible apply Steady.trans _ (State.reply_still ..).steady
    | with_reducible apply Steady.trans _ (State.takeNotice_steady ..)
    | with_reducible apply Steady.foldl _ _ _ (fun _ _ => ?_)
    | with_reducible apply Steady.foldl₁ _ _ _ (fun _ _ => ?_)
    | with_reducible apply Steady.foldl₂ _ _ _ (fun _ _ => ?_)
    | split
    | with_reducible refine Steady.eq₁ (by with_reducible assumption) ?_
    | with_reducible refine Steady.eq₂ (by with_reducible assumption) ?_
    | with_reducible refine Steady.opt_eq (by with_reducible assumption) ?_
    | with_reducible refine Steady.opt₂_eq (by with_reducible assumption) ?_
    | dsimp -zeta only
    | with_reducible refine Steady.fields ?_ rfl ⟨rfl, rfl⟩)

theorem execCancelNotice_steady (n : Sys2Proof.Notice) (chk : Sys2Proof.Arrival) (s : State) :
    ∃ t, execCancelNotice n chk s = .next t ∧ Steady s t := by
  unfold execCancelNotice
  refine ⟨_, rfl, ?_⟩
  repeat' (first
    | with_reducible assumption
    | with_reducible exact Steady.refl _
    | with_reducible apply Steady.trans _ (State.takeNotice_steady ..)
    | split)

theorem State.admitWaiting_steady (s : State) (w : PoolFrom × Sys2Proof.Packet) (chk : Sys2Proof.Arrival) :
    ∀ out, State.admitWaiting s w chk = some out → Steady s out := by
  refine Steady.opt_some ?_
  unfold State.admitWaiting
  repeat' (first
    | with_reducible assumption
    | with_reducible apply Steady.opt_map _ _ (fun _ => ?_)
    | with_reducible apply Steady.opt_map₂ _ _ (fun _ => ?_)
    | with_reducible apply Steady.opt₂_map _ _ (fun _ => ?_)
    | with_reducible exact Steady.refl _
    | with_reducible apply Steady.trans _ (State.ownAnswer_steady ..)
    | with_reducible apply Steady.opt₂_trans _ (Steady.opt₂_of (State.poolTake_steady _ _ _ _))
    | with_reducible apply Steady.trans _ (pumpLand_steady ..)
    | with_reducible apply Steady.trans _ (State.setLand_still ..).steady
    | with_reducible apply Steady.opt_trans _ (Steady.opt_of (State.placeLanded_steady _ _ _ _))
    | split
    | with_reducible apply Steady.opt_none
    | with_reducible apply Steady.opt_intro)

theorem State.admitWaiting_kept (s : State) (w : PoolFrom × Sys2Proof.Packet) (chk : Sys2Proof.Arrival) :
    ∀ out, State.admitWaiting s w chk = some out → Kept s out := fun out h => (State.admitWaiting_steady _ _ _ out h).kept

theorem State.admitFirst_steady (s : State) (chk : Sys2Proof.Arrival) (a2 : List (PoolFrom × Sys2Proof.Packet)) :
    Steady s (State.admitFirst s chk a2) := by
  induction a2 generalizing s with
  | nil => exact Steady.refl _
  | cons w ws ih =>
    unfold State.admitFirst
    split
    · next t h =>
      refine Steady.trans ?_ (State.admitWaiting_steady _ _ _ _ h)
      exact Steady.fields (Steady.refl s) rfl ⟨rfl, rfl⟩
    · exact ih _

theorem execPoolWaitingPacketAdmit_steady (chk : Sys2Proof.Arrival) (s : State) :
    ∃ t, execPoolWaitingPacketAdmit chk s = .next t ∧ Steady s t := by
  unfold execPoolWaitingPacketAdmit
  refine ⟨_, rfl, ?_⟩
  repeat' (first
    | with_reducible assumption
    | with_reducible exact Steady.refl _
    | with_reducible apply Steady.trans _ (State.admitFirst_steady ..))

theorem State.resetList_steady (s : State) (q : ℕ) (c : ℕ) :
    Steady s (State.resetList s q c) := by
  unfold State.resetList
  repeat' (first
    | with_reducible assumption
    | with_reducible exact Steady.refl _
    | (extract_lets +onlyGivenNames x
       first
       | (refine Steady.via (t := x) ?side (fun hx => ?main); (case' side => subst x); (case' main => (clear_value x; revert x; intro _ _)))
       | subst x)
    | with_reducible apply Steady.trans _ (State.setPoolList_still ..).steady
    | with_reducible apply Steady.trans _ (State.giveCells_still ..).steady
    | with_reducible apply Steady.trans _ (State.count_still ..).steady
    | with_reducible apply Steady.trans _ (State.cancelSlot_still ..).steady
    | with_reducible apply Steady.trans _ (State.slotFaults_steady ..)
    | with_reducible apply Steady.foldl _ _ _ (fun _ _ => ?_)
    | with_reducible refine Steady.fields ?_ rfl ⟨rfl, rfl⟩)

theorem State.rebuildFree_still (s : State) :
    Still s (State.rebuildFree s) := by
  unfold State.rebuildFree
  repeat' (first
    | with_reducible assumption
    | with_reducible exact Still.refl _
    | with_reducible apply Still.trans _ (State.feedCloses_still ..)
    | with_reducible apply Still.trans _ (State.soot__still ..)
    | with_reducible apply Still.trans _ (State.count_still ..)
    | split
    | (with_reducible refine Still.fields ?_ rfl ⟨rfl, rfl⟩; first | with_reducible assumption | with_reducible exact Still.refl _))

theorem execQueueResetSweepDone_steady (s : State) :
    ∃ t, execQueueResetSweepDone s = .next t ∧ Steady s t := by
  unfold execQueueResetSweepDone
  refine ⟨_, rfl, ?_⟩
  repeat' (first
    | with_reducible assumption
    | with_reducible exact Steady.refl _
    | with_reducible apply Steady.trans _ (State.resetList_steady ..)
    | with_reducible apply Steady.trans _ (State.rebuildFree_still ..).steady
    | split
    | (with_reducible refine Steady.fields ?_ rfl ⟨rfl, rfl⟩; first | with_reducible assumption | with_reducible exact Steady.refl _))

theorem State.startDie_still (s : State) (port : ℕ) (c : ℕ) (q : ℕ) (m : Sending) :
    Still s (State.startDie s port c q m) := by
  unfold State.startDie
  repeat' (first
    | with_reducible assumption
    | with_reducible exact Still.refl _
    | with_reducible apply Still.trans _ (State.setDie_still ..))

theorem State.takeClose_still (s : State) (port : ℕ) (c : ℕ) (q : ℕ) (x : PClose) :
    Still s (State.takeClose s port c q x) := by
  unfold State.takeClose
  repeat' (first
    | with_reducible assumption
    | with_reducible exact Still.refl _
    | with_reducible apply Still.trans _ (State.setCloses_still ..)
    | with_reducible apply Still.trans _ (State.dropSlot_still ..)
    | with_reducible apply Still.trans _ (State.startDie_still ..)
    | split)

theorem State.takePacket_still (s : State) (port : ℕ) (c : ℕ) (q : ℕ) (p : PoolPkt) (chk : Sys2Proof.Arrival) :
    Still s (State.takePacket s port c q p chk) := by
  unfold State.takePacket
  repeat' (first
    | with_reducible assumption
    | with_reducible exact Still.refl _
    | with_reducible apply Still.trans _ (State.setPoolList_still ..)
    | with_reducible apply Still.trans _ (State.setCloses_still ..)
    | with_reducible apply Still.trans _ (State.pointerCheck_still ..)
    | with_reducible apply Still.trans _ (State.startDie_still ..))

theorem State.sendUnits_still (s : State) (port : ℕ) :
    Still s (State.sendUnits s port) := by
  unfold State.sendUnits
  repeat' (first
    | with_reducible assumption
    | with_reducible exact Still.refl _
    | (extract_lets +onlyGivenNames x
       first
       | (refine Still.via (t := x) ?side (fun hx => ?main); (case' side => subst x); (case' main => (clear_value x; revert x; intro _ _)))
       | subst x)
    | with_reducible apply Still.trans _ (State.setDie_still ..)
    | with_reducible apply Still.trans _ (State.onSlot_still ..)
    | with_reducible apply Still.trans _ (State.emit_still ..)
    | split)

theorem State.pickDie_still (s : State) (port : ℕ) (chk : Sys2Proof.Arrival) :
    Still s (State.pickDie s port chk) := by
  unfold State.pickDie
  repeat' (first
    | with_reducible assumption
    | with_reducible exact Still.refl _
    | with_reducible apply Still.trans _ (State.takeClose_still ..)
    | with_reducible apply Still.trans _ (State.takePacket_still ..)
    | split)

theorem execDieDeliveryTurn_still (port : BitVec 3) (chk : Sys2Proof.Arrival) (s : State) :
    ∃ t, execDieDeliveryTurn port chk s = .next t ∧ Still s t := by
  unfold execDieDeliveryTurn
  refine ⟨_, rfl, ?_⟩
  repeat' (first
    | with_reducible assumption
    | with_reducible exact Still.refl _
    | with_reducible apply Still.trans _ (State.sendUnits_still ..)
    | with_reducible apply Still.trans _ (State.pickDie_still ..)
    | split)

theorem execDieCreditReturn_still (port : BitVec 3) (chk : Sys2Proof.Arrival) (s : State) :
    ∃ t, execDieCreditReturn port chk s = .next t ∧ Still s t := by
  unfold execDieCreditReturn
  refine ⟨_, rfl, ?_⟩
  repeat' (first
    | with_reducible assumption
    | with_reducible exact Still.refl _
    | (extract_lets +onlyGivenNames x
       subst x)
    | with_reducible apply Still.trans _ (State.setDie_still ..)
    | with_reducible apply Still.trans _ (State.sendUnits_still ..)
    | with_reducible apply Still.trans _ (State.pointerCheck_still ..)
    | with_reducible apply Still.trans _ (State.giveCells_still ..)
    | split)

theorem State.dieOut_steady (s : State) (port : ℕ) (own : List Bool) (ev : SootEv) :
    Steady s (State.dieOut s port own ev) := by
  unfold State.dieOut
  extract_lets x xs firsts
  exact .trans (State.setDie_still ..).steady (State.slotFaults_steady ..)

theorem execDieStall_steady (port : BitVec 3) (s : State) :
    ∃ t, execDieStall port s = .next t ∧ Steady s t := by
  unfold execDieStall
  refine ⟨_, rfl, ?_⟩
  repeat' (first
    | with_reducible assumption
    | with_reducible exact Steady.refl _
    | with_reducible apply Steady.trans _ (State.dieOut_steady ..)
    | split)

end Sys2Proof.Machine
end

