-- ==== Sys2Proof/Laws/Kept/Inputs.lean ====
section
/-!
SUPPORT. What the operations of Machine/Inputs.lean keep (Safety.lean: Still, Steady, or Kept).
-/

namespace Sys2Proof.Machine

theorem State.beginPhase2_still (s : State) :
    Still s (State.beginPhase2 s) := by
  unfold State.beginPhase2
  repeat' (first
    | with_reducible assumption
    | with_reducible exact Still.refl _
    | (extract_lets +onlyGivenNames x
       first
       | (refine Still.via (t := x) ?side (fun hx => ?main); (case' side => subst x); (case' main => (clear_value x; revert x; intro _ _)))
       | subst x)
    | with_reducible apply Still.trans _ (State.fetch_still ..)
    | with_reducible apply Still.trans _ (State.dropFetch_still ..)
    | split
    | dsimp -zeta only
    | (with_reducible refine Still.fields ?_ rfl ⟨rfl, rfl⟩; with_reducible assumption))

theorem State.digestStart_still (v : ℕ) (s : State) :
    Still s (State.digestStart v s) := by
  unfold State.digestStart
  repeat' (first
    | with_reducible assumption
    | with_reducible exact Still.refl _
    | (extract_lets +onlyGivenNames x
       first
       | (refine Still.via (t := x) ?side (fun hx => ?main); (case' side => subst x); (case' main => (clear_value x; revert x; intro _ _)))
       | subst x)
    | with_reducible apply Still.trans _ (State.beginPhase2_still ..)
    | with_reducible apply Still.trans _ (State.dropFetch_still ..)
    | split
    | dsimp -zeta only
    | (with_reducible refine Still.fields ?_ rfl ⟨rfl, rfl⟩; first | with_reducible assumption | with_reducible exact Still.refl _))

theorem execDigestPhase1_still (path : Sys2Proof.Path) (tag : Sys2Proof.ReqTag) (s : State) :
    ∃ t, execDigestPhase1 path tag s = .next t ∧ Still s t := by
  unfold execDigestPhase1
  refine ⟨_, rfl, ?_⟩
  repeat' (first
    | with_reducible assumption
    | with_reducible exact Still.refl _
    | with_reducible apply Still.trans _ (odWrite_still _ _ _ _ (fun _ => ?_))
    | with_reducible apply Still.trans _ (State.digestStart_still ..))

theorem execDigestPhase2_still (path : Sys2Proof.Path) (tag : Sys2Proof.ReqTag) (s : State) :
    ∃ t, execDigestPhase2 path tag s = .next t ∧ Still s t := by
  unfold execDigestPhase2
  refine ⟨_, rfl, ?_⟩
  repeat' (first
    | with_reducible assumption
    | with_reducible exact Still.refl _
    | with_reducible apply Still.trans _ (odWrite_still _ _ _ _ (fun _ => ?_))
    | with_reducible apply Still.trans _ (State.digestStart_still ..))

theorem State.endPhase2_still (s : State) (readError : Bool) :
    Still s (State.endPhase2 s readError) := by
  unfold State.endPhase2
  repeat' (first
    | with_reducible assumption
    | with_reducible exact Still.refl _
    | (extract_lets +onlyGivenNames x
       first
       | (refine Still.via (t := x) ?side (fun hx => ?main); (case' side => subst x); (case' main => (clear_value x; revert x; intro _ _)))
       | subst x)
    | with_reducible apply Still.trans _ (State.dropFetch_still ..)
    | split
    | dsimp -zeta only
    | (with_reducible refine Still.fields ?_ rfl ⟨rfl, rfl⟩; with_reducible assumption))

theorem execDigestPhaseDone_steady (readError : Bool) (s : State) :
    ∃ t, execDigestPhaseDone readError s = .next t ∧ Steady s t := by
  unfold execDigestPhaseDone
  refine ⟨_, rfl, ?_⟩
  repeat' (first
    | with_reducible assumption
    | with_reducible exact Steady.refl _
    | (extract_lets +onlyGivenNames x
       first
       | (refine Steady.via (t := x) ?side (fun hx => ?main); (case' side => subst x); (case' main => (clear_value x; revert x; intro _ _)))
       | subst x)
    | with_reducible apply Steady.trans _ (State.formBlocks_steady ..)
    | with_reducible apply Steady.trans _ (State.digestEnd_still ..).steady
    | with_reducible apply Steady.trans _ (State.endPhase2_still ..).steady
    | split
    | dsimp -zeta only
    | (with_reducible refine Steady.fields ?_ rfl ⟨rfl, rfl⟩; with_reducible assumption))

end Sys2Proof.Machine
end

