-- ==== Sys2Proof/Laws/Kept/Program.lean ====
section
/-!
SUPPORT. What the operations of Machine/Program.lean keep (Safety.lean: Still, Steady, or Kept).
-/

namespace Sys2Proof.Machine

theorem State.pollStart_still (s : State) :
    Still s (State.pollStart s) := by
  unfold State.pollStart
  repeat' (first
    | with_reducible assumption
    | with_reducible exact Still.refl _
    | split
    | (with_reducible refine Still.fields ?_ rfl ⟨rfl, rfl⟩; first | with_reducible assumption | with_reducible exact Still.refl _))

theorem State.seqCmd_steady (cmd : ℕ) (s : State) :
    Steady s (State.seqCmd cmd s) := by
  unfold State.seqCmd
  repeat' (first
    | with_reducible assumption
    | with_reducible exact Steady.refl _
    | with_reducible apply Steady.trans _ (State.pollStart_still ..).steady
    | with_reducible apply Steady.trans _ (State.orHold_steady _ _ _ _ (fun _ => ?_))
    | with_reducible apply Steady.trans _ (State.pollBarrier_steady ..)
    | with_reducible apply Steady.trans _ (State.seqCommand_steady ..)
    | split
    | (with_reducible refine Steady.fields ?_ rfl ⟨rfl, rfl⟩; first | with_reducible assumption | with_reducible exact Steady.refl _))

theorem State.startCommitOf_still (s : State) (input : Bool) :
    Still s (State.startCommitOf s input) := by
  unfold State.startCommitOf
  repeat' (first
    | with_reducible assumption
    | with_reducible exact Still.refl _
    | split
    | (with_reducible refine Still.fields ?_ rfl ⟨rfl, rfl⟩; first | with_reducible assumption | with_reducible exact Still.refl _))

theorem State.placeGo_still (v : ℕ) (s : State) :
    Still s (State.placeGo v s) := by
  unfold State.placeGo
  repeat' (first
    | with_reducible assumption
    | with_reducible exact Still.refl _
    | with_reducible apply Still.trans _ (State.startCommitOf_still ..)
    | with_reducible apply Still.trans _ (State.setObj_still ..)
    | split
    | (with_reducible refine Still.fields ?_ rfl ⟨rfl, rfl⟩; first | with_reducible assumption | with_reducible exact Still.refl _))

theorem execStart_steady (path : Sys2Proof.Path) (tag : Sys2Proof.ReqTag) (s : State) :
    ∃ t, execStart path tag s = .next t ∧ Steady s t := by
  unfold execStart
  refine ⟨_, rfl, ?_⟩
  repeat' (first
    | with_reducible assumption
    | with_reducible exact Steady.refl _
    | with_reducible apply Steady.trans _ (odWrite_steady _ _ _ _ (fun _ => ?_))
    | with_reducible apply Steady.trans _ (State.seqCmd_steady ..))

theorem execSkip_steady (path : Sys2Proof.Path) (tag : Sys2Proof.ReqTag) (s : State) :
    ∃ t, execSkip path tag s = .next t ∧ Steady s t := by
  unfold execSkip
  refine ⟨_, rfl, ?_⟩
  repeat' (first
    | with_reducible assumption
    | with_reducible exact Steady.refl _
    | with_reducible apply Steady.trans _ (odWrite_steady _ _ _ _ (fun _ => ?_))
    | with_reducible apply Steady.trans _ (State.seqCmd_steady ..))

theorem execRetry_steady (path : Sys2Proof.Path) (tag : Sys2Proof.ReqTag) (s : State) :
    ∃ t, execRetry path tag s = .next t ∧ Steady s t := by
  unfold execRetry
  refine ⟨_, rfl, ?_⟩
  repeat' (first
    | with_reducible assumption
    | with_reducible exact Steady.refl _
    | with_reducible apply Steady.trans _ (odWrite_steady _ _ _ _ (fun _ => ?_))
    | with_reducible apply Steady.trans _ (State.seqCmd_steady ..))

theorem execAbort_steady (path : Sys2Proof.Path) (tag : Sys2Proof.ReqTag) (s : State) :
    ∃ t, execAbort path tag s = .next t ∧ Steady s t := by
  unfold execAbort
  refine ⟨_, rfl, ?_⟩
  repeat' (first
    | with_reducible assumption
    | with_reducible exact Steady.refl _
    | with_reducible apply Steady.trans _ (odWrite_steady _ _ _ _ (fun _ => ?_))
    | with_reducible apply Steady.trans _ (State.seqCmd_steady ..))

theorem State.startRun_kept (s : State) :
    Kept s (State.startRun s) := by
  unfold State.startRun
  repeat' (first
    | with_reducible assumption
    | with_reducible exact Kept.refl _
    | (extract_lets +onlyGivenNames x
       first
       | (refine Kept.via (t := x) ?side (fun hx => ?main); (case' side => subst x); (case' main => (clear_value x; revert x; intro _ _)))
       | subst x)
    | with_reducible apply Kept.trans _ (State.logFree_steady ..).kept
    | with_reducible apply Kept.trans _ (State.enter_kept ..)
    | with_reducible apply Kept.trans _ (State.setObj_kept ..)
    | with_reducible apply Kept.foldl _ _ _ (fun _ _ => ?_)
    | with_reducible apply Kept.foldl₁ _ _ _ (fun _ _ => ?_)
    | with_reducible apply Kept.foldl₂ _ _ _ (fun _ _ => ?_)
    | split
    | with_reducible refine Kept.eq₁ (by with_reducible assumption) ?_
    | with_reducible refine Kept.eq₂ (by with_reducible assumption) ?_
    | with_reducible refine Kept.opt_eq (by with_reducible assumption) ?_
    | with_reducible refine Kept.opt₂_eq (by with_reducible assumption) ?_
    | dsimp -zeta only
    | with_reducible refine Kept.fields ?_ rfl rfl)

theorem execStartChecksDone_kept (s : State) :
    ∃ t, execStartChecksDone s = .next t ∧ Kept s t := by
  unfold execStartChecksDone
  refine ⟨_, rfl, ?_⟩
  repeat' (first
    | with_reducible assumption
    | with_reducible exact Kept.refl _
    | (extract_lets +onlyGivenNames x
       first
       | (refine Kept.via (t := x) ?side (fun hx => ?main); (case' side => subst x); (case' main => (clear_value x; revert x; intro _ _)))
       | subst x)
    | with_reducible apply Kept.trans _ (State.digestEnd_still ..).kept
    | with_reducible apply Kept.trans _ (State.setObj_kept ..)
    | with_reducible apply Kept.trans _ (State.startRun_kept ..)
    | with_reducible apply Kept.foldl _ _ _ (fun _ _ => ?_)
    | with_reducible apply Kept.foldl₁ _ _ _ (fun _ _ => ?_)
    | with_reducible apply Kept.foldl₂ _ _ _ (fun _ _ => ?_)
    | split
    | with_reducible refine Kept.eq₁ (by with_reducible assumption) ?_
    | with_reducible refine Kept.eq₂ (by with_reducible assumption) ?_
    | with_reducible refine Kept.opt_eq (by with_reducible assumption) ?_
    | with_reducible refine Kept.opt₂_eq (by with_reducible assumption) ?_
    | dsimp -zeta only
    | with_reducible refine Kept.fields ?_ rfl rfl)

theorem execStep_steady (s : State) :
    ∃ t, execStep s = .next t ∧ Steady s t := by
  unfold execStep
  refine ⟨_, rfl, ?_⟩
  repeat' (first
    | with_reducible assumption
    | with_reducible exact Steady.refl _
    | (extract_lets +onlyGivenNames x
       first
       | (refine Steady.via (t := x) ?side (fun hx => ?main); (case' side => subst x); (case' main => (clear_value x; revert x; intro _ _)))
       | subst x)
    | with_reducible apply Steady.trans _ (State.reachStep_still ..).steady
    | with_reducible apply Steady.trans _ (State.pollBarrier_steady ..)
    | split
    | dsimp -zeta only
    | (with_reducible refine Steady.fields ?_ rfl ⟨rfl, rfl⟩; with_reducible assumption))

theorem execLoop_still (s : State) :
    ∃ t, execLoop s = .next t ∧ Still s t := by
  unfold execLoop
  refine ⟨_, rfl, ?_⟩
  repeat' (first
    | with_reducible assumption
    | with_reducible exact Still.refl _
    | (extract_lets +onlyGivenNames x
       subst x)
    | with_reducible apply Still.trans _ (State.goTo_still ..)
    | split)

theorem execMark_steady (s : State) :
    ∃ t, execMark s = .next t ∧ Steady s t := by
  unfold execMark
  refine ⟨_, rfl, ?_⟩
  repeat' (first
    | with_reducible assumption
    | with_reducible exact Steady.refl _
    | with_reducible apply Steady.trans _ (State.takeFree_steady ..)
    | with_reducible apply Steady.trans _ (State.advance_still ..).steady
    | with_reducible apply Steady.trans _ (State.postStatus_steady ..)
    | split)

theorem execHalt_steady (s : State) :
    ∃ t, execHalt s = .next t ∧ Steady s t := by
  unfold execHalt
  refine ⟨_, rfl, ?_⟩
  repeat' (first
    | with_reducible assumption
    | with_reducible exact Steady.refl _
    | with_reducible apply Steady.trans _ (State.unmetCommand_still ..).steady
    | with_reducible apply Steady.trans _ (State.endSchedule_steady ..)
    | split)

theorem execHaltRetired_kept (s : State) :
    ∃ t, execHaltRetired s = .next t ∧ Kept s t := by
  unfold execHaltRetired
  refine ⟨_, rfl, ?_⟩
  repeat' (first
    | with_reducible assumption
    | with_reducible exact Kept.refl _
    | (extract_lets +onlyGivenNames x
       first
       | (refine Kept.via (t := x) ?side (fun hx => ?main); (case' side => subst x); (case' main => (clear_value x; revert x; intro _ _)))
       | subst x)
    | with_reducible apply Kept.trans _ (State.stopSeq_still ..).kept
    | with_reducible apply Kept.trans _ (State.leaveRunning_still ..).kept
    | with_reducible apply Kept.trans _ (State.endReplay_still ..).kept
    | with_reducible apply Kept.trans _ (State.enter_kept ..)
    | split)

theorem State.collAt_still (s : State) (start : ℕ → State → State) (hstart : ∀ x0 x1, Still x1 (start x0 x1)) :
    Still s (State.collAt s start) := by
  unfold State.collAt
  repeat' (first
    | with_reducible assumption
    | with_reducible exact Still.refl _
    | (extract_lets +onlyGivenNames x
       first
       | (refine Still.via (t := x) ?side (fun hx => ?main); (case' side => subst x); (case' main => (clear_value x; revert x; intro _ _)))
       | subst x)
    | with_reducible apply Still.trans _ (State.blockRewind_still ..)
    | with_reducible apply Still.trans _ (State.advance_still ..)
    | with_reducible apply Still.trans _ (State.beginOp_still ..)
    | split
    | dsimp -zeta only
    | with_reducible apply Still.trans _ (hstart ..))

theorem State.collAt_steady (s : State) (start : ℕ → State → State) (hstart : ∀ x0 x1, Steady x1 (start x0 x1)) :
    Steady s (State.collAt s start) := by
  unfold State.collAt
  repeat' (first
    | with_reducible assumption
    | with_reducible exact Steady.refl _
    | (extract_lets +onlyGivenNames x
       first
       | (refine Steady.via (t := x) ?side (fun hx => ?main); (case' side => subst x); (case' main => (clear_value x; revert x; intro _ _)))
       | subst x)
    | with_reducible apply Steady.trans _ (State.blockRewind_still ..).steady
    | with_reducible apply Steady.trans _ (State.advance_still ..).steady
    | with_reducible apply Steady.trans _ (State.beginOp_still ..).steady
    | split
    | dsimp -zeta only
    | with_reducible apply Steady.trans _ (hstart ..))

theorem State.collAt_kept (s : State) (start : ℕ → State → State) (hstart : ∀ x0 x1, Kept x1 (start x0 x1)) :
    Kept s (State.collAt s start) := by
  unfold State.collAt
  repeat' (first
    | with_reducible assumption
    | with_reducible exact Kept.refl _
    | (extract_lets +onlyGivenNames x
       first
       | (refine Kept.via (t := x) ?side (fun hx => ?main); (case' side => subst x); (case' main => (clear_value x; revert x; intro _ _)))
       | subst x)
    | with_reducible apply Kept.trans _ (State.blockRewind_still ..).kept
    | with_reducible apply Kept.trans _ (State.advance_still ..).kept
    | with_reducible apply Kept.trans _ (State.beginOp_still ..).kept
    | split
    | dsimp -zeta only
    | with_reducible apply Kept.trans _ (hstart ..))

theorem execCollBarrier_steady (s : State) :
    ∃ t, execCollBarrier s = .next t ∧ Steady s t := by
  unfold execCollBarrier
  refine ⟨_, rfl, ?_⟩
  repeat' (first
    | with_reducible assumption
    | with_reducible exact Steady.refl _
    | with_reducible apply Steady.trans _ (State.collAt_steady _ _ (fun _ _ => ?_))
    | with_reducible apply Steady.trans _ (State.collBegin_steady ..)
    | split)

theorem execCollFusedBarrier_steady (s : State) :
    ∃ t, execCollFusedBarrier s = .next t ∧ Steady s t := by
  unfold execCollFusedBarrier
  refine ⟨_, rfl, ?_⟩
  repeat' (first
    | with_reducible assumption
    | with_reducible exact Steady.refl _
    | (extract_lets +onlyGivenNames x
       first
       | (refine Steady.via (t := x) ?side (fun hx => ?main); (case' side => subst x); (case' main => (clear_value x; revert x; intro _ _)))
       | subst x)
    | with_reducible apply Steady.trans _ (State.collAt_steady _ _ (fun _ _ => ?_))
    | with_reducible apply Steady.trans _ (State.collBegin_steady ..)
    | with_reducible apply Steady.trans _ (State.advance_still ..).steady
    | split
    | dsimp -zeta only
    | (with_reducible refine Steady.fields ?_ rfl ⟨rfl, rfl⟩; first | with_reducible assumption | with_reducible exact Steady.refl _))

theorem execCollStats_still (s : State) :
    ∃ t, execCollStats s = .next t ∧ Still s t := by
  unfold execCollStats
  refine ⟨_, rfl, ?_⟩
  repeat' (first
    | with_reducible assumption
    | with_reducible exact Still.refl _
    | with_reducible apply Still.trans _ (State.collAt_still _ _ (fun _ _ => ?_))
    | split)

theorem execStatsBegin_steady (s : State) :
    ∃ t, execStatsBegin s = .next t ∧ Steady s t := by
  unfold execStatsBegin
  refine ⟨_, rfl, ?_⟩
  repeat' (first
    | with_reducible assumption
    | with_reducible exact Steady.refl _
    | with_reducible apply Steady.trans _ (State.releaseBoth_steady ..)
    | with_reducible apply Steady.trans _ (State.writeMem_steady ..)
    | with_reducible apply Steady.trans _ (State.collBegin_steady ..)
    | split)

theorem execCollRouteGather_steady (s : State) :
    ∃ t, execCollRouteGather s = .next t ∧ Steady s t := by
  unfold execCollRouteGather
  refine ⟨_, rfl, ?_⟩
  repeat' (first
    | with_reducible assumption
    | with_reducible exact Steady.refl _
    | with_reducible apply Steady.trans _ (State.collAt_steady _ _ (fun _ _ => ?_))
    | with_reducible apply Steady.trans _ (State.collBegin_steady ..)
    | split)

theorem execCollRouteRestore_steady (s : State) :
    ∃ t, execCollRouteRestore s = .next t ∧ Steady s t := by
  unfold execCollRouteRestore
  refine ⟨_, rfl, ?_⟩
  repeat' (first
    | with_reducible assumption
    | with_reducible exact Steady.refl _
    | with_reducible apply Steady.trans _ (State.collAt_steady _ _ (fun _ _ => ?_))
    | with_reducible apply Steady.trans _ (State.collBegin_steady ..)
    | split)

theorem execPlaceGo_still (path : Sys2Proof.Path) (tag : Sys2Proof.ReqTag) (ctrl : Sys2Proof.Byte) (s : State) :
    ∃ t, execPlaceGo path tag ctrl s = .next t ∧ Still s t := by
  unfold execPlaceGo
  refine ⟨_, rfl, ?_⟩
  repeat' (first
    | with_reducible assumption
    | with_reducible exact Still.refl _
    | with_reducible apply Still.trans _ (odWrite_still _ _ _ _ (fun _ => ?_))
    | with_reducible apply Still.trans _ (State.placeGo_still ..))

theorem execInputPlacementCommit_still (s : State) :
    ∃ t, execInputPlacementCommit s = .next t ∧ Still s t := by
  unfold execInputPlacementCommit
  refine ⟨_, rfl, ?_⟩
  repeat' (first
    | with_reducible assumption
    | with_reducible exact Still.refl _
    | with_reducible apply Still.trans _ (State.startCommitOf_still ..)
    | with_reducible apply Still.trans _ (State.setObj_still ..)
    | with_reducible apply Still.trans _ (State.beginOp_still ..)
    | with_reducible apply Still.trans _ (State.blockRewind_still ..)
    | with_reducible apply Still.trans _ (State.noRecord_still ..)
    | split
    | (with_reducible refine Still.fields ?_ rfl ⟨rfl, rfl⟩; first | with_reducible assumption | with_reducible exact Still.refl _))

theorem execPlaceCommitBegin_steady (s : State) :
    ∃ t, execPlaceCommitBegin s = .next t ∧ Steady s t := by
  unfold execPlaceCommitBegin
  refine ⟨_, rfl, ?_⟩
  repeat' (first
    | with_reducible assumption
    | with_reducible exact Steady.refl _
    | (extract_lets +onlyGivenNames x
       first
       | (refine Steady.via (t := x) ?side (fun hx => ?main); (case' side => subst x); (case' main => (clear_value x; revert x; intro _ _)))
       | subst x)
    | with_reducible apply Steady.trans _ (State.loadPlacement_still ..).steady
    | with_reducible apply Steady.trans _ (State.setObj_steady ..)
    | with_reducible apply Steady.trans _ (State.collBegin_steady ..)
    | with_reducible apply Steady.trans _ (State.decide__steady ..)
    | with_reducible apply Steady.trans _ (State.collRecord_still ..).steady
    | split
    | dsimp -zeta only
    | (with_reducible refine Steady.fields ?_ rfl ⟨rfl, rfl⟩; with_reducible assumption))

theorem execPlaceDecision_steady (commit : Bool) (s : State) :
    ∃ t, execPlaceDecision commit s = .next t ∧ Steady s t := by
  unfold execPlaceDecision
  refine ⟨_, rfl, ?_⟩
  repeat' (first
    | with_reducible assumption
    | with_reducible exact Steady.refl _
    | with_reducible apply Steady.trans _ (State.pollStartGroup_steady ..)
    | with_reducible apply Steady.trans _ (State.collDown_steady ..)
    | split)

theorem execBarrierArrival_steady (src : Sys2Proof.ArrivalFrom) (s : State) :
    ∃ t, execBarrierArrival src s = .next t ∧ Steady s t := by
  unfold execBarrierArrival
  refine ⟨_, rfl, ?_⟩
  repeat' (first
    | with_reducible assumption
    | with_reducible exact Steady.refl _
    | with_reducible apply Steady.trans _ (State.pollBarrier_steady ..)
    | split
    | (with_reducible refine Steady.fields ?_ rfl ⟨rfl, rfl⟩; first | with_reducible assumption | with_reducible exact Steady.refl _))

theorem execStartBarrierRelease_still (s : State) :
    ∃ t, execStartBarrierRelease s = .next t ∧ Still s t := by
  unfold execStartBarrierRelease
  refine ⟨_, rfl, ?_⟩
  repeat' (first
    | with_reducible assumption
    | with_reducible exact Still.refl _
    | with_reducible apply Still.trans _ (State.pollPulse_still ..)
    | split
    | (with_reducible refine Still.fields ?_ rfl ⟨rfl, rfl⟩; first | with_reducible assumption | with_reducible exact Still.refl _))

theorem execStepStartPulse_kept (high : ℕ) (ownDriven : Bool) (s : State) :
    ∃ t, execStepStartPulse high ownDriven s = .next t ∧ Kept s t := by
  unfold execStepStartPulse
  refine ⟨_, rfl, ?_⟩
  repeat' (first
    | with_reducible assumption
    | with_reducible exact Kept.refl _
    | (extract_lets +onlyGivenNames x
       first
       | (refine Kept.via (t := x) ?side (fun hx => ?main); (case' side => subst x); (case' main => (clear_value x; revert x; intro _ _)))
       | subst x)
    | with_reducible apply Kept.trans _ (State.syncPulse_kept ..)
    | with_reducible apply Kept.trans _ (State.count_still ..).kept
    | with_reducible apply Kept.trans _ (State.trayFault_kept ..)
    | with_reducible apply Kept.foldl _ _ _ (fun _ _ => ?_)
    | with_reducible apply Kept.foldl₁ _ _ _ (fun _ _ => ?_)
    | with_reducible apply Kept.foldl₂ _ _ _ (fun _ _ => ?_)
    | split
    | with_reducible refine Kept.eq₁ (by with_reducible assumption) ?_
    | with_reducible refine Kept.eq₂ (by with_reducible assumption) ?_
    | with_reducible refine Kept.opt_eq (by with_reducible assumption) ?_
    | with_reducible refine Kept.opt₂_eq (by with_reducible assumption) ?_
    | dsimp -zeta only
    | with_reducible refine Kept.fields ?_ rfl rfl)

theorem execRerunNotice_steady (stepId : BitVec 32) (batch : BitVec 12) (code : Sys2Proof.Byte) (origin : BitVec 17) (s : State) :
    ∃ t, execRerunNotice stepId batch code origin s = .next t ∧ Steady s t := by
  unfold execRerunNotice
  refine ⟨_, rfl, ?_⟩
  repeat' (first
    | with_reducible assumption
    | with_reducible exact Steady.refl _
    | with_reducible apply Steady.trans _ (State.markWith_steady ..)
    | split)

theorem execRewind_steady (s : State) :
    ∃ t, execRewind s = .next t ∧ Steady s t := by
  unfold execRewind
  refine ⟨_, rfl, ?_⟩
  repeat' (first
    | with_reducible assumption
    | with_reducible exact Steady.refl _
    | (extract_lets +onlyGivenNames x
       first
       | (refine Steady.via (t := x) ?side (fun hx => ?main); (case' side => subst x); (case' main => (clear_value x; revert x; intro _ _)))
       | subst x)
    | with_reducible apply Steady.trans _ (State.haltFor_steady ..)
    | with_reducible apply Steady.trans _ (State.soot__still ..).steady
    | with_reducible apply Steady.trans _ (State.runRewind_steady ..)
    | with_reducible apply Steady.trans _ (State.standAt_still ..).steady
    | split)

theorem execLockstepMismatch_kept (s : State) :
    ∃ t, execLockstepMismatch s = .next t ∧ Kept s t := by
  unfold execLockstepMismatch
  refine ⟨_, rfl, ?_⟩
  split
  · exact .refl _
  · extract_lets t
    exact Kept.fields (.trans (State.soot__still ..).kept (State.faultEntry_kept ..)) rfl rfl

end Sys2Proof.Machine
end

