-- ==== Sys2Proof/Laws/Kept/Jobs.lean ====
section
/-!
SUPPORT. What the operations of Machine/Jobs.lean keep (Safety.lean: Still, Steady, or Kept).
-/

namespace Sys2Proof.Machine

theorem State.layoutGo_still (s : State) :
    Still s (State.layoutGo s) := by
  unfold State.layoutGo
  repeat' (first
    | with_reducible assumption
    | with_reducible exact Still.refl _
    | with_reducible apply Still.trans _ (State.setObj_still ..)
    | with_reducible apply Still.trans _ (State.toPeer_still ..)
    | split)

theorem execLayoutCommit_still (path : Sys2Proof.Path) (tag : Sys2Proof.ReqTag) (v : Sys2Proof.Byte) (s : State) :
    ∃ t, execLayoutCommit path tag v s = .next t ∧ Still s t := by
  unfold execLayoutCommit
  refine ⟨_, rfl, ?_⟩
  repeat' (first
    | with_reducible assumption
    | with_reducible exact Still.refl _
    | with_reducible apply Still.trans _ (odWrite_still _ _ _ _ (fun _ => ?_))
    | with_reducible apply Still.trans _ (State.layoutGo_still ..))

theorem execPeerLayoutCrc_still (crc : BitVec 32) (s : State) :
    ∃ t, execPeerLayoutCrc crc s = .next t ∧ Still s t := by
  unfold execPeerLayoutCrc
  refine ⟨_, rfl, ?_⟩
  repeat' (first
    | with_reducible assumption
    | with_reducible exact Still.refl _
    | split
    | (with_reducible refine Still.fields ?_ rfl ⟨rfl, rfl⟩; first | with_reducible assumption | with_reducible exact Still.refl _))

theorem State.endJob_steady (s : State) (addr : ℕ) (st : ℕ) :
    Steady s (State.endJob s addr st) := by
  unfold State.endJob
  repeat' (first
    | with_reducible assumption
    | with_reducible exact Steady.refl _
    | with_reducible apply Steady.trans _ (State.pollStart_still ..).steady
    | with_reducible apply Steady.trans _ (State.count_still ..).steady
    | with_reducible apply Steady.trans _ (State.writeMem_steady ..))

theorem State.takeJob_steady (s : State) (op : ℕ) (readError : Option (BitVec 32)) :
    Steady s (State.takeJob s op readError) := by
  unfold State.takeJob
  repeat' (first
    | with_reducible assumption
    | with_reducible exact Steady.refl _
    | (extract_lets +onlyGivenNames x
       first
       | (refine Steady.via (t := x) ?side (fun hx => ?main); (case' side => subst x); (case' main => (clear_value x; revert x; intro _ _)))
       | subst x)
    | with_reducible apply Steady.trans _ (State.endJob_steady ..)
    | with_reducible apply Steady.trans _ (State.count_still ..).steady
    | with_reducible apply Steady.trans _ (State.soot__still ..).steady
    | with_reducible apply Steady.trans _ (State.runJob_steady ..)
    | with_reducible apply Steady.trans _ (State.fetch_still ..).steady
    | with_reducible apply Steady.foldl _ _ _ (fun _ _ => ?_)
    | with_reducible apply Steady.foldl₁ _ _ _ (fun _ _ => ?_)
    | with_reducible apply Steady.foldl₂ _ _ _ (fun _ _ => ?_)
    | split
    | with_reducible refine Steady.eq₁ (by with_reducible assumption) ?_
    | with_reducible refine Steady.eq₂ (by with_reducible assumption) ?_
    | with_reducible refine Steady.opt_eq (by with_reducible assumption) ?_
    | with_reducible refine Steady.opt₂_eq (by with_reducible assumption) ?_
    | dsimp -zeta only
    | with_reducible refine Steady.fields ?_ rfl ⟨rfl, rfl⟩)

theorem execLjobCopy_steady (readError : Option (BitVec 32)) (s : State) :
    ∃ t, execLjobCopy readError s = .next t ∧ Steady s t := by
  unfold execLjobCopy
  refine ⟨_, rfl, ?_⟩
  repeat' (first
    | with_reducible assumption
    | with_reducible exact Steady.refl _
    | with_reducible apply Steady.trans _ (State.takeJob_steady ..))

theorem execLjobGather_steady (readError : Option (BitVec 32)) (s : State) :
    ∃ t, execLjobGather readError s = .next t ∧ Steady s t := by
  unfold execLjobGather
  refine ⟨_, rfl, ?_⟩
  repeat' (first
    | with_reducible assumption
    | with_reducible exact Steady.refl _
    | with_reducible apply Steady.trans _ (State.takeJob_steady ..))

theorem execLjobScatter_steady (readError : Option (BitVec 32)) (s : State) :
    ∃ t, execLjobScatter readError s = .next t ∧ Steady s t := by
  unfold execLjobScatter
  refine ⟨_, rfl, ?_⟩
  repeat' (first
    | with_reducible assumption
    | with_reducible exact Steady.refl _
    | with_reducible apply Steady.trans _ (State.takeJob_steady ..))

theorem execLjobTranspose_steady (readError : Option (BitVec 32)) (s : State) :
    ∃ t, execLjobTranspose readError s = .next t ∧ Steady s t := by
  unfold execLjobTranspose
  refine ⟨_, rfl, ?_⟩
  repeat' (first
    | with_reducible assumption
    | with_reducible exact Steady.refl _
    | with_reducible apply Steady.trans _ (State.takeJob_steady ..))

theorem execLjobFill_steady (readError : Option (BitVec 32)) (s : State) :
    ∃ t, execLjobFill readError s = .next t ∧ Steady s t := by
  unfold execLjobFill
  refine ⟨_, rfl, ?_⟩
  repeat' (first
    | with_reducible assumption
    | with_reducible exact Steady.refl _
    | with_reducible apply Steady.trans _ (State.takeJob_steady ..))

theorem execLjobComplete_steady (s : State) :
    ∃ t, execLjobComplete s = .next t ∧ Steady s t := by
  unfold execLjobComplete
  refine ⟨_, rfl, ?_⟩
  repeat' (first
    | with_reducible assumption
    | with_reducible exact Steady.refl _
    | with_reducible apply Steady.trans _ (State.endJob_steady ..)
    | split
    | (with_reducible refine Steady.fields ?_ rfl ⟨rfl, rfl⟩; first | with_reducible assumption | with_reducible exact Steady.refl _))

end Sys2Proof.Machine
end

