-- ==== Sys2Proof/Laws/Kept/LogRoom.lean ====
section
/-!
SUPPORT. What the operations of Machine/LogRoom.lean keep (Safety.lean: Still, Steady, or Kept).
-/

namespace Sys2Proof.Machine

theorem State.applyHeld_steady (s : State) (a1 : LogHeld) :
    Steady s (State.applyHeld s a1) := by
  unfold State.applyHeld
  repeat' (first
    | with_reducible assumption
    | with_reducible exact Steady.refl _
    | with_reducible apply Steady.trans _ (State.takeVerdict_steady ..)
    | with_reducible apply Steady.trans _ (State.timeoutOf_steady ..)
    | with_reducible apply Steady.trans _ (State.takeCancel_steady ..)
    | with_reducible apply Steady.trans _ (State.pollBarrier_steady ..)
    | with_reducible apply Steady.trans _ (State.seqCommand_steady ..)
    | with_reducible apply Steady.trans _ (State.applySeed_steady ..)
    | with_reducible apply Steady.trans _ (State.takeMask_steady ..)
    | with_reducible apply Steady.trans _ (State.startFload_steady ..)
    | with_reducible apply Steady.trans _ (State.takeWdigest_steady ..)
    | with_reducible apply Steady.trans _ (State.applyDecision_steady ..)
    | with_reducible apply Steady.trans _ (State.applyStream_steady ..)
    | split)

theorem drainHeld_steady (a0 : List LogHeld) (a1 : State) :
    Steady a1 (drainHeld a0 a1) := by
  induction a0 generalizing a1 with
  | nil => exact Steady.refl _
  | cons e es ih =>
    unfold drainHeld
    split
    · exact (State.applyHeld_steady ..).trans (ih _)
    · exact Steady.fields (Steady.refl a1) rfl ⟨rfl, rfl⟩

theorem State.drainLog_steady (s : State) :
    Steady s (State.drainLog s) := by
  unfold State.drainLog
  repeat' (first
    | with_reducible assumption
    | with_reducible exact Steady.refl _
    | (extract_lets +onlyGivenNames x
       first
       | (refine Steady.via (t := x) ?side (fun hx => ?main); (case' side => subst x); (case' main => (clear_value x; revert x; intro _ _)))
       | subst x)
    | with_reducible apply Steady.trans _ (drainEntries_steady ..)
    | with_reducible apply Steady.trans _ (drainHeld_steady ..)
    | split
    | dsimp -zeta only
    | (with_reducible refine Steady.fields ?_ rfl ⟨rfl, rfl⟩; first | with_reducible assumption | with_reducible exact Steady.refl _))

end Sys2Proof.Machine
end

