-- ==== Sys2Proof/Laws/Kept/Objects.lean ====
section
/-!
SUPPORT. What the operations of Machine/Objects.lean keep (Safety.lean: Still, Steady, or Kept).
-/

namespace Sys2Proof.Machine

theorem State.ownEffect_kept (r : Sys2Proof.OdReq) (s : State) :
    Kept s (State.ownEffect r s) := by
  unfold State.ownEffect
  extract_lets key v
  clear_value key v
  refine Kept.cond (State.stateCmd_kept ..) ?_
  refine Kept.cond (State.seqCmd_steady ..).kept ?_
  refine Kept.cond (State.verdictWrite_steady ..).kept ?_
  refine Kept.cond (State.cancelWrite_steady ..).kept ?_
  refine Kept.cond (State.rbankGo_still ..).kept ?_
  refine Kept.cond (State.ftabGo_steady ..).kept ?_
  refine Kept.cond (State.seedWrite_steady ..).kept ?_
  refine Kept.cond (State.skipGo_steady ..).kept ?_
  refine Kept.cond (State.placeGo_still ..).kept ?_
  refine Kept.cond (State.digestStart_still ..).kept ?_
  refine Kept.cond (State.layoutGo_still ..).kept ?_
  refine Kept.cond (State.armFtime_kept ..) ?_
  refine Kept.cond (State.stokeWrite_still ..).kept ?_
  refine Kept.cond (State.unlock_still ..).kept ?_
  refine Kept.cond (State.ackAlerts_still ..).kept ?_
  refine Kept.cond (State.takeXCmd_still ..).kept ?_
  refine Kept.cond (State.takeXCmd_still ..).kept ?_
  refine Kept.cond ((plainEffect_still ..).kept.trans (State.pollStart_still ..).kept) ?_
  exact Kept.cond ((plainEffect_still ..).kept.trans (State.drainLog_steady ..).kept) (plainEffect_still ..).kept

theorem State.objectWrite_kept (s : State) (r : Sys2Proof.OdReq) :
    Kept s (State.objectWrite s r) := odWrite_kept s r _ (State.ownEffect r) (fun x => State.ownEffect_kept r x)

end Sys2Proof.Machine
end

