-- ==== Sys2Proof/Laws/Kept/Returns.lean ====
section
/-!
SUPPORT. What the operations of Machine/Returns.lean keep (Safety.lean: Still, Steady, or Kept).
-/

namespace Sys2Proof.Machine

theorem State.holdRet_still (s : State) (port : ℕ) (units : ℕ) :
    Still s (State.holdRet s port units) := by
  unfold State.holdRet
  repeat' (first
    | with_reducible assumption
    | with_reducible exact Still.refl _
    | with_reducible apply Still.trans _ (State.setDie_still ..))

theorem State.giveRet_still (s : State) (port : ℕ) (units : ℕ) :
    Still s (State.giveRet s port units) := by
  unfold State.giveRet
  repeat' (first
    | with_reducible assumption
    | with_reducible exact Still.refl _
    | with_reducible apply Still.trans _ (State.emit_still ..)
    | with_reducible apply Still.trans _ (State.setDie_still ..))

theorem execDieReturn_steady (port : BitVec 3) (p : Sys2Proof.Packet) (s : State) :
    ∃ t, execDieReturn port p s = .next t ∧ Steady s t := by
  unfold execDieReturn
  refine ⟨_, rfl, ?_⟩
  repeat' (first
    | with_reducible assumption
    | with_reducible exact Steady.refl _
    | (extract_lets +onlyGivenNames x
       first
       | (refine Steady.via (t := x) ?side (fun hx => ?main); (case' side => subst x); (case' main => (clear_value x; revert x; intro _ _)))
       | subst x)
    | with_reducible apply Steady.trans _ (State.giveRet_still ..).steady
    | with_reducible apply Steady.trans _ (State.count_still ..).steady
    | with_reducible apply Steady.trans _ (State.holdRet_still ..).steady
    | with_reducible apply Steady.trans _ (State.sendReturn_steady ..)
    | with_reducible apply Steady.trans _ (State.addFlueCtx_still ..).steady
    | with_reducible apply Steady.trans _ (State.reduceRow_steady ..)
    | split)

theorem execNocReductionAck_steady (p : Sys2Proof.PairRef) (s : State) :
    ∃ t, execNocReductionAck p s = .next t ∧ Steady s t := by
  unfold execNocReductionAck
  refine ⟨_, rfl, ?_⟩
  repeat' (first
    | with_reducible assumption
    | with_reducible exact Steady.refl _
    | with_reducible apply Steady.trans _ (State.checkFences_steady ..)
    | with_reducible apply Steady.trans _ (State.reduceDone_steady ..)
    | split
    | (with_reducible refine Steady.fields ?_ rfl ⟨rfl, rfl⟩; first | with_reducible assumption | with_reducible exact Steady.refl _))

theorem execFlueStore_steady (req : BitVec 256) (p : Sys2Proof.Packet) (chk : Sys2Proof.Arrival) (cacheReadError : Bool) (s : State) :
    ∃ t, execFlueStore req p chk cacheReadError s = .next t ∧ Steady s t := by
  unfold execFlueStore
  refine ⟨_, rfl, ?_⟩
  repeat' (first
    | with_reducible assumption
    | with_reducible exact Steady.refl _
    | with_reducible apply Steady.trans _ (State.breakTiming_still ..).steady
    | (extract_lets +onlyGivenNames x
       subst x)
    | with_reducible apply Steady.opt₂_trans _ (Steady.opt₂_of (State.takeReturn_steady _ _ _))
    | with_reducible apply Steady.trans _ (State.accept_steady _ _ _ _ (fun _ => ?_))
    | with_reducible apply Steady.trans _ (State.exactlyOnce_steady _ _ _ _ (fun _ => ?_))
    | with_reducible apply Steady.trans _ (State.reply_still ..).steady
    | with_reducible apply Steady.foldl _ _ _ (fun _ _ => ?_)
    | with_reducible apply Steady.foldl₁ _ _ _ (fun _ _ => ?_)
    | with_reducible apply Steady.foldl₂ _ _ _ (fun _ _ => ?_)
    | split
    | with_reducible refine Steady.eq₁ (by with_reducible assumption) ?_
    | with_reducible refine Steady.eq₂ (by with_reducible assumption) ?_
    | with_reducible refine Steady.opt_eq (by with_reducible assumption) ?_
    | with_reducible refine Steady.opt₂_eq (by with_reducible assumption) ?_
    | dsimp only)

theorem State.arriveReturn_steady (s : State) (via : Sys2Proof.FlueVia) (chk : Sys2Proof.Arrival) (ty : ℕ) :
    Steady s (State.arriveReturn s via chk ty) := by
  have fl : ∀ rest, Steady s { s with flue := { s.flue with ownPath := rest } } :=
    fun _ => .fields (.refl s) rfl ⟨rfl, rfl⟩
  unfold State.arriveReturn
  split
  · exact .refl _
  · split
    · split
      · exact .refl _
      · split
        · exact .refl _
        · split
          · exact .refl _
          · rename_i rest _ _ _ st t h
            have k : Steady s t := (fl rest).trans (State.takeReturn_steady _ _ _ _ h)
            split
            · exact k
            · split
              · exact k.trans (State.replayReturn_steady ..)
              · exact k.trans (State.dropSent_still ..).steady
    · split
      · exact .refl _
      · split
        · exact .refl _
        · rename_i h
          exact .trans (State.takeReturn_steady _ _ _ _ h) (State.toPeer_still ..).steady
    · split
      · exact .refl _
      · split
        · exact .refl _
        · rename_i h
          split
          · exact .trans (State.takeReturn_steady _ _ _ _ h) (State.toGate_still ..).steady
          · exact State.takeReturn_steady _ _ _ _ h

theorem execReturnPacket_steady (via : Sys2Proof.FlueVia) (chk : Sys2Proof.Arrival) (s : State) :
    ∃ t, execReturnPacket via chk s = .next t ∧ Steady s t := by
  unfold execReturnPacket
  refine ⟨_, rfl, ?_⟩
  repeat' (first
    | with_reducible assumption
    | with_reducible exact Steady.refl _
    | with_reducible apply Steady.trans _ (State.arriveReturn_steady ..))

theorem execArrivalReceipt_steady (via : Sys2Proof.FlueVia) (chk : Sys2Proof.Arrival) (s : State) :
    ∃ t, execArrivalReceipt via chk s = .next t ∧ Steady s t := by
  unfold execArrivalReceipt
  refine ⟨_, rfl, ?_⟩
  repeat' (first
    | with_reducible assumption
    | with_reducible exact Steady.refl _
    | with_reducible apply Steady.trans _ (State.arriveReturn_steady ..))

theorem execDrainReceipt_still (p : Sys2Proof.Packet) (s : State) :
    ∃ t, execDrainReceipt p s = .next t ∧ Still s t := by
  unfold execDrainReceipt
  refine ⟨_, rfl, ?_⟩
  repeat' (first
    | with_reducible assumption
    | with_reducible exact Still.refl _
    | with_reducible apply Still.trans _ (State.takeDrain_still ..))

theorem execStagingWriteAck_steady (entry : BitVec 19) (pos : BitVec 5) (s : State) :
    ∃ t, execStagingWriteAck entry pos s = .next t ∧ Steady s t := by
  unfold execStagingWriteAck
  refine ⟨_, rfl, ?_⟩
  repeat' (first
    | with_reducible assumption
    | with_reducible exact Steady.refl _
    | (extract_lets +onlyGivenNames x
       first
       | (refine Steady.via (t := x) ?side (fun hx => ?main); (case' side => subst x); (case' main => (clear_value x; revert x; intro _ _)))
       | subst x)
    | with_reducible apply Steady.trans _ (State.settleToken_steady ..)
    | with_reducible apply Steady.trans _ (State.setRstate_steady ..)
    | split
    | dsimp -zeta only
    | (with_reducible refine Steady.fields ?_ rfl ⟨rfl, rfl⟩; first | with_reducible assumption | with_reducible exact Steady.refl _))

theorem State.combineToken_steady (s : State) (d : Desc) (e : ℕ) (n : ℕ) :
    Steady s (State.combineToken s d e n) := by
  unfold State.combineToken
  repeat' (first
    | with_reducible assumption
    | with_reducible exact Steady.refl _
    | with_reducible apply Steady.trans _ (State.dropRows_still ..).steady
    | with_reducible apply Steady.trans _ (State.addOutFp_still ..).steady
    | with_reducible apply Steady.trans _ (State.count_still ..).steady
    | with_reducible apply Steady.trans _ (State.writeHome_steady ..)
    | with_reducible apply Steady.trans _ (State.addFlueCtx_still ..).steady)

theorem execOrderedCombine_steady (readError : Bool) (s : State) :
    ∃ t, execOrderedCombine readError s = .next t ∧ Steady s t := by
  unfold execOrderedCombine
  refine ⟨_, rfl, ?_⟩
  repeat' (first
    | with_reducible assumption
    | with_reducible exact Steady.refl _
    | (extract_lets +onlyGivenNames x
       subst x)
    | with_reducible apply Steady.trans _ (State.poisonToken_steady ..)
    | with_reducible apply Steady.trans _ (State.resolveZero_steady ..)
    | with_reducible apply Steady.trans _ (State.combineToken_steady ..)
    | split
    | dsimp -zeta only
    | (with_reducible refine Steady.fields ?_ rfl ⟨rfl, rfl⟩; first | with_reducible assumption | with_reducible exact Steady.refl _))

theorem execHomeWriteAck_steady (entry : BitVec 19) (s : State) :
    ∃ t, execHomeWriteAck entry s = .next t ∧ Steady s t := by
  unfold execHomeWriteAck
  refine ⟨_, rfl, ?_⟩
  repeat' (first
    | with_reducible assumption
    | with_reducible exact Steady.refl _
    | with_reducible apply Steady.trans _ (State.homeAcked_steady ..)
    | split)

theorem execArrivalZeroWriteAck_still (entry : BitVec 19) (s : State) :
    ∃ t, execArrivalZeroWriteAck entry s = .next t ∧ Still s t := by
  unfold execArrivalZeroWriteAck
  refine ⟨_, rfl, ?_⟩
  repeat' (first
    | with_reducible assumption
    | with_reducible exact Still.refl _
    | split
    | (with_reducible refine Still.fields ?_ rfl ⟨rfl, rfl⟩; first | with_reducible assumption | with_reducible exact Still.refl _))

theorem execCancelFenceComplete_still (bank : Bool) (s : State) :
    ∃ t, execCancelFenceComplete bank s = .next t ∧ Still s t := by
  unfold execCancelFenceComplete
  refine ⟨_, rfl, ?_⟩
  repeat' (first
    | with_reducible assumption
    | with_reducible exact Still.refl _
    | with_reducible apply Still.trans _ (State.setObj_still ..)
    | with_reducible apply Still.trans _ (State.setStep_still ..)
    | split)

theorem execBankSweepDone_steady (bank : Bool) (s : State) :
    ∃ t, execBankSweepDone bank s = .next t ∧ Steady s t := by
  unfold execBankSweepDone
  refine ⟨_, rfl, ?_⟩
  repeat' (first
    | with_reducible assumption
    | with_reducible exact Steady.refl _
    | with_reducible apply Steady.trans _ (State.sweepBank_still ..).steady
    | with_reducible apply Steady.trans _ (State.tagCancelled_steady ..)
    | with_reducible apply Steady.trans _ (State.commitFreed_steady ..)
    | with_reducible apply Steady.trans _ (State.onStep_still ..).steady
    | split)

theorem execCancelFenceTimeout_kept (bank : Bool) (s : State) :
    ∃ t, execCancelFenceTimeout bank s = .next t ∧ Kept s t := by
  unfold execCancelFenceTimeout
  refine ⟨_, rfl, ?_⟩
  repeat' (first
    | with_reducible assumption
    | with_reducible exact Kept.refl _
    | (extract_lets +onlyGivenNames x
       subst x)
    | with_reducible apply Kept.trans _ (State.faultEntry_kept ..)
    | with_reducible apply Kept.trans _ (State.soot__still ..).kept
    | split)

end Sys2Proof.Machine
end

