-- ==== Sys2Proof/Laws/Kept/Score.lean ====
section
/-!
SUPPORT. What the operations of Machine/Score.lean keep (Safety.lean: Still, Steady, or Kept).
-/

namespace Sys2Proof.Machine

theorem State.endScoring_steady (s : State) (b : Bool) :
    Steady s (State.endScoring s b) := by
  unfold State.endScoring
  repeat' (first
    | with_reducible assumption
    | with_reducible exact Steady.refl _
    | with_reducible apply Steady.trans _ (State.onStep_still ..).steady
    | with_reducible apply Steady.trans _ (State.sealShared_still ..).steady
    | with_reducible apply Steady.trans _ (State.toPeer_still ..).steady
    | with_reducible apply Steady.trans _ (State.scanTry_steady ..)
    | with_reducible apply Steady.trans _ (State.tryComplete_steady ..)
    | split)

theorem State.rotationFails_steady (s : State) (t : Step) (partner : BitVec 8) (stage : Bool) :
    Steady s (State.rotationFails s t partner stage) := by
  unfold State.rotationFails
  repeat' (first
    | with_reducible assumption
    | with_reducible exact Steady.refl _
    | (extract_lets +onlyGivenNames x
       first
       | (refine Steady.via (t := x) ?side (fun hx => ?main); (case' side => subst x); (case' main => (clear_value x; revert x; intro _ _)))
       | subst x)
    | with_reducible apply Steady.trans _ (State.takeFree_steady ..)
    | with_reducible apply Steady.trans _ (State.markBoth_steady ..)
    | with_reducible apply Steady.foldl _ _ _ (fun _ _ => ?_)
    | with_reducible apply Steady.foldl₁ _ _ _ (fun _ _ => ?_)
    | with_reducible apply Steady.foldl₂ _ _ _ (fun _ _ => ?_)
    | split
    | with_reducible refine Steady.eq₁ (by with_reducible assumption) ?_
    | with_reducible refine Steady.eq₂ (by with_reducible assumption) ?_
    | with_reducible refine Steady.opt_eq (by with_reducible assumption) ?_
    | with_reducible refine Steady.opt₂_eq (by with_reducible assumption) ?_
    | dsimp -zeta only
    | with_reducible refine Steady.fields ?_ rfl ⟨rfl, rfl⟩)

theorem State.rotationPasses_still (s : State) (t : Step) :
    Still s (State.rotationPasses s t) := by
  unfold State.rotationPasses
  repeat' (first
    | with_reducible assumption
    | with_reducible exact Still.refl _
    | split
    | (with_reducible refine Still.fields ?_ rfl ⟨rfl, rfl⟩; first | with_reducible assumption | with_reducible exact Still.refl _))

theorem State.clearHist_steady (s : State) (b : Bool) :
    Steady s (State.clearHist s b) := by
  unfold State.clearHist
  extract_lets x
  split
  · exact .ofForm (.clearMem _ _ rfl rfl rfl rfl rfl rfl rfl rfl) rfl rfl rfl rfl rfl rfl rfl rfl
  · exact Steady.fields (Steady.refl s) rfl ⟨rfl, rfl⟩

theorem State.fetchUnit_still (s : State) (b : Bool) :
    Still s (State.fetchUnit s b) := by
  unfold State.fetchUnit
  repeat' (first
    | with_reducible assumption
    | with_reducible exact Still.refl _
    | (extract_lets +onlyGivenNames x
       subst x)
    | with_reducible apply Still.trans _ (State.fetch_still ..)
    | split)

theorem State.beginScoring_steady (s : State) (b : Bool) (t : Step) :
    Steady s (State.beginScoring s b t) := by
  unfold State.beginScoring
  repeat' (first
    | with_reducible assumption
    | with_reducible exact Steady.refl _
    | (extract_lets +onlyGivenNames x
       first
       | (refine Steady.via (t := x) ?side (fun hx => ?main); (case' side => subst x); (case' main => (clear_value x; revert x; intro _ _)))
       | subst x)
    | with_reducible apply Steady.trans _ (State.clearHist_steady ..)
    | with_reducible apply Steady.trans _ (State.onStep_still ..).steady
    | with_reducible apply Steady.trans _ (State.endScoring_steady ..)
    | with_reducible apply Steady.trans _ (State.fetchUnit_still ..).steady
    | split)

theorem execScorePhaseBegin_steady (mismatch : Option (BitVec 8 × Bool)) (s : State) :
    ∃ t, execScorePhaseBegin mismatch s = .next t ∧ Steady s t := by
  unfold execScorePhaseBegin
  refine ⟨_, rfl, ?_⟩
  repeat' (first
    | with_reducible assumption
    | with_reducible exact Steady.refl _
    | with_reducible apply Steady.trans _ (State.beginScoring_steady ..)
    | with_reducible apply Steady.trans _ (State.rotationPasses_still ..).steady
    | with_reducible apply Steady.trans _ (State.rotationFails_steady ..)
    | split)

theorem State.writeRoute_steady (s : State) (t : Step) (i : ℕ) (xs : List ℕ) :
    Steady s (State.writeRoute s t i xs) := by
  unfold State.writeRoute
  repeat' (first
    | with_reducible assumption
    | with_reducible exact Steady.refl _
    | with_reducible apply Steady.trans _ (State.writeLp_steady ..)
    | split)

theorem State.countDrift_still (s : State) (b : Bool) (prev : Option (List ℕ)) (xs : List ℕ) :
    Still s (State.countDrift s b prev xs) := by
  unfold State.countDrift
  repeat' (first
    | with_reducible assumption
    | with_reducible exact Still.refl _
    | with_reducible apply Still.trans _ (State.onStep_still ..)
    | split)

theorem State.newEntry_steady (s : State) (d : Desc) (e : ℕ) (row : ℕ) (st : ℕ) (slots : List Position) (sharedState : ℕ) :
    Steady s (State.newEntry s d e row st slots sharedState) := by
  unfold State.newEntry
  repeat' (first
    | with_reducible assumption
    | with_reducible exact Steady.refl _
    | (extract_lets +onlyGivenNames x
       first
       | (refine Steady.via (t := x) ?side (fun hx => ?main); (case' side => subst x); (case' main => (clear_value x; revert x; intro _ _)))
       | subst x)
    | with_reducible apply Steady.trans _ (State.setEntry_still ..).steady
    | with_reducible apply Steady.trans _ (State.writeMem_steady ..)
    | with_reducible apply Steady.trans _ (State.setPos_steady ..)
    | with_reducible apply Steady.trans _ (State.setRstate_steady ..)
    | with_reducible apply Steady.foldl _ _ _ (fun _ _ => ?_)
    | with_reducible apply Steady.foldl₁ _ _ _ (fun _ _ => ?_)
    | with_reducible apply Steady.foldl₂ _ _ _ (fun _ _ => ?_)
    | split)

theorem State.addRouteFp_still (s : State) (b : Bool) (p : ℕ) (slots : List (ℕ × ℕ)) :
    Still s (State.addRouteFp s b p slots) := by
  unfold State.addRouteFp
  repeat' (first
    | with_reducible assumption
    | with_reducible exact Still.refl _
    | with_reducible apply Still.trans _ (State.onStep_still ..))

theorem State.skipToken_steady (s : State) (b : Bool) (t : Step) (i : ℕ) :
    Steady s (State.skipToken s b t i) := by
  unfold State.skipToken
  repeat' (first
    | with_reducible assumption
    | with_reducible exact Steady.refl _
    | with_reducible apply Steady.trans _ (State.newEntry_steady ..)
    | with_reducible apply Steady.trans _ (State.writeRoute_steady ..)
    | with_reducible apply Steady.trans _ (State.resolveZero_steady ..))

theorem State.badToken_steady (s : State) (b : Bool) (t : Step) (i : ℕ) (reason : ℕ) :
    Steady s (State.badToken s b t i reason) := by
  unfold State.badToken
  repeat' (first
    | with_reducible assumption
    | with_reducible exact Steady.refl _
    | with_reducible apply Steady.trans _ (State.newEntry_steady ..)
    | with_reducible apply Steady.trans _ (State.postAsh_steady ..)
    | with_reducible apply Steady.trans _ (State.writeRoute_steady ..)
    | with_reducible apply Steady.trans _ (State.resolveZero_steady ..))

theorem State.rankPairs_still (s : State) (b : Bool) (slots : List Position) :
    Still s (State.rankPairs s b slots).2 := by
  unfold State.rankPairs
  repeat' (first
    | with_reducible assumption
    | with_reducible exact Still.refl _
    | split
    | (with_reducible refine Still.fields ?_ rfl ⟨rfl, rfl⟩; first | with_reducible assumption | with_reducible exact Still.refl _))

theorem State.zeroHome_steady (s : State) (d : Desc) (e : ℕ) :
    Steady s (State.zeroHome s d e) := by
  unfold State.zeroHome
  repeat' (first
    | with_reducible assumption
    | with_reducible exact Steady.refl _
    | (extract_lets +onlyGivenNames x
       first
       | (refine Steady.via (t := x) ?side (fun hx => ?main); (case' side => subst x); (case' main => (clear_value x; revert x; intro _ _)))
       | subst x)
    | with_reducible apply Steady.trans _ (State.writeHome_steady ..)
    | with_reducible apply Steady.trans _ (State.count_still ..).steady
    | split
    | dsimp -zeta only
    | (with_reducible refine Steady.fields ?_ rfl ⟨rfl, rfl⟩; with_reducible assumption))

theorem State.routeToken_steady (s : State) (b : Bool) (t : Step) (i : ℕ) (slots : List (ℕ × ℕ)) :
    Steady s (State.routeToken s b t i slots) := by
  unfold State.routeToken
  repeat' (first
    | with_reducible assumption
    | with_reducible exact Steady.refl _
    | (extract_lets +onlyGivenNames x
       first
       | (refine Steady.via (t := x) ?side (fun hx => ?main); (case' side => subst x); (case' main => (clear_value x; revert x; intro _ _)))
       | subst x)
    | with_reducible apply Steady.trans _ (State.count_still ..).steady
    | with_reducible apply Steady.trans _ (State.writeRoute_steady ..)
    | with_reducible apply Steady.trans _ (State.addRouteFp_still ..).steady
    | with_reducible apply Steady.trans _ (State.countDrift_still ..).steady
    | with_reducible apply Steady.trans _ (State.newEntry_steady ..)
    | with_reducible apply Steady.trans _ (State.rankPairs_still ..).steady
    | with_reducible apply Steady.trans _ (State.onStep_still ..).steady
    | with_reducible apply Steady.trans _ (State.zeroHome_steady ..)
    | with_reducible apply Steady.trans _ (State.gather_still ..).steady
    | with_reducible apply Steady.trans _ (State.releasePairs_steady ..)
    | with_reducible apply Steady.trans _ (State.resolveZero_steady ..)
    | with_reducible apply Steady.foldl _ _ _ (fun _ _ => ?_)
    | with_reducible apply Steady.foldl₁ _ _ _ (fun _ _ => ?_)
    | with_reducible apply Steady.foldl₂ _ _ _ (fun _ _ => ?_)
    | split)

theorem State.writeRouteRow_steady (s : State) (b : Bool) (d : Desc) (i : ℕ) (slots : List (ℕ × ℕ)) (groups : List Sys2Proof.F32) :
    Steady s (State.writeRouteRow s b d i slots groups) := by
  unfold State.writeRouteRow
  repeat' (first
    | with_reducible assumption
    | with_reducible exact Steady.refl _
    | (extract_lets +onlyGivenNames x
       first
       | (refine Steady.via (t := x) ?side (fun hx => ?main); (case' side => subst x); (case' main => (clear_value x; revert x; intro _ _)))
       | subst x)
    | with_reducible apply Steady.trans _ (State.storePieces_still ..).steady
    | with_reducible apply Steady.trans _ (State.writeOwn_steady ..)
    | split
    | dsimp -zeta only
    | (with_reducible refine Steady.fields ?_ rfl ⟨rfl, rfl⟩; with_reducible assumption))

theorem State.condToken_steady (s : State) (b : Bool) (t : Step) (i : ℕ) (res : UnitRes) :
    Steady s (State.condToken s b t i res) := by
  unfold State.condToken
  repeat' (first
    | with_reducible assumption
    | with_reducible exact Steady.refl _
    | (extract_lets +onlyGivenNames x
       first
       | (refine Steady.via (t := x) ?side (fun hx => ?main); (case' side => subst x); (case' main => (clear_value x; revert x; intro _ _)))
       | subst x)
    | with_reducible apply Steady.trans _ (State.writeRouteRow_steady ..)
    | with_reducible apply Steady.trans _ (State.count_still ..).steady
    | with_reducible apply Steady.trans _ (State.addRouteFp_still ..).steady
    | with_reducible apply Steady.trans _ (State.postAsh_steady ..)
    | split)

theorem State.takeMember_steady (s : State) (b : Bool) (t : Step) (i : ℕ) (res : UnitRes) :
    Steady s (State.takeMember s b t i res) := by
  unfold State.takeMember
  repeat' (first
    | with_reducible assumption
    | with_reducible exact Steady.refl _
    | with_reducible apply Steady.trans _ (State.condToken_steady ..)
    | with_reducible apply Steady.trans _ (State.skipToken_steady ..)
    | with_reducible apply Steady.trans _ (State.badToken_steady ..)
    | with_reducible apply Steady.trans _ (State.routeToken_steady ..)
    | split)

theorem State.countUnit_still (s : State) (w : ℕ) (res : UnitRes) (sat : Bool) :
    Still s (State.countUnit s w res sat) := by
  unfold State.countUnit
  repeat' (first
    | with_reducible assumption
    | with_reducible exact Still.refl _
    | with_reducible apply Still.trans _ (State.count_still ..)
    | split)

theorem State.keepUnit_still (s : State) (rows : List (List Sys2Proof.F32)) (res : UnitRes) :
    Still s (State.keepUnit s rows res) := by
  unfold State.keepUnit
  repeat' (first
    | with_reducible assumption
    | with_reducible exact Still.refl _
    | split
    | (with_reducible refine Still.fields ?_ rfl ⟨rfl, rfl⟩; first | with_reducible assumption | with_reducible exact Still.refl _))

theorem State.takeUnit_steady (s : State) (b : Bool) (t : Step) :
    Steady s (State.takeUnit s b t) := by
  unfold State.takeUnit
  repeat' (first
    | with_reducible assumption
    | with_reducible exact Steady.refl _
    | (extract_lets +onlyGivenNames x
       first
       | (refine Steady.via (t := x) ?side (fun hx => ?main); (case' side => subst x); (case' main => (clear_value x; revert x; intro _ _)))
       | subst x)
    | with_reducible apply Steady.trans _ (State.keepUnit_still ..).steady
    | with_reducible apply Steady.trans _ (State.dropFetch_still ..).steady
    | with_reducible apply Steady.trans _ (State.takeMember_steady ..)
    | with_reducible apply Steady.trans _ (State.countUnit_still ..).steady
    | with_reducible apply Steady.trans _ (State.onStep_still ..).steady
    | with_reducible apply Steady.trans _ (State.endScoring_steady ..)
    | with_reducible apply Steady.trans _ (State.fetchUnit_still ..).steady
    | with_reducible apply Steady.foldl _ _ _ (fun _ _ => ?_)
    | with_reducible apply Steady.foldl₁ _ _ _ (fun _ _ => ?_)
    | with_reducible apply Steady.foldl₂ _ _ _ (fun _ _ => ?_)
    | split)

theorem execScoredUnit_steady (mismatch : Option (BitVec 16 × Bool)) (s : State) :
    ∃ t, execScoredUnit mismatch s = .next t ∧ Steady s t := by
  unfold execScoredUnit
  refine ⟨_, rfl, ?_⟩
  repeat' (first
    | with_reducible assumption
    | with_reducible exact Steady.refl _
    | with_reducible apply Steady.trans _ (State.mark_steady ..)
    | with_reducible apply Steady.trans _ (State.count_still ..).steady
    | with_reducible apply Steady.trans _ (State.takeUnit_steady ..)
    | split)

end Sys2Proof.Machine
end

