-- ==== Sys2Proof/Laws/Kept/Storage.lean ====
section
/-!
SUPPORT. What the operations of Machine/Storage.lean keep (Safety.lean: Still, Steady, or Kept).
-/

namespace Sys2Proof.Machine

theorem execSave_still (path : Sys2Proof.Path) (tag : Sys2Proof.ReqTag) (s : State) :
    ∃ t, execSave path tag s = .next t ∧ Still s t := by
  unfold execSave
  refine ⟨_, rfl, ?_⟩
  repeat' (first
    | with_reducible assumption
    | with_reducible exact Still.refl _
    | with_reducible apply Still.trans _ (odWrite_still _ _ _ _ (fun _ => ?_))
    | with_reducible apply Still.trans _ (State.takeXCmd_still ..))

theorem execEdit_still (path : Sys2Proof.Path) (tag : Sys2Proof.ReqTag) (s : State) :
    ∃ t, execEdit path tag s = .next t ∧ Still s t := by
  unfold execEdit
  refine ⟨_, rfl, ?_⟩
  repeat' (first
    | with_reducible assumption
    | with_reducible exact Still.refl _
    | with_reducible apply Still.trans _ (odWrite_still _ _ _ _ (fun _ => ?_))
    | with_reducible apply Still.trans _ (State.takeXCmd_still ..))

theorem execClear_still (path : Sys2Proof.Path) (tag : Sys2Proof.ReqTag) (s : State) :
    ∃ t, execClear path tag s = .next t ∧ Still s t := by
  unfold execClear
  refine ⟨_, rfl, ?_⟩
  repeat' (first
    | with_reducible assumption
    | with_reducible exact Still.refl _
    | with_reducible apply Still.trans _ (odWrite_still _ _ _ _ (fun _ => ?_))
    | with_reducible apply Still.trans _ (State.takeXCmd_still ..))

theorem execPlaceSave_still (path : Sys2Proof.Path) (tag : Sys2Proof.ReqTag) (s : State) :
    ∃ t, execPlaceSave path tag s = .next t ∧ Still s t := by
  unfold execPlaceSave
  refine ⟨_, rfl, ?_⟩
  repeat' (first
    | with_reducible assumption
    | with_reducible exact Still.refl _
    | with_reducible apply Still.trans _ (odWrite_still _ _ _ _ (fun _ => ?_))
    | with_reducible apply Still.trans _ (State.takeXCmd_still ..))

theorem execPlaceLoad_still (path : Sys2Proof.Path) (tag : Sys2Proof.ReqTag) (s : State) :
    ∃ t, execPlaceLoad path tag s = .next t ∧ Still s t := by
  unfold execPlaceLoad
  refine ⟨_, rfl, ?_⟩
  repeat' (first
    | with_reducible assumption
    | with_reducible exact Still.refl _
    | with_reducible apply Still.trans _ (odWrite_still _ _ _ _ (fun _ => ?_))
    | with_reducible apply Still.trans _ (State.takeXCmd_still ..))

theorem execSootSnap_still (path : Sys2Proof.Path) (tag : Sys2Proof.ReqTag) (s : State) :
    ∃ t, execSootSnap path tag s = .next t ∧ Still s t := by
  unfold execSootSnap
  refine ⟨_, rfl, ?_⟩
  repeat' (first
    | with_reducible assumption
    | with_reducible exact Still.refl _
    | with_reducible apply Still.trans _ (odWrite_still _ _ _ _ (fun _ => ?_))
    | with_reducible apply Still.trans _ (State.takeXCmd_still ..))

theorem execLogRead_still (path : Sys2Proof.Path) (tag : Sys2Proof.ReqTag) (s : State) :
    ∃ t, execLogRead path tag s = .next t ∧ Still s t := by
  unfold execLogRead
  refine ⟨_, rfl, ?_⟩
  repeat' (first
    | with_reducible assumption
    | with_reducible exact Still.refl _
    | with_reducible apply Still.trans _ (odWrite_still _ _ _ _ (fun _ => ?_))
    | with_reducible apply Still.trans _ (State.takeXCmd_still ..))

theorem execLogFree_still (path : Sys2Proof.Path) (tag : Sys2Proof.ReqTag) (s : State) :
    ∃ t, execLogFree path tag s = .next t ∧ Still s t := by
  unfold execLogFree
  refine ⟨_, rfl, ?_⟩
  repeat' (first
    | with_reducible assumption
    | with_reducible exact Still.refl _
    | with_reducible apply Still.trans _ (odWrite_still _ _ _ _ (fun _ => ?_))
    | with_reducible apply Still.trans _ (State.takeXCmd_still ..))

theorem execSootRead_still (path : Sys2Proof.Path) (tag : Sys2Proof.ReqTag) (s : State) :
    ∃ t, execSootRead path tag s = .next t ∧ Still s t := by
  unfold execSootRead
  refine ⟨_, rfl, ?_⟩
  repeat' (first
    | with_reducible assumption
    | with_reducible exact Still.refl _
    | with_reducible apply Still.trans _ (odWrite_still _ _ _ _ (fun _ => ?_))
    | with_reducible apply Still.trans _ (State.takeXCmd_still ..))

theorem execLogSegmentCommit_still (s : State) :
    ∃ t, execLogSegmentCommit s = .next t ∧ Still s t := by
  unfold execLogSegmentCommit
  refine ⟨_, rfl, ?_⟩
  repeat' (first
    | with_reducible assumption
    | with_reducible exact Still.refl _
    | with_reducible apply Still.trans _ (State.setObj_still ..)
    | with_reducible apply Still.trans _ (State.startCommit_still ..)
    | split
    | (with_reducible refine Still.fields ?_ rfl ⟨rfl, rfl⟩; first | with_reducible assumption | with_reducible exact Still.refl _))

theorem execPersistCommitDone_kept (writeOk : Bool) (failAddr : BitVec 32) (s : State) :
    ∃ t, execPersistCommitDone writeOk failAddr s = .next t ∧ Kept s t := by
  unfold execPersistCommitDone
  refine ⟨_, rfl, ?_⟩
  repeat' (first
    | with_reducible assumption
    | with_reducible exact Kept.refl _
    | (extract_lets +onlyGivenNames x
       first
       | (refine Kept.via (t := x) ?side (fun hx => ?main); (case' side => subst x); (case' main => (clear_value x; revert x; intro _ _)))
       | subst x)
    | with_reducible apply Kept.trans _ (State.drainLog_steady ..).kept
    | with_reducible apply Kept.trans _ (State.endCommit_kept ..)
    | with_reducible apply Kept.trans _ (State.kindleEntry_kept ..)
    | with_reducible apply Kept.trans _ (State.runHeldCmd_still ..).kept
    | split)

theorem execAutoCommitRetry_still (s : State) :
    ∃ t, execAutoCommitRetry s = .next t ∧ Still s t := by
  unfold execAutoCommitRetry
  refine ⟨_, rfl, ?_⟩
  repeat' (first
    | with_reducible assumption
    | with_reducible exact Still.refl _
    | with_reducible apply Still.trans _ (State.startCommit_still ..)
    | split
    | (with_reducible refine Still.fields ?_ rfl ⟨rfl, rfl⟩; first | with_reducible assumption | with_reducible exact Still.refl _))

theorem execHoldupDrop_kept (s : State) :
    ∃ t, execHoldupDrop s = .next t ∧ Kept s t := by
  unfold execHoldupDrop
  refine ⟨_, rfl, ?_⟩
  repeat' (first
    | with_reducible assumption
    | with_reducible exact Kept.refl _
    | (extract_lets +onlyGivenNames x
       first
       | (refine Kept.via (t := x) ?side (fun hx => ?main); (case' side => subst x); (case' main => (clear_value x; revert x; intro _ _)))
       | subst x)
    | with_reducible apply Kept.trans _ (State.count_still ..).kept
    | with_reducible apply Kept.trans _ (State.portsDown_still ..).kept
    | with_reducible apply Kept.trans _ (State.quiesce_still ..).kept
    | with_reducible apply Kept.trans _ (State.stopSeq_still ..).kept
    | with_reducible apply Kept.trans _ (State.abandonSteps_steady ..).kept
    | with_reducible apply Kept.foldl _ _ _ (fun _ _ => ?_)
    | with_reducible apply Kept.foldl₁ _ _ _ (fun _ _ => ?_)
    | with_reducible apply Kept.foldl₂ _ _ _ (fun _ _ => ?_)
    | split
    | with_reducible refine Kept.eq₁ (by with_reducible assumption) ?_
    | with_reducible refine Kept.eq₂ (by with_reducible assumption) ?_
    | with_reducible refine Kept.opt_eq (by with_reducible assumption) ?_
    | with_reducible refine Kept.opt₂_eq (by with_reducible assumption) ?_
    | dsimp -zeta only
    | with_reducible refine Kept.fields ?_ rfl rfl)

theorem execHoldupOkRise_kept (s : State) :
    ∃ t, execHoldupOkRise s = .next t ∧ Kept s t := by
  unfold execHoldupOkRise
  refine ⟨_, rfl, ?_⟩
  repeat' (first
    | with_reducible assumption
    | with_reducible exact Kept.refl _
    | split
    | (with_reducible refine Kept.fields ?_ rfl rfl; first | with_reducible assumption | with_reducible exact Kept.refl _))

theorem execXspiReadDone_steady (s : State) :
    ∃ t, execXspiReadDone s = .next t ∧ Steady s t := by
  unfold execXspiReadDone
  refine ⟨_, rfl, ?_⟩
  repeat' (first
    | with_reducible assumption
    | with_reducible exact Steady.refl _
    | with_reducible apply Steady.trans _ (State.writeMem_steady ..)
    | with_reducible apply Steady.trans _ (State.setObj_steady ..)
    | split
    | (with_reducible refine Steady.fields ?_ rfl ⟨rfl, rfl⟩; first | with_reducible assumption | with_reducible exact Steady.refl _))

end Sys2Proof.Machine
end

