-- ==== Sys2Proof/Laws/Kept/Tick.lean ====
section
/-!
SUPPORT. What the operations of Machine/Tick.lean keep (Safety.lean: Still, Steady, or Kept).
-/

namespace Sys2Proof.Machine

theorem State.tick_kept (s : State) :
    Kept s (State.tick s) := by
  unfold State.tick
  repeat' (first
    | with_reducible assumption
    | with_reducible exact Kept.refl _
    | (extract_lets +onlyGivenNames x
       subst x)
    | with_reducible apply Kept.trans _ (State.pumpFab_still ..).kept
    | split
    | dsimp -zeta only
    | (with_reducible refine Kept.fields ?_ rfl rfl; first | with_reducible assumption | with_reducible exact Kept.refl _))

end Sys2Proof.Machine
end

