-- ==== Sys2Proof/Laws/Kept/Walk.lean ====
section
/-!
SUPPORT. What the operations of Machine/Walk.lean keep (Safety.lean: Still, Steady, or Kept).
-/

namespace Sys2Proof.Machine

theorem State.postSummary_steady (s : State) (b : Bool) (d : Desc) (kind : ℕ) (counts : Tab ℕ) :
    Steady s (State.postSummary s b d kind counts) := by
  unfold State.postSummary
  repeat' (first
    | with_reducible assumption
    | with_reducible exact Steady.refl _
    | (extract_lets +onlyGivenNames x
       first
       | (refine Steady.via (t := x) ?side (fun hx => ?main); (case' side => subst x); (case' main => (clear_value x; revert x; intro _ _)))
       | subst x)
    | with_reducible apply Steady.trans _ (State.count_still ..).steady
    | with_reducible apply Steady.trans _ (State.writeMem_steady ..)
    | split)

theorem execStepSummaryPost_steady (bank : Bool) (peerCounts : List (ℕ × ℕ)) (s : State) :
    ∃ t, execStepSummaryPost bank peerCounts s = .next t ∧ Steady s t := by
  unfold execStepSummaryPost
  refine ⟨_, rfl, ?_⟩
  repeat' (first
    | with_reducible assumption
    | with_reducible exact Steady.refl _
    | with_reducible apply Steady.trans _ (State.onStep_still ..).steady
    | with_reducible apply Steady.trans _ (State.postSummary_steady ..)
    | split)

theorem execPredictedSummary_steady (bank : Bool) (peerCounts : List (ℕ × ℕ)) (s : State) :
    ∃ t, execPredictedSummary bank peerCounts s = .next t ∧ Steady s t := by
  unfold execPredictedSummary
  refine ⟨_, rfl, ?_⟩
  repeat' (first
    | with_reducible assumption
    | with_reducible exact Steady.refl _
    | (extract_lets +onlyGivenNames x
       first
       | (refine Steady.via (t := x) ?side (fun hx => ?main); (case' side => subst x); (case' main => (clear_value x; revert x; intro _ _)))
       | subst x)
    | with_reducible apply Steady.trans _ (State.postSummary_steady ..)
    | with_reducible apply Steady.trans _ (State.toPeer_still ..).steady
    | with_reducible apply Steady.trans _ (State.onStep_still ..).steady
    | split)

theorem State.addMass_steady (s : State) (b : Bool) (i : ℕ) (weight : ℕ) :
    Steady s (State.addMass s b i weight) := by
  unfold State.addMass
  repeat' (first
    | with_reducible assumption
    | with_reducible exact Steady.refl _
    | with_reducible apply Steady.trans _ (State.writeMemNat_steady ..))

theorem State.walkMarkers_still (s : State) (c : WalkCtx) (i : ℕ) (g : ℕ) :
    Still s (State.walkMarkers s c i g).2 := by
  unfold State.walkMarkers
  repeat' (first
    | with_reducible assumption
    | with_reducible exact Still.refl _
    | (extract_lets +onlyGivenNames x
       subst x)
    | with_reducible apply Still.trans _ (State.markerPend_still ..)
    | with_reducible apply Still.foldl _ _ _ (fun _ _ => ?_)
    | with_reducible apply Still.foldl₁ _ _ _ (fun _ _ => ?_)
    | with_reducible apply Still.foldl₂ _ _ _ (fun _ _ => ?_)
    | split
    | with_reducible refine Still.eq₁ (by with_reducible assumption) ?_
    | with_reducible refine Still.eq₂ (by with_reducible assumption) ?_)

theorem State.admitPair_steady (s : State) (c : WalkCtx) (w : Walk) (e : ℕ) (slot : ℕ) (g : ℕ) (p : Position) :
    Steady s (State.admitPair s c w e slot g p).1 := by
  unfold State.admitPair
  repeat' (first
    | with_reducible assumption
    | with_reducible exact Steady.refl _
    | (extract_lets +onlyGivenNames x
       first
       | (refine Steady.via (t := x) ?side (fun hx => ?main); (case' side => subst x); (case' main => (clear_value x; revert x; intro _ _)))
       | subst x)
    | with_reducible apply Steady.trans _ (State.onStep_still ..).steady
    | with_reducible apply Steady.trans _ (State.addMass_steady ..)
    | with_reducible apply Steady.trans _ (State.setRstate_steady ..)
    | with_reducible apply Steady.trans _ (State.setDispCtx_still ..).steady
    | with_reducible apply Steady.trans _ (State.walkMarkers_still ..).steady
    | split
    | dsimp -zeta only
    | (with_reducible refine Steady.fields ?_ rfl ⟨rfl, rfl⟩; with_reducible assumption))

theorem State.ashPair_steady (s : State) (c : WalkCtx) (w : Walk) (e : ℕ) (slot : ℕ) (g : ℕ) (pidx : ℕ) (p : Position) :
    Steady s (State.ashPair s c w e slot g pidx p).1 := by
  unfold State.ashPair
  repeat' (first
    | with_reducible assumption
    | with_reducible exact Steady.refl _
    | with_reducible apply Steady.trans _ (State.postAsh_steady ..)
    | with_reducible apply Steady.trans _ (State.count_still ..).steady
    | with_reducible apply Steady.trans _ (State.onStep_still ..).steady
    | with_reducible apply Steady.trans _ (State.setRstate_steady ..))

theorem State.walkPair_steady (s : State) (c : WalkCtx) (w : Walk) (i : ℕ) (slot : ℕ) :
    Steady s (State.walkPair s c w i slot).1 := by
  unfold State.walkPair
  repeat' (first
    | with_reducible assumption
    | with_reducible exact Steady.refl _
    | (extract_lets +onlyGivenNames x
       subst x)
    | with_reducible apply Steady.trans _ (State.admitPair_steady ..)
    | with_reducible apply Steady.trans _ (State.ashPair_steady ..)
    | split)

theorem State.walkToken_steady (s : State) (c : WalkCtx) (w : Walk) (i : ℕ) :
    Steady s (State.walkToken s c w i).1 := by
  unfold State.walkToken
  repeat' (first
    | with_reducible assumption
    | with_reducible exact Steady.refl _
    | (extract_lets +onlyGivenNames x
       subst x)
    | with_reducible apply Steady.trans _ (State.walkPair_steady ..)
    | with_reducible apply Steady.foldl _ _ _ (fun _ _ => ?_)
    | with_reducible apply Steady.foldl₁ _ _ _ (fun _ _ => ?_))

theorem State.emptyMarkers_still (s : State) (c : WalkCtx) (w : Walk) :
    Still s (State.emptyMarkers s c w).1 := by
  unfold State.emptyMarkers
  repeat' (first
    | with_reducible assumption
    | with_reducible exact Still.refl _
    | (extract_lets +onlyGivenNames x
       subst x)
    | with_reducible apply Still.trans _ (State.markerPend_still ..)
    | with_reducible apply Still.foldl _ _ _ (fun _ _ => ?_)
    | with_reducible apply Still.foldl₁ _ _ _ (fun _ _ => ?_)
    | with_reducible apply Still.foldl₂ _ _ _ (fun _ _ => ?_)
    | split
    | with_reducible refine Still.eq₁ (by with_reducible assumption) ?_)

theorem State.walk_steady (s : State) (b : Bool) (t : Step) (v : ℕ) :
    Steady s (State.walk s b t v) := by
  unfold State.walk
  repeat' (first
    | with_reducible assumption
    | with_reducible exact Steady.refl _
    | (extract_lets +onlyGivenNames x
       subst x)
    | with_reducible apply Steady.trans _ (State.emptyMarkers_still ..).steady
    | with_reducible apply Steady.trans _ (State.walkToken_steady ..)
    | with_reducible apply Steady.trans _ (State.writeMem_steady ..)
    | with_reducible apply Steady.trans _ (State.joinPend_still ..).steady
    | with_reducible apply Steady.trans _ (State.onStep_still ..).steady
    | with_reducible apply Steady.trans _ (State.settleToken_steady ..)
    | with_reducible apply Steady.trans _ (State.flushLast_steady ..)
    | with_reducible apply Steady.trans _ (State.tryComplete_steady ..)
    | with_reducible apply Steady.trans _ (State.dispatchProgress_steady ..)
    | with_reducible apply Steady.foldl _ _ _ (fun _ _ => ?_)
    | with_reducible apply Steady.foldl₁ _ _ _ (fun _ _ => ?_))

theorem execAdmissionWalk_steady (s : State) :
    ∃ t, execAdmissionWalk s = .next t ∧ Steady s t := by
  unfold execAdmissionWalk
  refine ⟨_, rfl, ?_⟩
  repeat' (first
    | with_reducible assumption
    | with_reducible exact Steady.refl _
    | (extract_lets +onlyGivenNames x
       first
       | (refine Steady.via (t := x) ?side (fun hx => ?main); (case' side => subst x); (case' main => (clear_value x; revert x; intro _ _)))
       | subst x)
    | with_reducible apply Steady.trans _ (State.applyVariant_steady ..)
    | with_reducible apply Steady.trans _ (State.replayVerdicts_steady ..)
    | with_reducible apply Steady.trans _ (State.walk_steady ..)
    | split)

end Sys2Proof.Machine
end

