-- ==== Sys2Proof/Laws/Kept/Wards.lean ====
section
/-!
SUPPORT. What the operations of Machine/Wards.lean keep (Safety.lean: Still, Steady, or Kept).
-/

namespace Sys2Proof.Machine

theorem execStepWatchdog_steady (bank : Bool) (s : State) :
    ∃ t, execStepWatchdog bank s = .next t ∧ Steady s t := by
  unfold execStepWatchdog
  refine ⟨_, rfl, ?_⟩
  repeat' (first
    | with_reducible assumption
    | with_reducible exact Steady.refl _
    | with_reducible apply Steady.trans _ (State.onStep_still ..).steady
    | with_reducible apply Steady.trans _ (State.count_still ..).steady
    | with_reducible apply Steady.trans _ (State.mark_steady ..)
    | split)

theorem State.loseDie_steady (s : State) (n : ℕ) (ev : SootEv) :
    Steady s (State.loseDie s n ev) := by
  unfold State.loseDie
  repeat' (first
    | with_reducible assumption
    | with_reducible exact Steady.refl _
    | (extract_lets +onlyGivenNames x
       first
       | (refine Steady.via (t := x) ?side (fun hx => ?main); (case' side => subst x); (case' main => (clear_value x; revert x; intro _ _)))
       | subst x)
    | with_reducible apply Steady.trans _ (State.setDie_still ..).steady
    | with_reducible apply Steady.trans _ (State.dieOut_steady ..)
    | with_reducible apply Steady.trans _ (State.mark_steady ..)
    | with_reducible apply Steady.foldl _ _ _ (fun _ _ => ?_))

theorem execClockLoss_kept (domain : BitVec 5) (s : State) :
    ∃ t, execClockLoss domain s = .next t ∧ Kept s t := by
  unfold execClockLoss
  refine ⟨_, rfl, ?_⟩
  repeat' (first
    | with_reducible assumption
    | with_reducible exact Kept.refl _
    | (extract_lets +onlyGivenNames x
       first
       | (refine Kept.via (t := x) ?side (fun hx => ?main); (case' side => subst x); (case' main => (clear_value x; revert x; intro _ _)))
       | subst x)
    | with_reducible apply Kept.trans _ (State.setObj_kept ..)
    | with_reducible apply Kept.trans _ (State.faultEntry_kept ..)
    | with_reducible apply Kept.trans _ (State.soot__still ..).kept
    | with_reducible apply Kept.trans _ (State.loseDie_steady ..).kept
    | with_reducible apply Kept.trans _ (State.portDown_steady ..).kept
    | with_reducible apply Kept.foldl _ _ _ (fun _ _ => ?_)
    | with_reducible apply Kept.foldl₁ _ _ _ (fun _ _ => ?_)
    | with_reducible apply Kept.foldl₂ _ _ _ (fun _ _ => ?_)
    | split
    | with_reducible refine Kept.eq₁ (by with_reducible assumption) ?_
    | with_reducible refine Kept.eq₂ (by with_reducible assumption) ?_
    | with_reducible refine Kept.opt_eq (by with_reducible assumption) ?_
    | with_reducible refine Kept.opt₂_eq (by with_reducible assumption) ?_
    | dsimp -zeta only
    | with_reducible refine Kept.fields ?_ rfl rfl)

theorem execDatapathParityError_steady (path : BitVec 32) (word : BitVec 32) (second : Bool) (owner : Option Bool) (s : State) :
    ∃ t, execDatapathParityError path word second owner s = .next t ∧ Steady s t := by
  unfold execDatapathParityError
  refine ⟨_, rfl, ?_⟩
  repeat' (first
    | with_reducible assumption
    | with_reducible exact Steady.refl _
    | (extract_lets +onlyGivenNames x
       first
       | (refine Steady.via (t := x) ?side (fun hx => ?main); (case' side => subst x); (case' main => (clear_value x; revert x; intro _ _)))
       | subst x)
    | with_reducible apply Steady.trans _ (State.mark_steady ..)
    | with_reducible apply Steady.trans _ (State.soot__still ..).steady
    | with_reducible apply Steady.trans _ (State.count_still ..).steady
    | with_reducible apply Steady.trans _ (State.onStep_still ..).steady
    | split)

theorem State.ledgerDbe_steady (s : State) (index : ℕ) (syn : ℕ) :
    Steady s (State.ledgerDbe s index syn) := by
  unfold State.ledgerDbe
  repeat' (first
    | with_reducible assumption
    | with_reducible exact Steady.refl _
    | (extract_lets +onlyGivenNames x
       subst x)
    | with_reducible apply Steady.trans _ (State.mark_steady ..)
    | with_reducible apply Steady.trans _ (State.setEntry_still ..).steady
    | with_reducible apply Steady.trans _ (State.soot__still ..).steady
    | split)

theorem State.withdraw_still (s : State) (n : ℕ) (p : Sys2Proof.Packet) :
    ∀ out, State.withdraw s n p = some out → Still s out := by
  refine Still.opt_some ?_
  unfold State.withdraw
  repeat' (first
    | with_reducible assumption
    | with_reducible apply Still.opt_map _ _ (fun _ => ?_)
    | with_reducible apply Still.opt_map₂ _ _ (fun _ => ?_)
    | with_reducible apply Still.opt₂_map _ _ (fun _ => ?_)
    | with_reducible exact Still.refl _
    | (extract_lets +onlyGivenNames x
       subst x)
    | split
    | with_reducible apply Still.opt_none
    | with_reducible apply Still.opt_intro
    | dsimp -zeta only
    | (with_reducible refine Still.fields ?_ rfl ⟨rfl, rfl⟩; first | with_reducible assumption | with_reducible exact Still.refl _))

theorem State.withdraw_steady (s : State) (n : ℕ) (p : Sys2Proof.Packet) :
    ∀ out, State.withdraw s n p = some out → Steady s out := fun out h => (State.withdraw_still _ _ _ out h).steady

theorem State.withdraw_kept (s : State) (n : ℕ) (p : Sys2Proof.Packet) :
    ∀ out, State.withdraw s n p = some out → Kept s out := fun out h => (State.withdraw_still _ _ _ out h).kept

theorem State.stashDbe_steady (s : State) (index : ℕ) (syn : ℕ) :
    Steady s (State.stashDbe s index syn) := by
  unfold State.stashDbe
  repeat' (first
    | with_reducible assumption
    | with_reducible exact Steady.refl _
    | (extract_lets +onlyGivenNames x
       first
       | (refine Steady.via (t := x) ?side (fun hx => ?main); (case' side => subst x); (case' main => (clear_value x; revert x; intro _ _)))
       | subst x)
    | with_reducible apply Steady.trans _ (State.poisonMark_steady ..)
    | with_reducible apply Steady.trans _ (State.poisonToken_steady ..)
    | with_reducible apply Steady.trans _ (State.setFlueCtx_still ..).steady
    | with_reducible apply Steady.trans _ (State.soot__still ..).steady
    | with_reducible apply Steady.opt_trans _ (Steady.opt_of (State.withdraw_steady _ _ _))
    | with_reducible apply Steady.trans _ (State.sendReturn_steady ..)
    | with_reducible apply Steady.foldl _ _ _ (fun _ _ => ?_)
    | with_reducible apply Steady.foldl₁ _ _ _ (fun _ _ => ?_)
    | with_reducible apply Steady.foldl₂ _ _ _ (fun _ _ => ?_)
    | split
    | with_reducible refine Steady.eq₁ (by with_reducible assumption) ?_
    | with_reducible refine Steady.eq₂ (by with_reducible assumption) ?_
    | with_reducible refine Steady.opt_eq (by with_reducible assumption) ?_)

theorem State.poolDbe_steady (s : State) (index : ℕ) (syn : ℕ) :
    Steady s (State.poolDbe s index syn) := by
  unfold State.poolDbe
  repeat' (first
    | with_reducible assumption
    | with_reducible exact Steady.refl _
    | (extract_lets +onlyGivenNames x
       first
       | (refine Steady.via (t := x) ?side (fun hx => ?main); (case' side => subst x); (case' main => (clear_value x; revert x; intro _ _)))
       | subst x)
    | with_reducible apply Steady.trans _ (State.soot__still ..).steady
    | with_reducible apply Steady.trans _ (State.cancelSlot_still ..).steady
    | with_reducible apply Steady.trans _ (State.dropPackets_still ..).steady
    | with_reducible apply Steady.trans _ (State.poisonPair_steady ..)
    | with_reducible apply Steady.trans _ (State.failStep_steady ..)
    | split)

theorem State.linkDbe_still (s : State) (cell : ℕ) :
    Still s (State.linkDbe s cell) := by
  unfold State.linkDbe
  repeat' (first
    | with_reducible assumption
    | with_reducible exact Still.refl _
    | split
    | (with_reducible refine Still.fields ?_ rfl ⟨rfl, rfl⟩; first | with_reducible assumption | with_reducible exact Still.refl _))

theorem State.histDbe_steady (s : State) (index : ℕ) :
    Steady s (State.histDbe s index) := by
  unfold State.histDbe
  repeat' (first
    | with_reducible assumption
    | with_reducible exact Steady.refl _
    | (extract_lets +onlyGivenNames x
       first
       | (refine Steady.via (t := x) ?side (fun hx => ?main); (case' side => subst x); (case' main => (clear_value x; revert x; intro _ _)))
       | subst x)
    | with_reducible apply Steady.trans _ (State.mark_steady ..)
    | with_reducible apply Steady.trans _ (State.soot__still ..).steady
    | split
    | dsimp -zeta only
    | (with_reducible refine Steady.fields ?_ rfl ⟨rfl, rfl⟩; with_reducible assumption))

theorem State.candidateDbe_steady (s : State) :
    Steady s (State.candidateDbe s) := by
  unfold State.candidateDbe
  repeat' (first
    | with_reducible assumption
    | with_reducible exact Steady.refl _
    | (extract_lets +onlyGivenNames x
       subst x)
    | with_reducible apply Steady.trans _ (State.takeFree_steady ..)
    | with_reducible apply Steady.trans _ (State.mark_steady ..)
    | with_reducible apply Steady.trans _ (State.soot__still ..).steady
    | with_reducible apply Steady.foldl _ _ _ (fun _ _ => ?_)
    | with_reducible apply Steady.foldl₁ _ _ _ (fun _ _ => ?_)
    | with_reducible apply Steady.foldl₂ _ _ _ (fun _ _ => ?_)
    | split
    | with_reducible refine Steady.eq₁ (by with_reducible assumption) ?_
    | with_reducible refine Steady.eq₂ (by with_reducible assumption) ?_)

theorem State.rbankDbe_steady (s : State) (index : ℕ) :
    Steady s (State.rbankDbe s index) := by
  unfold State.rbankDbe
  repeat' (first
    | with_reducible assumption
    | with_reducible exact Steady.refl _
    | with_reducible apply Steady.trans _ (State.markSteps_steady ..)
    | with_reducible apply Steady.trans _ (State.formWt_steady ..)
    | with_reducible apply Steady.trans _ (State.setObj_steady ..))

theorem State.layoutDbe_steady (s : State) (index : ℕ) (table : ℕ) :
    Steady s (State.layoutDbe s index table) := by
  unfold State.layoutDbe
  repeat' (first
    | with_reducible assumption
    | with_reducible exact Steady.refl _
    | with_reducible apply Steady.trans _ (State.markSteps_steady ..)
    | with_reducible apply Steady.trans _ (State.setObj_steady ..))

theorem State.groupDbe_still (s : State) (index : ℕ) :
    Still s (State.groupDbe s index) := by
  unfold State.groupDbe
  repeat' (first
    | with_reducible assumption
    | with_reducible exact Still.refl _
    | (extract_lets +onlyGivenNames x
       first
       | (refine Still.via (t := x) ?side (fun hx => ?main); (case' side => subst x); (case' main => (clear_value x; revert x; intro _ _)))
       | subst x)
    | with_reducible apply Still.trans _ (State.soot__still ..)
    | split
    | dsimp -zeta only
    | (with_reducible refine Still.fields ?_ rfl ⟨rfl, rfl⟩; with_reducible assumption))

theorem State.placeDbe_steady (s : State) (index : ℕ) :
    Steady s (State.placeDbe s index) := by
  unfold State.placeDbe
  repeat' (first
    | with_reducible assumption
    | with_reducible exact Steady.refl _
    | (extract_lets +onlyGivenNames x
       first
       | (refine Steady.via (t := x) ?side (fun hx => ?main); (case' side => subst x); (case' main => (clear_value x; revert x; intro _ _)))
       | subst x)
    | with_reducible apply Steady.trans _ (State.setObj_steady ..)
    | with_reducible apply Steady.trans _ (State.markSteps_steady ..)
    | split
    | dsimp -zeta only
    | (with_reducible refine Steady.fields ?_ rfl ⟨rfl, rfl⟩; with_reducible assumption))

theorem State.tableParity_steady (s : State) (index : ℕ) :
    Steady s (State.tableParity s index) := by
  unfold State.tableParity
  repeat' (first
    | with_reducible assumption
    | with_reducible exact Steady.refl _
    | with_reducible apply Steady.trans _ (State.formWt_steady ..)
    | with_reducible apply Steady.trans _ (State.setObj_steady ..)
    | with_reducible apply Steady.trans _ (State.markSteps_steady ..)
    | split)

theorem State.hobParity_steady (s : State) (context : ℕ) :
    Steady s (State.hobParity s context) := by
  unfold State.hobParity
  repeat' (first
    | with_reducible assumption
    | with_reducible exact Steady.refl _
    | with_reducible apply Steady.trans _ (State.markSteps_steady ..))

theorem State.tagDbe_steady (s : State) (index : ℕ) :
    Steady s (State.tagDbe s index) := by
  unfold State.tagDbe
  repeat' (first
    | with_reducible assumption
    | with_reducible exact Steady.refl _
    | (extract_lets +onlyGivenNames x
       first
       | (refine Steady.via (t := x) ?side (fun hx => ?main); (case' side => subst x); (case' main => (clear_value x; revert x; intro _ _)))
       | subst x)
    | with_reducible apply Steady.trans _ (State.soot__still ..).steady
    | with_reducible apply Steady.trans _ (State.declareUnknown_steady ..)
    | with_reducible apply Steady.foldl _ _ _ (fun _ _ => ?_))

theorem State.sootDbe_still (s : State) (index : ℕ) :
    Still s (State.sootDbe s index) := by
  unfold State.sootDbe
  repeat' (first
    | with_reducible assumption
    | with_reducible exact Still.refl _
    | split
    | (with_reducible refine Still.fields ?_ rfl ⟨rfl, rfl⟩; first | with_reducible assumption | with_reducible exact Still.refl _))

theorem State.collParity_steady (s : State) :
    Steady s (State.collParity s) := by
  unfold State.collParity
  repeat' (first
    | with_reducible assumption
    | with_reducible exact Steady.refl _
    | with_reducible apply Steady.trans _ (State.collFail_steady ..)
    | with_reducible apply Steady.trans _ (State.scanFail_steady ..)
    | with_reducible apply Steady.trans _ (State.soot__still ..).steady
    | split)

theorem State.walkUncorr_steady (s : State) (index : ℕ) :
    Steady s (State.walkUncorr s index) := by
  unfold State.walkUncorr
  repeat' (first
    | with_reducible assumption
    | with_reducible exact Steady.refl _
    | (extract_lets +onlyGivenNames x
       subst x)
    | with_reducible apply Steady.trans _ (State.mark_steady ..)
    | with_reducible apply Steady.trans _ (State.soot__still ..).steady
    | split)

theorem State.tokenUncorr_steady (s : State) (e : ℕ) (addr : ℕ) (detail : ℕ) :
    Steady s (State.tokenUncorr s e addr detail) := by
  unfold State.tokenUncorr
  extract_lets ev walks
  split
  · exact State.poisonToken_steady ..
  · split
    · exact State.mark_steady ..
    · exact (State.soot__still ..).steady

theorem State.routeUncorr_steady (s : State) (index : ℕ) :
    Steady s (State.routeUncorr s index) := by
  unfold State.routeUncorr
  extract_lets bs src ev lose x
  have hx : Steady s x :=
    Steady.foldl _ _ (State.count_still ..).steady (fun _ _ => (State.onStep_still ..).steady)
  clear_value x
  split
  · exact hx.trans (State.markSteps_steady ..)
  · exact hx.trans (State.soot__still ..).steady

theorem State.pointerDiffers_still (s : State) (index : ℕ) :
    Still s (State.pointerDiffers s index) := by
  unfold State.pointerDiffers
  extract_lets w
  split
  · exact .refl _
  · exact .fields (.refl _) rfl ⟨rfl, rfl⟩

theorem State.logFailed_steady (s : State) :
    Steady s (State.logFailed s) := by
  unfold State.logFailed
  repeat' (first
    | with_reducible assumption
    | with_reducible exact Steady.refl _
    | with_reducible apply Steady.trans _ (State.logRecord_steady ..)
    | with_reducible apply Steady.trans _ (State.soot__still ..).steady
    | split)

theorem State.arrayError_steady (s : State) (array : Sys2Proof.ArrayId) (index : ℕ) (syn : ℕ) :
    Steady s (State.arrayError s array index syn) := by
  unfold State.arrayError
  repeat' (first
    | with_reducible assumption
    | with_reducible exact Steady.refl _
    | with_reducible apply Steady.trans _ (State.pointerDiffers_still ..).steady
    | with_reducible apply Steady.trans _ (State.ledgerDbe_steady ..)
    | with_reducible apply Steady.trans _ (State.stashDbe_steady ..)
    | with_reducible apply Steady.trans _ (State.poolDbe_steady ..)
    | with_reducible apply Steady.trans _ (State.linkDbe_still ..).steady
    | with_reducible apply Steady.trans _ (State.histDbe_steady ..)
    | with_reducible apply Steady.trans _ (State.rbankDbe_steady ..)
    | with_reducible apply Steady.trans _ (State.layoutDbe_steady ..)
    | with_reducible apply Steady.trans _ (State.groupDbe_still ..).steady
    | with_reducible apply Steady.trans _ (State.placeDbe_steady ..)
    | with_reducible apply Steady.trans _ (State.tableParity_steady ..)
    | with_reducible apply Steady.trans _ (State.hobParity_steady ..)
    | with_reducible apply Steady.trans _ (State.tagDbe_steady ..)
    | with_reducible apply Steady.trans _ (State.sootDbe_still ..).steady
    | with_reducible apply Steady.trans _ (State.collParity_steady ..)
    | with_reducible apply Steady.trans _ (State.walkUncorr_steady ..)
    | with_reducible apply Steady.trans _ (State.tokenUncorr_steady ..)
    | with_reducible apply Steady.trans _ (State.routeUncorr_steady ..)
    | with_reducible apply Steady.trans _ (State.candidateDbe_steady ..)
    | with_reducible apply Steady.trans _ (State.logFailed_steady ..)
    | with_reducible apply Steady.trans _ (State.digestParity_still ..).steady
    | split)

theorem State.foundError_steady (s : State) (e : Sys2Proof.ScrubError) :
    Steady s (State.foundError s e) := by
  unfold State.foundError
  repeat' (first
    | with_reducible assumption
    | with_reducible exact Steady.refl _
    | with_reducible apply Steady.trans _ (State.arrayError_steady ..)
    | with_reducible apply Steady.trans _ (State.count_still ..).steady
    | with_reducible apply Steady.trans _ (State.soot__still ..).steady
    | split)

theorem State.endPass_still (s : State) :
    Still s (State.endPass s) := by
  unfold State.endPass
  repeat' (first
    | with_reducible assumption
    | with_reducible exact Still.refl _
    | with_reducible apply Still.trans _ (State.setObj_still ..)
    | split)

theorem execPatrolScrub_steady (error : Option Sys2Proof.ScrubError) (passEnd : Bool) (s : State) :
    ∃ t, execPatrolScrub error passEnd s = .next t ∧ Steady s t := by
  unfold execPatrolScrub
  refine ⟨_, rfl, ?_⟩
  repeat' (first
    | with_reducible assumption
    | with_reducible exact Steady.refl _
    | with_reducible apply Steady.trans _ (State.foundError_steady ..)
    | with_reducible apply Steady.trans _ (State.endPass_still ..).steady
    | split)

end Sys2Proof.Machine
end

