-- ==== Sys2Proof/Laws/Kept/Window.lean ====
section
/-!
SUPPORT. What the operations of Machine/Window.lean keep (Safety.lean: Still, Steady, or Kept).
-/

namespace Sys2Proof.Machine

theorem State.windowRead_still (s : State) (r : Sys2Proof.OdReq) :
    Still s (State.windowRead s r) := by
  unfold State.windowRead
  repeat' (first
    | with_reducible assumption
    | with_reducible exact Still.refl _
    | (extract_lets +onlyGivenNames x
       subst x)
    | with_reducible apply Still.trans _ (State.emit_still ..)
    | with_reducible apply Still.trans _ (State.takeFree_still ..)
    | split)

theorem State.keepPort_still (s : State) (t : State) (keepData : Bool) :
    Still t (State.keepPort s t keepData) := by
  unfold State.keepPort
  repeat' (first
    | with_reducible assumption
    | with_reducible exact Still.refl _
    | split
    | (with_reducible refine Still.fields ?_ rfl ⟨rfl, rfl⟩; first | with_reducible assumption | with_reducible exact Still.refl _))

theorem State.winOaCmd_kept (s : State) (tag : Sys2Proof.ReqTag) (v : ℕ) :
    Kept s (State.winOaCmd s tag v) := by
  unfold State.winOaCmd
  repeat' (first
    | with_reducible assumption
    | with_reducible exact Kept.refl _
    | with_reducible apply Kept.trans _ (State.keepPort_still ..).kept
    | with_reducible apply Kept.trans _ (State.objectRead_still ..).kept
    | with_reducible apply Kept.trans _ (State.objectWrite_kept ..)
    | with_reducible apply Kept.trans _ (State.count_still ..).kept
    | split)

theorem State.winMbCmd_steady (s : State) (tag : Sys2Proof.ReqTag) (op : ℕ) :
    Steady s (State.winMbCmd s tag op) := by
  unfold State.winMbCmd
  repeat' (first
    | with_reducible assumption
    | with_reducible exact Steady.refl _
    | (extract_lets +onlyGivenNames x
       first
       | (refine Steady.via (t := x) ?side (fun hx => ?main); (case' side => subst x); (case' main => (clear_value x; revert x; intro _ _)))
       | subst x)
    | with_reducible apply Steady.trans _ (State.segRead_still ..).steady
    | with_reducible apply Steady.trans _ (State.segWrite_steady ..)
    | with_reducible apply Steady.trans _ (State.count_still ..).steady
    | with_reducible apply Steady.trans _ (State.keepPort_still ..).steady
    | split
    | dsimp -zeta only
    | (with_reducible refine Steady.fields ?_ rfl ⟨rfl, rfl⟩; with_reducible assumption))

theorem State.winDoorbell_kept (s : State) (tag : Sys2Proof.ReqTag) (key : ℕ) (data : List Sys2Proof.Byte) :
    Kept s (State.winDoorbell s tag key data) := by
  unfold State.winDoorbell
  repeat' (first
    | with_reducible assumption
    | with_reducible exact Kept.refl _
    | with_reducible apply Kept.trans _ (State.objectWrite_kept ..))

theorem State.windowWrite_kept (s : State) (r : Sys2Proof.OdReq) :
    Kept s (State.windowWrite s r) := by
  unfold State.windowWrite
  extract_lets o v w
  refine Kept.cond (Kept.refl s) ?_
  refine Kept.cond (State.count_still ..).kept ?_
  refine Kept.cond (Kept.fields (Kept.refl s) rfl rfl) ?_
  refine Kept.cond (Kept.fields (Kept.refl s) rfl rfl) ?_
  refine Kept.cond (Kept.cond (State.count_still ..).kept (State.winOaCmd_kept ..)) ?_
  refine Kept.cond (State.winDoorbell_kept ..) ?_
  refine Kept.cond (State.winDoorbell_kept ..) ?_
  refine Kept.cond (State.winDoorbell_kept ..) ?_
  refine Kept.cond (State.winMbCmd_steady ..).kept ?_
  refine Kept.cond (Kept.fields (Kept.refl s) rfl rfl) ?_
  refine Kept.cond (Kept.fields (Kept.refl s) rfl rfl) ?_
  refine Kept.cond (Kept.fields (Kept.refl s) rfl rfl) ?_
  refine Kept.cond ?_ (Kept.refl s)
  exact .ofForm rfl rfl rfl fun c => ⟨c.1, c.2.1, c.2.2.1, Memory.write_wf c.2.2.2.1 _ _, c.2.2.2.2⟩

theorem execRead_still (r : Sys2Proof.OdReq) (s : State) :
    ∃ t, execRead r s = .next t ∧ Still s t := by
  unfold execRead
  refine ⟨_, rfl, ?_⟩
  repeat' (first
    | with_reducible assumption
    | with_reducible exact Still.refl _
    | (extract_lets +onlyGivenNames x
       subst x)
    | with_reducible apply Still.trans _ (State.windowRead_still ..)
    | with_reducible apply Still.trans _ (State.objectRead_still ..)
    | split)

theorem execObjectWrite_kept (r : Sys2Proof.OdReq) (s : State) :
    ∃ t, execObjectWrite r s = .next t ∧ Kept s t := by
  unfold execObjectWrite
  refine ⟨_, rfl, ?_⟩
  repeat' (first
    | with_reducible assumption
    | with_reducible exact Kept.refl _
    | with_reducible apply Kept.trans _ (State.windowWrite_kept ..)
    | with_reducible apply Kept.trans _ (State.objectWrite_kept ..)
    | split)

end Sys2Proof.Machine
end

