-- ==== Sys2Proof/Tests/Slice0.lean ====
section
/-!
SUPPORT. Tests: ill-formed terms that WellFormed refuses, the manual's worked numbers, and for the statements of
Certificates/Slice0 states and operands that meet their hypotheses, with what the step then does.
-/

namespace Sys2Proof.Machine

set_option Elab.async false

/-- The state after a command; the state before it where there is none. -/
def after (c : Instr) (s : State) : State :=
  match exec c s with
  | .next t => t
  | _ => s

/-- Objects set, past every check. -/
def setObjs (l : List (Nat × Nat)) (s : State) : State := l.foldl (fun s p => s.setObj p.1 p.2) s

/-- Every object but those listed is as it was. -/
def objsBut (ks : List Nat) (s t : State) : Bool :=
  let drop (x : Tab Nat) : Tab Nat := x.filter (fun p => !ks.contains p.1)
  drop t.objs == drop s.objs

/-- In a mode, everything else as after reset. -/
def inMode (m : Mode) : State := { State.reset with mode := m }

/-- In a phase of kindling. -/
def kindling (n : Nat) : State := { State.reset with kindle := .start true n 0 }

/-- Running, before one instruction that stands at offset 64 of its image. -/
def before (i : List (Nat × Nat)) : State :=
  let s := setObjs [(Obj.RZ_SCHED_BASE, 0x10000), (Obj.RZ_SCHED_LEN, 0x1000)] (inMode .running)
  { s with mem := Memory.write [] 0x10040 (toBytes (packed 64 i)), seq := { Seq.cleared with wait := .fetch, pc := 64 } }

/-- Halted by a refused step, fetched at offset 64. -/
def refused : State :=
  let s := before [(8, 1), (56, 0)]
  { s with seq := { s.seq with wait := .halted 2, steps := 1, fetched := some (s.fetchStep 0) } }

/-- Group 1 of the two engines of package 0: engine 1 hangs from engine 0. -/
def pairGroup : Tab (BitVec 32) := [(4096, packed 32 [(1, 1), (2, 0), (12, 0), (17, 0)]), (4097, packed 32 [(1, 1), (2, 0), (12, 0), (17, 1)])]

/-- The secondary of package 0, in group 1. -/
def leaf (s : State) : State :=
  let s := setObjs [(Obj.RZ_NODE_ID, 1), (Obj.RZ_ROUTE_STORE_CAP, 16)] s
  { s with ident := { s.ident with eng := true }, tables := { s.tables with groups := pairGroup } }

/-- A leaf before a COLL of group 1. -/
def atColl (program : Nat) : State := leaf (before [(8, 3), (8, 1), (8, program), (40, 0)])

/-- A structure with some fields set, the others 0: high bit, low bit, value. -/
def fieldsOf (n : Nat) (l : List (Nat × Nat × Nat)) : BitVec n := l.foldl (fun d x => setFld d x.1 x.2.1 x.2.2) 0

/-- A step that has just been accepted. -/
def newStep (d : BitVec 512) : Step :=
  { desc := d, offset := 64, descOff := 0, ord := 0, t0 := 0, nth := 0
    model := { c := 0, ns := 0, tS := 0, tSs := 0, tPo := 0, tAd := 0, tDi := 0, tRs := 0, tCe := 0, lastGrate := 0, slow := false }
    tag := 0, seed := 0, mask := none, members := [0], pos := 0, line := none, grateAt := none, grateEnd := none, units := 0
    timeRow := []
    scan := { fromBelow := [], sentUp := false, offset := none, group := none, downSent := [], totSent := [], offs := none,
              totals := [], own := none, seen := [], sentAt := 0 }
    posted := false, predicted := false, variant := none, waitVerdict := none, walked := false, walkAt := 0
    dispatched := none, ended := .no, endedAt := none, retired := false, cancelled := false, fence := none, rewind := none
    routeFp := 0, outFp := 0, admitted := 0, ashed := 0, admits := [], routedTokens := 0, sharedClosed := false
    halfZero := false, halfSent := false, slotsCmp := 0, slotsChg := 0, badRoutes := [], pendStats := false, blocks := []
    overrun := false, broken := false, throttle := false, fabRetry := false, resend := false, noticed := false }

/-- Running with a step in bank 0. -/
def inFlight0 (x : Step) : State :=
  let s := before [(8, 6), (56, 0)]
  { s with steps := { b0 := some x, b1 := none }, accepted := 1, seq := { s.seq with nextBank := true } }

/-- STEP_ID 9, batch 5. -/
def id9 : List (Nat × Nat × Nat) := [(479, 448, 9), (447, 436, 5)]

/-- A request that the engine takes: one whole packet, an empty queue, a free port. -/
def rq : ReqTag := { tag := 9, mtag := 0, flags := [(true, true)], queued := 0, busy := false }

/-- An MCTP message in one packet. -/
def onePacket (bs : List Byte) : Msg := .mctp [{ som := true, eom := true, mtag := 0, bytes := bs }]

/-! ### Ill-formed commands, one for each check -/

def noBytes : OdReq := scalarReq .port rq Obj.RZ_TJ 0

theorem test_wf_path : Instr.wf (.bank .doorbell rq) = false ∧ Instr.wf (.bank .window rq) = false ∧
    Instr.wf (.bank .port rq) = true := by decide

theorem test_wf_scalar : Instr.wf (.objectWrite { noBytes with data := List.replicate 9 0 }) = false ∧
    Instr.wf (.objectWrite { noBytes with ic := true }) = false ∧ Instr.wf (.objectWrite { noBytes with path := .doorbell }) = false ∧
    Instr.wf (.read { noBytes with path := .doorbell }) = false ∧ Instr.wf (.objectWrite noBytes) = true := by decide

theorem test_wf_segment : Instr.wf (.segWrite { noBytes with path := .doorbell }) = false ∧
    Instr.wf (.segRead { noBytes with ic := true }) = false ∧ Instr.wf (.segWriteEnd noBytes) = true := by decide

theorem test_wf_window : Instr.wf (.objectWrite { noBytes with path := .window, offset := 0x24, data := [0, 0] }) = true ∧
    Instr.wf (.objectWrite { noBytes with path := .window, offset := 0x25, data := [0, 0] }) = false ∧
    Instr.wf (.read { noBytes with path := .window, offset := 0x10000, len := 8 }) = false ∧
    Instr.wf (.objectWrite { noBytes with path := .port, badOp := some 9 }) = false := by decide

theorem test_wf_packet : Instr.wf (.dieReturn 0 { hdr := 0, payload := [1] }) = false ∧
    Instr.wf (.poolStore (.peer { hdr := 0, payload := [1] }) .clean) = false ∧
    Instr.wf (.arrivalReceipt (.gate { hdr := 0, payload := [1] }) .clean) = false ∧
    Instr.wf (.dieReturn 0 { hdr := 0, payload := List.replicate 64 0 }) = true := by decide

theorem test_wf_counts : Instr.wf (.stepSummaryPost false [(65536, 1)]) = false ∧
    Instr.wf (.stepSummaryPost false [(1, 1), (1, 2)]) = false ∧
    Instr.wf (.scanMessage 0 0 .up 4096 { counts := none, totals := none, variant := none, marker := none }) = false := by decide

theorem test_wf_scan_counts : ScanBody.wf
    { counts := some (List.replicate 65537 0), totals := none, variant := none, marker := none } = false := by
  unfold ScanBody.wf countsOk
  rw [Option.all_some, List.length_replicate]
  rfl

theorem test_wf_numbers : Instr.wf (.presencePulse 0 false) = false ∧ Instr.wf (.stepStartPulse 0 false) = false ∧
    Instr.wf (.getEndpointId { rq with tag := 32 }) = false ∧ Instr.wf (.collTimeout 0 5 0) = false ∧ Instr.wf (.collTimeout 0 1 4096) = false ∧
    Instr.wf (.certaintyRequest 0 0 (List.replicate 17 (0, 0, 0))) = false := by decide

/-! ### Every command -/

theorem test_step_front :
    step { inMode .ready with pending := [.idcode, .halt] } = exec .idcode { inMode .ready with pending := [.halt] } := rfl

theorem test_idle_tick : (match step { inMode .ready with ftime := { value := 117, valid := true, armed := none, before := none } } with
    | .next t => t == { inMode .ready with core := 1, ftime := { value := 118, valid := true, armed := none, before := none } }
    | _ => false) = true := by decide +kernel

theorem test_idle_gated : (match step (inMode .powerFail) with
    | .next t => t == { inMode .powerFail with core := 1 } | _ => false) = true := by decide +kernel

theorem test_idle_off : (match step (inMode .off) with | .next t => t == inMode .off | _ => false) = true := by decide +kernel

theorem test_canonical_reset : State.reset.mem.wf = true ∧ Tabs.wf odDefault State.reset.objs = true := by decide

theorem test_edge : ((after .packageReset (inMode .ready)).mode == .kindling && (after .halt (inMode .ready)).mode == .ready) =
    true := by decide +kernel

theorem test_steady : movesMachine .halt = false ∧ movesMachine .idcode = true := by decide

/-! ### Power, kindling, the banked state -/

theorem test_power_good : (let t := after (.powerGood 0x12CB true false) (inMode .off)
    t.mode == .kindling && t.kindle.phase == 0 && t.ident.location == 0x12CB && t.objs == [] && t.xspi == (inMode .off).xspi) =
    true := by decide +kernel

theorem test_power_removed : (let t := after .powerRemoved { inMode .running with mem := [(5, 1)], lp := [(7, 1)] }
    t.mode == .off && t.mem == [] && t.lp == [] && t.soot == .cleared && t.xspi.commit == none) = true := by decide +kernel

theorem test_package_reset : (let t := after .packageReset { inMode .faulted with
      mem := [(5, 1)], dict := { Dict.cleared with unlockMctp := true } }
    t.mode == .kindling && t.kindle.phase == 1 && t.obj Obj.RZ_STATE_REASON == 7 && !t.dict.unlockMctp &&
    t.mem == [(5, 1)] && t.seq.wait == .none) = true := by decide +kernel

theorem test_phase0 : (let s := kindling 0
    let t := after (.referenceCheck none) s
    t.kindle.phase == 1 && { t with kindle := s.kindle } == s) = true := by decide +kernel

/-- R9's example: rack 300, tray 11, package 5, engine 1. -/
theorem test_node_id : (let s := { kindling 1 with ident := { location := 0x12CBA, eng := true, grade14 := false } }
    let t := after (.nodeIdFormed none) s
    let far := { s with ident := { s.ident with location := 0x1FFFF } }
    let u := after (.nodeIdFormed none) far
    u.obj Obj.RZ_NODE_ID == 0x1FFFF && u.kindle.phase == 2 && decide (511 < (0x20000 : BitVec 32).toNat / 256) &&
    decide (s.ident.location.toNat / 256 ≤ 511) && t.kindle.phase == 2 && t.obj Obj.RZ_NODE_ID == 76987 &&
    objsBut [Obj.RZ_NODE_ID] s t && { t with kindle := s.kindle, objs := s.objs } == s) = true := by decide +kernel

theorem test_phase2 : (let s := { kindling 2 with flue := { Flue.cleared with ledger := [(3, 5)] } }
    let t := after (.marchTest none) s
    t.kindle.phase == 3 && t.flue.ledger == [] && t.pool == .cleared && t.tables.hist == { b0 := [], b1 := [] } &&
    t.tables.groups == [] && t.tables.owner == [] && t.tables.place == { b0 := [], b1 := [] } &&
    { t with kindle := s.kindle, flue := s.flue, pool := s.pool, tables := s.tables } == s) = true := by decide +kernel

theorem test_phase3 : (let s := kindling 3
    let t := after (.romLoads none) s
    t.kindle == { s.kindle with phase := 4 } && t.obj Obj.RZ_PLACE_EPOCH == 0 && t.tables.groups == [] &&
    !t.tables.placed && objsBut [Obj.RZ_PLACE_EPOCH] s t &&
    t.stores.coreMem == [] && { t with kindle := s.kindle, objs := s.objs, tables := s.tables, stores := s.stores } == s) = true := by decide +kernel

theorem test_phase4 : (let s := setObjs [(Obj.RZ_LAYOUT_STATE, 1), (Obj.RZ_BATCH_EPOCH, 9)] (kindling 4)
    let t := after (.unitSelfTests none none) s
    t.kindle.phase == 5 && t.obj Obj.RZ_LAYOUT_STATE == 0 && t.obj Obj.RZ_BATCH_EPOCH == 0 && t.obj Obj.RZ_LJOB_HEAD == 0 &&
    !t.ftime.valid && t.fabric.ops == [] && !t.fabric.ports.b0.up && t.soot == s.soot && t.log == s.log &&
    objsBut [Obj.RZ_LAYOUT_STATE, Obj.RZ_LJOB_HEAD, Obj.RZ_BATCH_EPOCH] s t && t.mem == s.mem &&
    t.bellows == .cleared && t.digests == .cleared && t.tables.owner == []) = true := by decide +kernel

/-- The landing map lies in memory; a pipe pair differs. -/
theorem test_phase4_memory : (let s := setObjs [(Obj.RZ_BULK_SEEN_BASE, 0x1000), (Obj.RZ_SOOT_AUTO, 0)] (kindling 4)
    let s := { s with mem := Memory.write [] 0xFFE [1, 2, 3, 4] }
    let t := after (.unitSelfTests none none) s
    let u := after (.unitSelfTests (some 9) (some 7)) s
    t.kindle.phase == 5 && (t.mem.read 0xFFE 4).map (·.toNat) == [1, 2, 0, 0] && u.mode == .faulted &&
    u.obj Obj.RZ_STATE_REASON == 10 && u.obj Obj.RZ_FN_MISMATCH == 1 && u.obj Obj.RZ_KINDLE_FAIL / 2 ^ 24 == 4) =
    true := by decide +kernel

/-- A check of a phase fails with a check number. -/
def failsAt (n c : Nat) (i : Instr) : Bool :=
  let t := after i (setObjs [(Obj.RZ_SOOT_AUTO, 0)] (kindling n))
  t.mode == .faulted && t.obj Obj.RZ_KINDLE_FAIL == n * 2 ^ 24 + c && t.obj Obj.RZ_STATE_REASON == 10 &&
  (t.obj Obj.RZ_ALERT_CAUSE).testBit 3

theorem test_check_fails : (failsAt 0 5 (.referenceCheck (some 5)) && failsAt 1 1 (.nodeIdFormed (some 1)) &&
    failsAt 2 1 (.marchTest (some 1)) && failsAt 3 1 (.romLoads (some (1, 7)))) = true := by decide +kernel

theorem test_check_fails_late : (failsAt 4 1 (.unitSelfTests (some 1) none) &&
    failsAt 6 0xFFFFFF (.dieLinkTraining (some 0xFFFFFF)) && failsAt 7 0 (.lpddrTraining (some 0))) = true := by decide +kernel

theorem test_restore_defaults : (let s := setObjs [(Obj.RZ_TRAY_MASTER, 1)] (kindling 5)
    let t := after .persistRestore s
    s.xspi.newestValid (s.obj Obj.RZ_LOG_SEG) .objects == none && t.kindle == { s.kindle with phase := 6 } &&
    t.mode == .kindling && t.objs.all (fun p => odIsRo p.1 || keptObjs.contains p.1)) = true := by decide +kernel

/-- A stored set of one record, of the object named, with the value 1. -/
def oneSet (key : Nat) : List Byte :=
  let body := (persistRows.filter (fun r => r.key == key)).flatMap (setRecord (setObjs [(key, 1)] State.reset))
  setHeader 1 body ++ body

/-- Phase 5 before that set; the record of its commit. -/
def withSet (key : Nat) : CommitRecord × State :=
  let c := mkRecord 1 .objects 0 (oneSet key)
  (c, { kindling 5 with xspi := { Xspi.blank with
    nor := Memory.write [] (regionAddr (State.reset.obj Obj.RZ_LOG_SEG) .objects 0) (oneSet key)
    sectors := { b0 := [c], b1 := [] } } })

theorem test_restore_record : (let s := (withSet Obj.RZ_TRAY_MASTER).2
    let seg := s.obj Obj.RZ_LOG_SEG
    let c := (withSet Obj.RZ_TRAY_MASTER).1
    let t := after .persistRestore s
    s.xspi.newestValid seg .objects == some c && !s.keepsObj Obj.RZ_TRAY_MASTER &&
    readSet s.defaultObjs false (s.xspi.content seg c) == .good [{ key := Obj.RZ_TRAY_MASTER, value := 1, bytes := [] }] &&
    t.kindle.phase == 6 && t.obj Obj.RZ_TRAY_MASTER == 1 && t.objs.length == 1) = true := by decide +kernel

/-- RZ_LOG_EN, which a kindling from phase 1 keeps. -/
theorem test_restore_kept : (let k := setObjs [(Obj.RZ_LOG_EN, 0)] (withSet Obj.RZ_LOG_EN).2
    let s := { k with kindle := { k.kindle with fromOff := false } }
    let t := after .persistRestore s
    let u := after .persistRestore k
    (s.xspi.newestValid (s.obj Obj.RZ_LOG_SEG) .objects).isSome && s.keepsObj Obj.RZ_LOG_EN && !k.keepsObj Obj.RZ_LOG_EN &&
    s.obj Obj.RZ_LOG_EN == 0 && t.obj Obj.RZ_LOG_EN == 0 && u.obj Obj.RZ_LOG_EN == 1 && t.kindle.phase == 6) = true := by
  decide +kernel

/-- The credits granted to eight dies. -/
def grants8 : List Msg := (List.range 8).map (fun p => .dieCredit p 512)

theorem test_training : (let s := kindling 6
    let t := after (.dieLinkTraining none) s
    let u := after (.lpddrTraining none) s
    t.kindle == { s.kindle with diesDone := true, phase := 7 } && t.egress == grants8 &&
    { t with kindle := s.kindle, egress := s.egress } == s &&
    u.kindle == { s.kindle with lpDone := true, phase := 6 } && { u with kindle := s.kindle } == s) = true := by decide +kernel

theorem test_training_ends : (let k := kindling 6
    let s := { k with kindle := { k.kindle with lpDone := true } }
    let t := after (.dieLinkTraining none) s
    let u := { k with kindle := { k.kindle with diesDone := true, phase := 7 } }
    let v := after (.lpddrTraining none) u
    t.kindle == { s.kindle with diesDone := true, phase := 8 } && t.egress == grants8 ++ [.peer (.present 0)] && !s.kindle.peerGone &&
    { t with kindle := s.kindle, egress := s.egress } == s &&
    v.kindle == { u.kindle with lpDone := true, phase := 8 } && v.egress == [.peer (.present 0)]) = true := by decide +kernel

theorem test_package_barrier : (let s := { kindling 8 with kindle := { (kindling 8).kindle with peerGone := true } }
    let heard := { s.kindle with peerGone := false }
    let t := after (.packageBarrier 0) s
    let u := after (.packageBarrier 2) s
    let v := after .packageBarrierTimeout s
    s.role == 0 && t.kindle == { heard with phase := 9 } && { t with kindle := s.kindle } == s &&
    u.kindle == { heard with held := true } && (u.obj Obj.RZ_ALERT_CAUSE).testBit 8 && u.mode == .kindling &&
    v.kindle == { s.kindle with held := true } && (v.obj Obj.RZ_ALERT_CAUSE).testBit 8) = true := by decide +kernel

theorem test_package_barrier_early : (let early (n : Nat) : Bool :=
      let t := after (.packageBarrier 3) (kindling n)
      t.kindle == { (kindling n).kindle with peerRole := some 3 } && { t with kindle := (kindling n).kindle } == kindling n
    early 1 && early 7) = true := by decide +kernel

/-- A peer that was lost is back. -/
theorem test_peer_back : (let s := inMode .ready
    let s := { s with kindle := { s.kindle with peerGone := true }, seq := { s.seq with refuse := true } }
    let t := after (.packageBarrier 0) s
    s.active && !t.kindle.peerGone && !t.seq.refuse && t.egress == [.peer (.present 0)] &&
    { t with kindle := s.kindle, seq := s.seq, egress := s.egress } == s) = true := by decide +kernel

theorem test_tray_master : (let s := setObjs [(Obj.RZ_TRAY_MASTER, 1)] (kindling 9)
    let t := after .trayMasterListenEnd s
    let u := after (.presencePulseTimer false) t
    let v := after (.presencePulse 48 false) s
    t.kindle == { s.kindle with driving := true } && t.egress == [.syncOut 64] &&
    { t with kindle := s.kindle, egress := s.egress } == s &&
    u.egress == t.egress ++ [.syncOut 64] && { u with egress := t.egress } == t &&
    v.mode == .faulted && v.obj Obj.RZ_STATE_REASON == 10) = true := by decide +kernel

theorem test_presence_pulse : (let s := kindling 9
    let good (h : Nat) : Bool :=
      let t := after (.presencePulse h false) s
      t.mode == .ready && t.obj Obj.RZ_STATE_REASON == 1 && t.obj Obj.RZ_SYNC_PRESENCE == 1 &&
      (t.obj Obj.RZ_ALERT_CAUSE).testBit 4 &&
      objsBut [Obj.RZ_STATE_REASON, Obj.RZ_SYNC_PRESENCE, Obj.RZ_KINDLE_TIME, Obj.RZ_ALERT_CAUSE] s t
    let none_ (h : Nat) : Bool := { after (.presencePulse h false) s with pins := s.pins } == s
    let u := after .trayBarrierTimeout s
    good 48 && good 80 && none_ 47 && none_ 81 && u.mode == .faulted && u.obj Obj.RZ_STATE_REASON == 10) = true := by
  decide +kernel

/-- A master that drives takes its own pulse only; one that listens takes none. -/
theorem test_presence_master : (let s := setObjs [(Obj.RZ_TRAY_MASTER, 1)] (kindling 9)
    let d := { s with kindle := { s.kindle with driving := true } }
    let ends (s : State) (own : Bool) : Mode := (after (.presencePulse 48 own) s).mode
    ends d true == .ready && ends d false == .faulted && ends s true == .faulted && ends s false == .faulted) = true := by
  decide +kernel

theorem test_bank : (let s := { inMode .ready with mem := [(1, 1)] }
    let t := after (.bank .port rq) s
    s.job == none && !s.xOpen && t.mode == .banked && t.obj Obj.RZ_STATE_REASON == 5 && t.fabric.ops == [] &&
    !t.fabric.ports.b0.up && t.mem == s.mem && t.lp == s.lp && objsBut [Obj.RZ_STATE_REASON] s t) = true := by decide +kernel

/-- BANK clears the landing map where it lies, and nothing beside it; BUSY while a job or a persistence command is open. -/
theorem test_bank_landing : (let m : Memory := Memory.write [] 0x0FFF [1, 2]
    let s := State.setObj { inMode .ready with mem := m } Obj.RZ_BULK_SEEN_BASE 0x1000
    let c : Commit := { kind := .soot, auto := false, copy := 0, bytes := [1], arg := 0 }
    let busy := { inMode .ready with xspi := { (inMode .ready).xspi with commit := some c } }
    (after (.bank .port rq) s).mem == [(0x0FFF, 1)] && busy.xOpen && (after (.bank .port rq) busy).dict.oaStatus == 8 &&
    (after (.bank .port rq) busy).mode == .ready) = true := by decide +kernel

theorem test_unbank : (let s := setObjs [(Obj.RZ_TJ, 1099)] (inMode .banked)
    let s := { s with kindle := { s.kindle with peerGone := true } }
    let t := after (.unbank .port rq) s
    let u := after .unbankReady t
    decide (i32 (s.obj Obj.RZ_TJ) < 1100) && t.kindle == { s.kindle with unbank := true } && t.mode == .banked &&
    objsBut [] s t && u.mode == .ready && u.obj Obj.RZ_STATE_REASON == 6 && !u.kindle.unbank && !u.kindle.peerGone &&
    objsBut [Obj.RZ_STATE_REASON] t u) = true := by decide +kernel

theorem test_state_commands_refused : (
    let refuses (i : Instr) (s : State) (st : Byte) : Bool :=
      let t := after i s
      t.dict.oaStatus == st && objsBut [Obj.RZ_OD_REFUSED] s t && t.mode == s.mode
    refuses (.bank .port rq) (inMode .kindling) 7 && refuses (.unbank .port rq) (inMode .faulted) 7 &&
    refuses (.unbank .port rq) (setObjs [(Obj.RZ_TJ, 1100)] (inMode .banked)) 7 &&
    refuses (.objectWrite (scalarReq .port rq Obj.RZ_STATE_CMD 4)) (inMode .running) 10 &&
    refuses (.objectWrite (scalarReq .port rq Obj.RZ_STATE_CMD 0)) (inMode .faulted) 10 &&
    refuses (.unbank .port rq) (inMode .ready) 7 && refuses (.objectWrite (scalarReq .port rq Obj.RZ_STATE_CMD 255)) (inMode .ready) 10) = true := by decide +kernel

theorem test_reset : (let s := inMode .faulted
    let t := after (.reset .port rq) s
    let c : Commit := { kind := .soot, auto := true, copy := 0, bytes := [1], arg := 0 }
    let u := { s with xspi := { s.xspi with commit := some c } }
    let v := after (.reset .port rq) u
    t.mode == .kindling && t.kindle.phase == 1 && t.obj Obj.RZ_STATE_REASON == 7 && t.mem == s.mem && t.soot == s.soot &&
    v.xspi == { u.xspi with heldReset := true } && v.mode == .faulted && objsBut [] u v) = true := by decide +kernel

/-! ### The sequencer -/

theorem test_start : (let s := inMode .ready
    let t := after (.start .port rq) s
    let u := setObjs [(Obj.RZ_LJOB_TAIL, 1)] s
    let v := after (.start .port rq) u
    t.seq == { s.seq with checking := true } && t.mode == .ready && objsBut [] s t &&
    u.obj Obj.RZ_LJOB_HEAD != u.obj Obj.RZ_LJOB_TAIL && v.seq == { s.seq with startPending := true } && objsBut [] u v) =
    true := by decide +kernel

theorem test_start_refused : (let s := { inMode .ready with seq := { Seq.cleared with checking := true } }
    let t := after .startChecksDone s
    s.logReady [160] && !s.digestLost && s.startCode == 3 && t.obj Obj.RZ_SEQ_STATE == 3 && t.mode == .ready && t.seq == .cleared &&
    objsBut [Obj.RZ_SEQ_STATE] s t) = true := by decide +kernel

/-- An image of one HALT, its SHA-256 in place. -/
def haltImage : List Byte :=
  let hdr (d : Nat) : List Byte := toBytes (packed 512 [(32, 0x48454152), (16, 3), (16, 0), (32, 72), (32, 64), (32, 0),
    (32, 0), (256, d), (64, 0)])
  let halt := toBytes (packed 64 [(8, 6), (56, 0)])
  let img := hdr 0 ++ halt
  img.take 8 ++ sha256 img ++ img.drop 40

theorem test_start_passes : (let s := setObjs [(Obj.RZ_SCHED_BASE, 0x10000), (Obj.RZ_SCHED_LEN, 72)] (inMode .ready)
    let s := { s with mem := Memory.write [] 0x10000 haltImage, seq := { Seq.cleared with checking := true } }
    let t := after .startChecksDone s
    let lost := { s with digests := { s.digests with parity := 2 } }
    let u := after .startChecksDone lost
    lost.digestLost && u.obj Obj.RZ_SEQ_STATE == 4 && u.mode == .ready && s.logReady [160] && !s.digestLost && s.startCode == 0 && !s.flag Obj.RZ_REPLAY_EN && t.mode == .running && t.obj Obj.RZ_STATE_REASON == 2 &&
    t.obj Obj.RZ_SEQ_STATE == 1 && t.seq.wait == .fetch && t.seq.pc == 64 && t.seq.frames == [] &&
    t.seq.regs == [0, 0, 0, 0] && t.seq.steps == 0 && t.log.ord == some 0 && t.mem == s.mem) = true := by decide +kernel

theorem test_halt_retired : (let s := { inMode .running with seq := { Seq.cleared with wait := .ending, reason := 3 } }
    let t := after .haltRetired s
    !s.inFlight && t.mode == .ready && t.obj Obj.RZ_STATE_REASON == 3 && t.obj Obj.RZ_SEQ_STATE == 0 &&
    t.seq.wait == .none && t.mem == s.mem) = true := by decide +kernel

/-- LOOP 1, COUNT 3, BODY 2; with COUNT 0; with BODY 0. -/
theorem test_loop : (let i (n b : Nat) : List (Nat × Nat) := [(8, 2), (2, 1), (20, n), (18, 0), (16, b)]
    let s := before (i 3 2)
    let t := after .loop s
    let u := after .loop (before (i 0 2))
    let v := after .loop (before (i 3 0))
    s.atOp 0x02 && { t with seq := s.seq } == s && t.seq.pc == 72 && t.seq.regs == [0, 0, 0, 0] &&
    t.seq.frames == [{ first := 72, last := 88, reg := 1, left := 2 }] && u.seq.pc == 88 && u.seq.frames == [] &&
    v.seq.pc == 72 && v.seq.frames == [] && v.seq.regs == [0, 2, 0, 0]) = true := by decide +kernel

theorem test_halt : (let s := before [(8, 6), (56, 0)]
    let t := after .halt s
    s.atOp 0x06 && t.seq.wait == .ending && t.seq.reason == 3 && t.seq.fetched == none && t.mode == .running) = true := by
  decide +kernel

theorem test_mark : (let s := setObjs [(Obj.RZ_STATUS_RING, 0x800), (Obj.RZ_STATUS_RING_LEN, 4), (Obj.RZ_STATUS_HEAD, 5),
      (Obj.RZ_STATUS_TAIL, 5)] (before [(8, 5), (24, 0), (32, 0xABCD)])
    let f : Frame := { first := 32, last := 72, reg := 2, left := 4 }
    let s := { s with seq := { s.seq with frames := [f] } }
    let t := after .mark s
    s.atOp 0x05 && t.obj Obj.RZ_STATUS_HEAD == 6 && objsBut [Obj.RZ_STATUS_HEAD, Obj.RZ_STATUS_TAIL, Obj.RZ_STATUS_LOST] s t &&
    t.seq.wait == .fetch && t.seq.pc == 32 && t.seq.frames == [{ f with left := 3 }] && t.seq.regs == [0, 0, 1, 0]) =
    true := by decide +kernel

theorem test_step_fetch : (let s := before [(8, 1), (32, 0), (24, 0)]
    let t := after .step s
    s.atOp 0x01 && s.stepReachable && t.seq.wait == .step && t.seq.fetched == some (s.fetchStep 0) && t.seq.steps == 1 &&
    t.seq.barrier.own && t.seq.pc == 64 && t.egress == [.peer .arrival] && { t with seq := s.seq, egress := s.egress } == s) =
    true := by decide +kernel

theorem test_barrier_arrival : (let s := before [(8, 6), (56, 0)]
    let t := after (.barrierArrival .peer) s
    !s.flag Obj.RZ_TRAY_MASTER && t == { s with seq := { s.seq with barrier := { s.seq.barrier with peer := true } } }) =
    true := by decide +kernel

/-- Other packages' arrivals are kept; at the tray master the last one drives the pulse. -/
theorem test_tray_arrivals : (let b : Barrier := { Barrier.cleared with own := true, peer := true, told := true, packages := [1, 2, 3, 4, 5, 6] }
    let s := State.setObj (inMode .running) Obj.RZ_TRAY_MASTER 1
    let s := { s with seq := { s.seq with barrier := b } }
    let early := { s with seq := { s.seq with barrier := { b with packages := [1] } } }
    let kept (x : State) (ps : List Nat) : State := { x with seq := { x.seq with barrier := { b with packages := ps } } }
    !s.startHolds && s.otherPackages == [1, 2, 3, 4, 5, 6, 7] &&
    after (.barrierArrival (.package 5)) early == kept s [1, 5] &&
    after (.barrierArrival (.package 7)) s == { s with
      seq := { s.seq with barrier := { b with packages := [1, 2, 3, 4, 5, 6, 7], fired := true } }
      egress := [.syncOut 8] }) = true := by decide +kernel

theorem test_barrier_release : (let s := { inMode .running with
      ftime := { value := 120, valid := true, armed := none, before := none },
      seq := { Seq.cleared with barrier := { Barrier.cleared with release := some 120, needRelease := true } } }
    after .startBarrierRelease s == { s with seq := .cleared }) = true := by decide +kernel

theorem test_start_pulse : (let s := before [(8, 1), (56, 0)]
    let f := s.fetchStep 0
    let s := { s with core := 77, seq := { s.seq with wait := .step, fetched := some f, barrier := { Barrier.cleared with own := true } } }
    let good (h : Nat) : Bool :=
      let t := after (.stepStartPulse h false) s
      t.seq.fetched == some { f with t0 := some 77, pulse := true } && t.seq.wait == .step &&
      t.obj Obj.RZ_SYNC_PULSES == 1 && { t with seq := s.seq, objs := s.objs, pins := s.pins } == s
    good 4 && good 16 && { after (.stepStartPulse 3 false) s with pins := s.pins } == s &&
    { after (.stepStartPulse 17 false) s with pins := s.pins } == s) = true := by
  decide +kernel

theorem test_host_answers : (let s := refused
    let t := after (.skip .port rq) s
    let u := after (.retry .port rq) s
    let v := after (.abort .port rq) s
    s.logReady [8] && s.hearsRow .port rq && t.seq.wait == .fetch && t.seq.pc == 72 && t.seq.fetched == none && t.seq.refused &&
    t.obj Obj.RZ_SEQ_STATE == 1 && t.mode == .running && objsBut [Obj.RZ_SEQ_STATE] s t &&
    u.seq.wait == .step && u.seq.pc == 64 && u.seq.fetched == some (s.fetchStep 0) && u.seq.barrier.own &&
    u.obj Obj.RZ_SEQ_STATE == 1 && objsBut [Obj.RZ_SEQ_STATE] s u &&
    v.seq.wait == .ending && v.seq.reason == 4 && v.seq.fetched == none && v.obj Obj.RZ_SEQ_STATE == 1) = true := by
  decide +kernel

/-! ### Collectives and the placement commit -/

theorem test_leaf : HangsFromPeer (atColl 1) 1 1 := by
  refine ⟨by decide +kernel, by decide, by decide +kernel, by decide +kernel, by decide +kernel, 0, by decide +kernel,
    by decide +kernel⟩

/-- A COLL of a group that the engine is not in. -/
def skipsColl (n : Nat) (i : Instr) : Bool :=
  let s := before [(8, 3), (8, 7), (8, n), (40, 0)]
  let t := after i s
  s.posIn 7 s.node == none && t.seq.wait == .fetch && t.seq.pc == 72 && t.colls == s.colls && t.egress == [] && objsBut [] s t

theorem test_coll_elsewhere : (skipsColl 1 .collBarrier && skipsColl 0x81 .collFusedBarrier && skipsColl 2 .collStats &&
    skipsColl 3 .collRouteGather && skipsColl 4 .collRouteRestore) = true := by decide +kernel

theorem test_coll_barrier : (let s := atColl 1
    let t := after .collBarrier s
    t.seq.wait == .coll 1 1 && t.seq.pc == 64 && t.egress == [.peer (.coll 1 1 .up 1 .arrive)] &&
    (match t.colls.now with | some c => c.group == 1 && c.program == 1 && c.pos == 1 && c.sentUp | none => false)) =
    true := by decide +kernel

theorem test_coll_fused : (let s := atColl 0x81
    let s := { s with seq := { s.seq with refused := true } }
    let t := after .collFusedBarrier s
    let u := after .collFusedBarrier (atColl 0x81)
    t.seq.wait == .coll 1 0x81 && t.egress == [.peer (.coll 1 0x81 .up 1 .arrive)] &&
    !(atColl 0x81).scanDone (atColl 0x81).lastBank && u.seq.wait == .coll 1 0x81 && u.egress == []) = true := by decide +kernel

theorem test_coll_stats : (let s := atColl 2
    let t := after .collStats s
    t.seq.wait == .coll 1 2 && t.colls == s.colls && t.egress == []) = true := by decide +kernel

/-- STATS waits at a leaf for its beginning. -/
def atStats : State :=
  let s := leaf (inMode .running)
  { s with seq := { s.seq with wait := .coll 1 2 } }

theorem test_stats_begin : HangsFromPeer atStats 1 1 ∧ atStats.seq.wait = .coll 1 2 ∧ atStats.peerOpen = true ∧
    atStats.colls.now = none ∧ atStats.colls.early = [] ∧ atStats.steps = { b0 := none, b1 := none } := by
  refine ⟨⟨by decide +kernel, by decide, by decide +kernel, by decide +kernel, by decide +kernel, 0, by decide +kernel,
    by decide +kernel⟩, rfl, by decide +kernel, rfl, rfl, rfl⟩

theorem test_coll_routes : (let t := after .collRouteGather (atColl 3)
    let u := after .collRouteRestore (atColl 4)
    t.seq.wait == .fetch && t.seq.pc == 72 && t.colls.now == none &&
    (match t.egress with | [.peer (.coll 1 3 .up 1 (.stream bs))] => bs.length == 16 | _ => false) &&
    u.seq.wait == .coll 1 4 && u.egress == [] &&
    (match u.colls.now with | some c => c.pos == 1 && !c.sentUp | none => false)) = true := by decide +kernel

/-- The primary of package 0, first member of group 1. -/
def first (s : State) : State :=
  let s := setObjs [(Obj.RZ_NODE_ID, 0), (Obj.RZ_ROUTE_STORE_CAP, 16), (Obj.RZ_ROUTE_STORE_STAGE, 0x800000)] s
  { s with tables := { s.tables with groups := pairGroup } }

/-- It stands before a COLL of group 1. -/
def firstAt (program : Nat) : State := first (before [(8, 3), (8, 1), (8, program), (40, 0)])

theorem test_first : LeadsPeer (firstAt 1) 1 := by
  refine ⟨by decide +kernel, by decide +kernel, 1, by decide +kernel, by decide +kernel⟩

/-- The collective that is in progress: its program, position and values. -/
def collShows (s : State) (program : Nat) (got : List (Nat × CollBody)) : Bool :=
  s.seq.wait == .coll 1 program && s.seq.pc == 64 && s.egress == [] &&
  (match s.colls.now with | some c => c.program == program && c.pos == 0 && c.got == got && !c.sentUp | none => false)

theorem test_first_waits : (let f := firstAt 0x81
    let f := { f with seq := { f.seq with refused := true } }
    (firstAt 1).peerOpen && collShows (after .collBarrier (firstAt 1)) 1 [(0, .arrive)] &&
    collShows (after .collFusedBarrier f) 0x81 [(0, .arrive)] && (after .collStats (firstAt 2)).seq.wait == .coll 1 2 &&
    collShows (after .collRouteGather (firstAt 3)) 3 []) = true := by decide +kernel

theorem test_first_restore : (let s := { firstAt 4 with lp := [(3, 9)] }
    let t := after .collRouteRestore s
    let bs : List Byte := [0, 0, 0, 9] ++ List.replicate 12 0
    s.storeAddr 1 == 0 && t.seq.wait == .fetch && t.seq.pc == 72 && t.colls.now == none && t.lp == s.lp &&
    t.egress == [.peer (.coll 1 4 .down 1 (.stream bs))] && t.mem == s.mem.write 0x800000 bs) = true := by decide +kernel

theorem test_first_stats_begin : (let s := first (inMode .running)
    { s with seq := { s.seq with wait := .coll 1 2 } }).steps = { b0 := none, b1 := none } ∧
    LeadsPeer (first (inMode .running)) 1 := by
  refine ⟨rfl, by decide +kernel, by decide +kernel, 1, by decide +kernel, by decide +kernel⟩

/-- The other's arrival ends the barrier, whose release goes down; its stream is stored. -/
theorem test_first_ends : (let s := after .collBarrier (firstAt 1)
    let t := after (.collMessage 1 1 .up 1 .arrive) s
    let u := after .collRouteGather (firstAt 3)
    let v := after (.collMessage 1 3 .up 1 (.stream [7])) u
    let ended (x : State) : Bool := x.colls.now == none && x.seq.wait == .fetch && x.seq.pc == 72
    ended t && t.egress == [.peer (.coll 1 1 .down 0 (.release none))] && objsBut [] s t && !s.seq.barrier.own && s.active &&
    ended v && v.lp == [(0, 7)] && v.egress == []) = true := by decide +kernel

/-- STATS in progress at the first member, its own block in. -/
def firstStats : State :=
  let s := first (inMode .running)
  let c : Coll := { group := 1, program := 2, pos := 0, got := [(0, .stats [])], sentUp := false, sentAt := 0, begun := true }
  { s with seq := { s.seq with wait := .coll 1 2 }, colls := { s.colls with now := some c } }

theorem test_first_stats : firstStats.active = true ∧ firstStats.peerOpen = true ∧ firstStats.seq.frames = [] ∧
    firstStats.seq.barrier.own = false ∧ firstStats.seq.wait = .coll 1 2 ∧ LeadsPeer firstStats 1 := by
  refine ⟨by decide +kernel, by decide +kernel, rfl, rfl, rfl, by decide +kernel, by decide +kernel, 1, by decide +kernel,
    by decide +kernel⟩

theorem test_block_length : (List.replicate statBytes (0 : Byte)).length = statBytes := List.length_replicate

/-- Words of two blocks: a U32 pair that saturates, one that does not, and an FP32 pair. -/
theorem test_sum_words : sumWords 2 [0xFF, 0xFF, 0xFF, 0xFF, 1, 2, 0, 0] [1, 0, 0, 0, 2, 1, 0, 0] =
      ([0xFF, 0xFF, 0xFF, 0xFF, 3, 3, 0, 0], 1) ∧
    sumFloats 1 [0, 0, 0x80, 0x3F] [0, 0, 0, 0x40] = [0, 0, 0x40, 0x40] := by decide +kernel

theorem test_coll_message_early : (let s := inMode .running
    let t := after (.collMessage 1 1 .down 0 (.release none)) s
    t.colls.early == [{ group := 1, program := 1, dir := .down, pos := 0, body := .release none }] &&
    { t with colls := s.colls } == s) = true := by decide +kernel

theorem test_coll_release : (let s := after .collBarrier (atColl 1)
    let t := after (.collMessage 1 1 .down 0 (.release none)) s
    t.colls.now == none && t.seq.wait == .fetch && t.seq.pc == 72 && { t with colls := s.colls, seq := s.seq, stores := s.stores } == s) =
    true := by decide +kernel

theorem test_coll_timeout : (let s := after .collBarrier (atColl 1)
    let s := { s with core := s.obj Obj.RZ_COLL_TIMEOUT }
    let t := after (.collTimeout 1 1 0) s
    (match s.colls.now with
     | some c => (s.collExpects c).contains 0 && decide (c.sentAt + s.obj Obj.RZ_COLL_TIMEOUT ≤ s.core) | none => false) &&
    t.colls.now == none && t.seq.wait == .halted 6 && t.obj Obj.RZ_SEQ_STATE == 6 && t.obj Obj.RZ_COLL_FAIL == 1 &&
    t.obj Obj.RZ_COLL_LAST_FAIL == 2 ^ 24 + 2 ^ 16 && (t.obj Obj.RZ_ALERT_CAUSE).testBit 1) = true := by decide +kernel

theorem test_place_go : (let s := inMode .ready
    let c : PCommit := { input := false, begun := false, image := [], code := 0, crc := 0 }
    let t := after (.placeGo .port rq 0x80) s
    let u := inMode .running
    let v := after (.placeGo .port rq 0) u
    t.obj Obj.RZ_PLACE_STATE == 2 && t.colls.commit == some c && objsBut [Obj.RZ_PLACE_STATE] s t &&
    v.seq == { u.seq with held := { u.seq.held with place := true } } && v.colls == u.colls && objsBut [] u v) = true := by
  decide +kernel

theorem test_place_input : (let s := before [(8, 4), (8, 1), (48, 0)]
    let s := { s with seq := { s.seq with held := { s.seq.held with place := true } } }
    let t := after .inputPlacementCommit s
    s.atInput 1 && t.obj Obj.RZ_PLACE_STATE == 2 && t.seq.wait == .commit && !t.seq.held.place &&
    t.colls.commit == some { input := true, begun := false, image := [], code := 0, crc := 0 } &&
    objsBut [Obj.RZ_PLACE_STATE] s t) = true := by decide +kernel

/-- A leaf whose commit of an empty image may begin. -/
def committing : State :=
  let s := setObjs [(Obj.RZ_PLACE_GROUP, 1)] (leaf (inMode .ready))
  { s with colls := { s.colls with commit := some { input := false, begun := false, image := [], code := 0, crc := 0 } } }

theorem test_place_begin : (let s := committing
    let t := after .placeCommitBegin s
    s.peerOpen && s.commitMay && s.loads && plCheck 0 0 [] == 3 && t.obj Obj.RZ_PLACE_STATE == 3 && t.tables == s.tables &&
    t.egress == [.peer (.coll 1 0x80 .up 1 (.vote false 0))] &&
    t.colls.commit == some { input := false, begun := true, image := [], code := 3, crc := 0 }) = true := by decide +kernel

theorem test_place_decision : (let s := after .placeCommitBegin committing
    let t := after (.placeDecision false) s
    let u := after (.placeDecision true) s
    s.logReady [128] && !s.seq.barrier.startDue && t.obj Obj.RZ_PLACE_STATE == 9 && t.colls.commit == none && t.colls.now == none && t.tables == s.tables &&
    objsBut [Obj.RZ_PLACE_STATE] s t && u.obj Obj.RZ_PLACE_STATE == 1 && u.obj Obj.RZ_PLACE_EPOCH == 0 && u.colls.commit == none &&
    u.tables.placed) = true := by decide +kernel

/-! ### Inputs -/

theorem test_rbank_go : (let s := inMode .ready
    let l (c : Byte) : Load := { ctrl := c, src := 0, len := 0, image := none, input := false }
    let t := after (.rbankFullLoad .port rq 1) s
    let u := after (.rbankHeaderLoad .port rq 0) s
    t.obj Obj.RZ_RBANK1_STATE == 2 && t.tables == { s.tables with rload := some (l 0x81) } && objsBut [Obj.RZ_RBANK1_STATE] s t &&
    u.obj Obj.RZ_RBANK0_STATE == 0 && u.tables == { s.tables with rload := some (l 0x82) }) = true := by decide +kernel

theorem test_rbank_held : (let s := inMode .running
    let t := after (.rbankFullLoad .port rq 0) s
    let u := after (.rbankHeaderLoad .port rq 1) s
    let held (t : State) (c : Byte) : Bool :=
      t.seq == { s.seq with held := { s.seq.held with rbank := some { ctrl := c, src := 0, len := 0, image := none, input := false } } }
    held t 0x80 && t.tables == s.tables && objsBut [] s t && held u 0x83 && objsBut [] s u) = true := by decide +kernel

theorem test_rbank_input : (let s := before [(8, 4), (8, 2), (48, 0)]
    let l : Load := { ctrl := 0x81, src := 5, len := 7, image := none, input := false }
    let s := { s with seq := { s.seq with held := { s.seq.held with rbank := some l } } }
    let t := after .inputRbankLoad s
    s.logReady [32, 32, 32] && s.atInput 2 && s.bankUnused true && t.seq.wait == .load && t.seq.pc == 64 && t.seq.held.rbank == none &&
    t.tables == { s.tables with rload := some { l with input := true } } && t.obj Obj.RZ_RBANK1_STATE == 2 &&
    objsBut [Obj.RZ_RBANK1_STATE] s t) = true := by decide +kernel

theorem test_rbank_done : (let s := before [(8, 4), (8, 2), (48, 0)]
    let l : Load := { ctrl := 0x80, src := 0, len := 0, image := none, input := true }
    let s := { s with seq := { s.seq with wait := .load }, tables := { s.tables with rload := some l } }
    let t := after (.rbankLoadDone false) s
    let u := after (.rbankLoadDone true) s
    s.loads && s.logReady [128, 32] && bankCheck 0 [] == 3 && t.obj Obj.RZ_RBANK0_STATE == 3 && t.tables.rload == none &&
    t.tables.rbanks.b0.bytes == [] && t.tables.rbanks.b1 == s.tables.rbanks.b1 && objsBut [Obj.RZ_RBANK0_STATE] s t &&
    t.seq.wait == .fetch && t.seq.pc == 72 && u.obj Obj.RZ_RBANK0_STATE == 3 && u.tables.rload == none) = true := by
  decide +kernel

theorem test_rbank_header_done : (let s := setObjs [(Obj.RZ_RBANK1_STATE, 2)] (inMode .ready)
    let s := { s with tables := { s.tables with
      rload := some { ctrl := 0x83, src := 0x10000, len := 64, image := none, input := false } } }
    let t := after (.rbankLoadDone true) s
    s.loads && s.logReady [128, 32] && t.obj Obj.RZ_RBANK1_STATE == 1 && t.tables.rload == none && t.tables.rbanks.b1.bytes == []) = true := by decide +kernel

/-- The start of an image for function slot 11. -/
def slotState (m : Mode) : State :=
  let s := setObjs [(Obj.RZ_FTAB_SRC, 0x20000), (Obj.RZ_FTAB_LEN, 64)] (inMode m)
  { s with mem := Memory.write [] 0x20000 (toBytes (fieldsOf 512 [(471, 468, 11)])) }

theorem test_ftab_go : (let s := slotState .ready
    let t := after (.ftabLoad .port rq 0) s
    let img := s.readMem 0x20000 64
    let l : Load := { ctrl := 0x80, src := 0x20000, len := 64, image := none, input := false }
    let u := after (.ftabLoad .port rq 0) (slotState .running)
    s.logReady [64] && FtHdr.slot (ftHdr img) == 11 && t.obj Obj.RZ_FTAB11_STATE == 2 && t.tables.fload == some { l with image := some img } &&
    objsBut [Obj.RZ_FTAB11_STATE] s t && u.seq.held.ftab == some l && u.tables == s.tables) = true := by decide +kernel

theorem test_ftab_done : (let s := after (.ftabLoad .port rq 0) (slotState .ready)
    let t := after .ftabLoadDone s
    s.logReady [32, 32] && ftCheck 64 (s.readMem 0x20000 64) == (3, 0xFFFF) && t.obj Obj.RZ_FTAB11_STATE == 3 && t.tables.fload == none &&
    t.slotImage 11 == [] && t.obj Obj.RZ_FTAB_LAST_FAIL == 11 * 2 ^ 24 + 3 * 2 ^ 16 + 0xFFFF &&
    objsBut [Obj.RZ_FTAB11_STATE, Obj.RZ_FTAB_LAST_FAIL] s t) = true := by decide +kernel

theorem test_ftab_input : (let s := before [(8, 4), (8, 5), (48, 0)]
    let l : Load := { ctrl := 0x80, src := 0x20000, len := 64, image := none, input := false }
    let s := { s with seq := { s.seq with held := { s.seq.held with ftab := some l } },
                      mem := s.mem.write 0x20000 (toBytes (fieldsOf 512 [(471, 468, 12)])) }
    let t := after .inputFtabLoad s
    s.logReady [4160] && s.atInput 5 && s.slotUnused 12 && t.seq.wait == .load && t.seq.held.ftab == none && t.obj Obj.RZ_FTAB12_STATE == 2 &&
    objsBut [Obj.RZ_FTAB12_STATE] s t) = true := by decide +kernel

theorem test_seed_and_mask : (let s := setObjs [(Obj.RZ_SKIP_SRC, 0x100), (Obj.RZ_SKIP_LEN, 64)] (inMode .ready)
    let t := after (.noiseSeedWrite .port rq 7) s
    let u := after (.skipMaskGo .port rq 0) s
    s.logReady [8] && s.logReady (maskSizes 8) && s.peerOpen && s.primary && t.obj Obj.RZ_NOISE_SEED == 7 && t.seq == s.seq && t.egress == [.peer (.hostInput (.seed 7))] &&
    objsBut [Obj.RZ_NOISE_SEED] s t && u.seq == { s.seq with mask := some (maskOf 0x100 64) } &&
    u.egress == [.peer (.hostInput (.mask 0x100 64))] && objsBut [] s u) = true := by decide +kernel

theorem test_seed_and_mask_held : (let s := inMode .running
    let t := after (.noiseSeedWrite .port rq 7) s
    let u := after (.skipMaskGo .port rq 0) s
    let p := { s with ident := { s.ident with eng := true } }
    let v := after (.hostInputForward (.seed 7)) p
    let w := after (.hostInputForward (.mask 4 64)) p
    t.seq.held.seed == some 7 && objsBut [] s t && u.seq.held.mask == some (maskOf 0 0) &&
    v == { p with seq := { p.seq with held := { p.seq.held with seed := some 7 } } } &&
    w == { p with seq := { p.seq with held := { p.seq.held with mask := some (maskOf 4 64) } } }) = true := by decide +kernel

theorem test_input_seed : (let s := before [(8, 4), (8, 3), (48, 0)]
    let k := { s with seq := { s.seq with keptSeeds := [5, 6] } }
    let h := { s with seq := { s.seq with held := { s.seq.held with seed := some 8 } } }
    let t := after .inputSeed k
    let u := after .inputSeed h
    s.logReady [8] && s.atInput 3 && t.obj Obj.RZ_NOISE_SEED == 5 && t.seq.keptSeeds == [6] && t.seq.pc == 72 && t.seq.wait == .fetch &&
    u.obj Obj.RZ_NOISE_SEED == 8 && u.seq.held.seed == none && u.seq.pc == 72) = true := by decide +kernel

theorem test_input_mask : (let s := before [(8, 4), (8, 4), (48, 0)]
    let m := maskOf 0x100 64
    let k := { s with seq := { s.seq with keptMasks := [m] } }
    let h := { s with seq := { s.seq with held := { s.seq.held with mask := some m } } }
    let t := after .inputSkipMask k
    let u := after .inputSkipMask h
    s.maskReady m && s.atInput 4 && t.seq.mask == some m && t.seq.keptMasks == [] && t.seq.pc == 72 && objsBut [] k t &&
    u.seq.mask == some m && u.seq.held.mask == none && u.seq.pc == 72 && objsBut [] h u) = true := by decide +kernel

/-- A step with three variants that waits for its verdict, in repeatable timing or not. -/
def awaiting (rep : Nat) : State :=
  setObjs [(Obj.RZ_TIMING_REPEAT, rep)]
    (inFlight0 (newStep (fieldsOf 512 (id9 ++ [(279, 278, 1), (277, 274, 3), (273, 271, 2), (95, 64, 100)]))))

/-- The word for step 9, batch 5, variant v. -/
def word (v : Nat) : BitVec 64 := packed 64 [(32, 9), (12, 5), (16, 0), (4, v)]

theorem test_verdict : (let s := awaiting 1
    let t := after (.verdict .port rq (word 1)) s
    let u := after (.verdict .port rq (word 2)) (awaiting 0)
    s.logReady [8] && s.primary && !s.kindle.peerGone && s.wordStep (word 1) == some (false, (s.steps.b0).getD (newStep 0)) &&
    (match t.steps.b0 with | some x => x.waitVerdict == some 1 && x.variant == none | none => false) && objsBut [] s t &&
    t.egress.head? == some (.peer (.hostInput (.verdict (word 1) true))) &&
    (match u.steps.b0 with | some x => x.variant == some 2 && x.scan.own == some 2 | none => false)) = true := by decide +kernel

theorem test_verdict_discarded : (let s := inMode .running
    let p := { s with ident := { s.ident with eng := true } }
    let gone (s : State) (i : Instr) : Bool := (after i s).obj Obj.RZ_VERDICT_DISCARD == 1
    s.wordStep (word 0) == none && gone s (.verdict .port rq (word 0)) && gone s (.hostCancel .port rq (word 0)) &&
    gone p (.hostInputForward (.verdict (word 0) true)) && gone p (.hostInputForward (.cancel (word 0)))) = true := by decide +kernel

/-- A word after its limit, at the primary and as the secondary is told it. -/
theorem test_verdict_word_late : (let s := { awaiting 0 with core := 101 }
    let t := after (.verdict .port rq (word 1)) s
    let p := { awaiting 0 with ident := { (awaiting 0).ident with eng := true } }
    let u := after (.hostInputForward (.verdict (word 1) false)) p
    s.wordStep (word 1) == some (false, (s.steps.b0).getD (newStep 0)) && t.obj Obj.RZ_VERDICT_DISCARD == 1 && t.steps == s.steps &&
    t.egress.head? == some (.peer (.hostInput (.verdict (word 1) false))) && !p.primary &&
    u.obj Obj.RZ_VERDICT_DISCARD == 1 && u.steps == p.steps) = true := by decide +kernel

theorem test_verdict_late : (let s := { awaiting 0 with core := 101 }
    let t := after .verdictTimeout s
    t.obj Obj.RZ_VERDICT_LATE == 1 && t.egress == [.peer (.hostInput (.verdictTimeout 9 5))] &&
    (match t.steps.b0 with | some x => x.variant == some 2 && !x.cancelled | none => false)) = true := by decide +kernel

theorem test_host_cancel : (let s := awaiting 0
    let t := after (.hostCancel .port rq (word 0)) s
    let p := { s with ident := { s.ident with eng := true } }
    let u := after (.hostInputForward (.cancel (word 0))) p
    (match t.steps.b0 with | some x => x.cancelled && x.ended == .cancelled | none => false) &&
    t.obj Obj.RZ_BATCH_EPOCH == 1 && (match u.steps.b0 with | some x => x.cancelled | none => false)) = true := by decide +kernel

/-! ### The object dictionary -/

theorem test_scalar_write : (let s := inMode .ready
    let r := scalarReq .port rq Obj.RZ_SCHED_BASE 0x1000
    let t := after (.objectWrite r) s
    odKey r == Obj.RZ_SCHED_BASE && writeStatus s r (s.ownRules (odKey r) (odVal r)) == St.ok &&
    t.obj Obj.RZ_SCHED_BASE == 0x1000 && objsBut [Obj.RZ_SCHED_BASE] s t && t.dict.oaStatus == 0 && t.dict.oaCount == 1 &&
    { t with objs := s.objs, dict := s.dict } == s) = true := by decide +kernel

theorem test_scalar_write_refused : (let s := inMode .ready
    let r := scalarReq .port rq Obj.RZ_TJ 5
    let t := after (.objectWrite r) s
    writeStatus s r (s.ownRules (odKey r) (odVal r)) == St.access && t.obj Obj.RZ_OD_REFUSED == 1 &&
    objsBut [Obj.RZ_OD_REFUSED] s t && t.dict.oaStatus == 3 && { t with objs := s.objs, dict := s.dict } == s) = true := by
  decide +kernel

theorem test_role_refused : (let s := inMode .ready
    let r := scalarReq .port rq Obj.RZ_PHASE_ROLE 3
    let q := scalarReq .port rq Obj.RZ_PHASE_ROLE 1
    let k := inMode .kindling
    let t := after (.objectWrite r) s
    let u := after (.objectWrite q) k
    let v := after (.objectWrite q) s
    odKey r == Obj.RZ_PHASE_ROLE && odVal r == 3 && t.obj Obj.RZ_PHASE_ROLE == 0 && t.obj Obj.RZ_OD_REFUSED == 1 &&
    u.obj Obj.RZ_PHASE_ROLE == 0 && u.obj Obj.RZ_OD_REFUSED == 1 && v.obj Obj.RZ_PHASE_ROLE == 1 &&
    v.obj Obj.RZ_OD_REFUSED == 0) = true := by decide +kernel

/-- A write of OA_CMD in the register window; a request over MCTP. -/
theorem test_role_window : (let w : OdReq := { noBytes with path := .window, offset := 0x110, data := leBytes 8 2 }
    let d := { Dict.cleared with oaAddr := BitVec.ofNat 64 Obj.RZ_PHASE_ROLE, oaData := 3 }
    let s := { inMode .ready with dict := d }
    let k := { inMode .kindling with dict := { d with oaData := 1 } }
    let t := after (.objectWrite w) s
    leNat w.data == 2 && fld s.dict.oaAddr 23 0 == Obj.RZ_PHASE_ROLE && t.obj Obj.RZ_PHASE_ROLE == 0 &&
    t.obj Obj.RZ_OD_REFUSED == 1 && t.dict.oaStatus == 10 && { t with objs := s.objs, dict := s.dict } == s &&
    (after (.objectWrite w) k).dict.oaStatus == 7 &&
    (inMode .ready).hears (scalarReq .mctp rq Obj.RZ_PHASE_ROLE 3) true) = true := by decide +kernel

theorem test_read : readStatus (scalarReq .mctp rq Obj.RZ_TJ 0) = St.ok := by
  have h : badRequest (scalarReq .mctp rq Obj.RZ_TJ 0) false = false := by simp [badRequest, scalarReq]
  rw [readStatus, h]
  decide +kernel

theorem test_read_refused : readStatus (scalarReq .mctp rq Obj.RZ_STATE_CMD 0) = St.access := by
  have h : badRequest (scalarReq .mctp rq Obj.RZ_STATE_CMD 0) false = false := by simp [badRequest, scalarReq]
  rw [readStatus, h]
  decide +kernel

/-- RZ_TJ over the object port; the requests of both tests above are answered. -/
theorem test_read_port : (let s := setObjs [(Obj.RZ_TJ, 0x12345678)] (inMode .ready)
    let t := after (.read (scalarReq .port rq Obj.RZ_TJ 0)) s
    s.hears (scalarReq .mctp rq Obj.RZ_TJ 0) true && s.hears (scalarReq .mctp rq Obj.RZ_STATE_CMD 0) true &&
    s.hears (scalarReq .port rq Obj.RZ_TJ 0) true && t.dict.oaData == 0x12345678 && t.dict.oaStatus == 0 &&
    { t with dict := s.dict } == s) = true := by decide +kernel

/-- A segment of a domain over the mailbox. -/
def segReq (path : Path) (key offset : Nat) (data : List Byte) : OdReq :=
  { scalarReq path rq key 0 with len := BitVec.ofNat 16 data.length, offset := BitVec.ofNat 32 offset, data := data }

theorem test_seg_read : segReadStatus (inMode .ready) (segReq .mctp Obj.RZ_OWNER_TABLE 0 [0, 0, 0, 0]) = St.ok := by
  have h : badRequest (segReq .mctp Obj.RZ_OWNER_TABLE 0 [0, 0, 0, 0]) true = false := by
    simp [badRequest, segReq, scalarReq]
  rw [segReadStatus, h]
  decide +kernel

/-- One request that fails no check of Table 12-6, then one more at a time. -/
theorem test_ascending : (let s := inMode .running
    let own : OwnRules := { state := true, busy := true, value := false }
    let r := scalarReq .port rq Obj.RZ_SEQ_CMD 2
    (odRow (odKey r)).isSome && writeStatus s { r with rsv := 1 } own == 1 && writeStatus s r own == 8 &&
    writeStatus s r { own with busy := false } == 10 && writeStatus s r .plain == 0 &&
    writeStatus { s with log := { s.log with replay := true } } r own == 5 &&
    writeStatus (inMode .kindling) r own == 7 &&
    writeStatus s (scalarReq .port rq Obj.RZ_COLL_TIMEOUT 2000000) own == 6) = true := by decide +kernel

theorem test_seg_write : (let s := setObjs [(Obj.RZ_DOMAIN_STAGE, 0x40000)] (inMode .ready)
    let r := segReq .port Obj.RZ_OWNER_TABLE 0 [1, 2, 3, 4]
    let t := after (.segWrite r) s
    s.hears r false && !s.reachesAbandoned r && segWriteStatus s r false == St.ok && t.mem == s.mem.write 0x40000 [1, 2, 3, 4] && t.tables == s.tables &&
    objsBut [] s t && t.dict.xfer == some { path := .port, key := Obj.RZ_OWNER_TABLE, len := 4 }) = true := by decide +kernel

/-- All of a domain but its last bytes has been staged. -/
def staged (key len : Nat) (m : Mode) : State :=
  let s := setObjs [(Obj.RZ_DOMAIN_STAGE, 0x40000)] (inMode m)
  { s with dict := { s.dict with xfer := some { path := .port, key := key, len := len } } }

theorem test_seg_write_end : (segWriteStatus (staged Obj.RZ_OWNER_TABLE 262140 .ready)
    (segReq .port Obj.RZ_OWNER_TABLE 262140 [1, 2, 3, 4]) true == St.ok) = true := by decide +kernel

theorem test_expert_digest : (let r := segReq .port Obj.RZ_EXPERT_WDIGEST 28 [1, 2, 3, 4]
    let s := staged Obj.RZ_EXPERT_WDIGEST 28 .ready
    let t := after (.expertWdigestWrite r) s
    let u := staged Obj.RZ_EXPERT_WDIGEST 28 .running
    let v := after (.expertWdigestWrite r) u
    s.logReady [32, 32, 32] && segWriteStatus s r true == St.ok && t.digests.wdigest == List.replicate 28 0 ++ [1, 2, 3, 4] && t.seq == s.seq &&
    segWriteStatus u r true == St.ok && v.digests == u.digests && v.seq.held.wdigest == some t.digests.wdigest) = true := by
  decide +kernel

theorem test_domain_timeout : (let s := staged Obj.RZ_OWNER_TABLE 4 .ready
    after .domainTransferTimeout s == { s with dict := { s.dict with
      xfer := none, abandoned := [{ path := .port, key := Obj.RZ_OWNER_TABLE, len := 4 }] } }) = true := by decide +kernel

theorem test_abandoned : (let s := { inMode .ready with dict := { Dict.cleared with
      abandoned := [{ path := .mctp, key := Obj.RZ_OWNER_TABLE, len := 4 }] } }
    let r := segReq .mctp Obj.RZ_OWNER_TABLE 4 [1, 2, 3, 4]
    s.hears r false && s.reachesAbandoned r && (odRow (odKey r)).isSome &&
    s.dict.forget .mctp Obj.RZ_OWNER_TABLE == Dict.cleared && (s.dict.forget .mctp Obj.RZ_GROUP_TABLE) == s.dict) = true := by
  decide +kernel

theorem test_unlock : (let s := inMode .ready
    let t := after (.expertUnlock .port rq 0x4F50454E) s
    let u := after (.expertUnlock .port rq 1) t
    t.dict.unlockBand && !t.dict.unlockMctp && t.obj Obj.RZ_UNLOCK_FAIL == 0 && !u.dict.unlockBand &&
    u.obj Obj.RZ_UNLOCK_FAIL == 1 && objsBut [Obj.RZ_UNLOCK_FAIL] t u) = true := by decide +kernel

theorem test_alert_ack : (let s := setObjs [(Obj.RZ_ALERT_CAUSE, 0x16)] (inMode .faulted)
    let t := after (.alertAck .port rq 0x106) s
    t.obj Obj.RZ_ALERT_CAUSE == 0x10 && objsBut [Obj.RZ_ALERT_CAUSE] s t) = true := by decide +kernel

theorem test_mctp_eid : (let s := inMode .ready
    let t := after (.setEndpointId rq 0 254) s
    let u := after (.setEndpointId rq 1 7) s
    t.obj Obj.RZ_MCTP_EID == 254 && t.egress == [onePacket [0, 9, 1, 0, 0, 254, 0]] && { t with objs := s.objs, egress := [] } == s &&
    u.egress == [onePacket [0, 9, 1, 2]] && { u with egress := [] } == s &&
    (after (.setEndpointId rq 1 8) s).obj Obj.RZ_MCTP_EID == 8 && after (.setEndpointId rq 0 255) s == u) = true := by decide +kernel

theorem test_mctp_control : (let s := inMode .ready
    let tells (i : Instr) (m : List Byte) : Bool := (after i s).egress == [onePacket m]
    tells (.getEndpointId rq) [0, 9, 2, 0, 0, 0, 0] && tells (.getMctpVersionSupport rq 0xFF) [0, 9, 4, 0, 1, 0xF1, 0xF3, 0xFF, 0] &&
    tells (.getMctpVersionSupport rq 5) [0, 9, 4, 0x80] && tells (.getMessageTypeSupport { rq with tag := 0x15 }) [0, 0x15, 5, 0, 1, 0x7F] &&
    tells (.getVendorDefinedMessageSupport rq 1) [0, 9, 6, 2] && tells (.errorUnsupportedCmd rq 0x44) [0, 9, 0x44, 5] &&
    (after (.dynamicAddressAssigned 0x55) s).obj Obj.RZ_I3C_DYN_ADDR == 0x55) = true := by decide +kernel

theorem test_digest_phases : (let s := inMode .ready
    let t := after (.digestPhase1 .port rq) s
    let u := after (.digestPhase2 .port rq) s
    t.digests == { s.digests with phase1 := if s.phase1Ok then 1 else 3 } && t.mem == s.mem && objsBut [] s t &&
    u.digests == { s.digests with phase2 := if s.phase2Ok then 1 else 3 } && objsBut [] s u) = true := by decide +kernel

theorem test_digest_error : (let s := { inMode .ready with digests := { Digests.cleared with phase1 := 1, parity := 2 } }
    let u := { inMode .ready with digests := { Digests.cleared with phase2 := 1 } }
    s.digestLost && after (.digestPhaseDone false) s == { s with digests := { s.digests with phase1 := 3, parity := 0 } } &&
    u.fetched .digest && after (.digestPhaseDone true) u == { u with digests := { u.digests with phase2 := 3 } }) = true := by
  decide +kernel

/-- Both phases before their sound end: phase 1 with tensor 0 in the one block 0; phase 2. -/
theorem test_digest_ends : (let s := { inMode .ready with
      digests := { Digests.cleared with phase1 := 1, inputSet := [0, 255] }
      tables := { State.reset.tables with
        tensor := [(0, fieldsOf 128 [(127, 127, 1), (122, 115, 2), (100, 86, 1), (85, 59, 1)])]
        owner := [(0, fieldsOf 128 [(127, 127, 1), (104, 102, 1)])] } }
    let u := { inMode .ready with digests := { Digests.cleared with phase2 := 1 } }
    let t := after (.digestPhaseDone false) u
    s.inputHandles == [0] && TRec.nblk (s.tensor 0) == 1 && TRec.firstBlock (s.tensor 0) == 0 && !s.ident.eng && !s.digestLost &&
    samePackage (OEnt.owner (s.ownerEnt 0)) s.node && u.fetched .digest && t.digests.phase2 == 2) = true := by decide +kernel

/-! ### Persistence -/

/-- With the hold-up energy that any commit needs. -/
def charged (m : Mode) : State :=
  let s := setObjs [(Obj.RZ_HOLDUP_MJ, 1000000), (Obj.RZ_LOG_SEG, 65536)] (inMode m)
  { s with pins := { s.pins with holdup := true } }

/-- A commit fits the hold-up energy (R335). -/
def fits (s : State) (n : Nat) : Bool :=
  s.pins.holdup && decide (3500 + 42 * ceilDiv n 1024 ≤ 10 * s.obj Obj.RZ_HOLDUP_MJ)

theorem test_clear : (let s := charged .ready
    let t := after (.clear .port rq) s
    let c : Commit := { kind := .empty, auto := false, copy := s.commitCopy .empty, bytes := emptySet, arg := 0 }
    !s.xOpen && fits s emptySet.length && t.obj Obj.RZ_PERSIST_STATE == 1 && t.xspi == { s.xspi with commit := some c }) =
    true := by decide +kernel

theorem test_edit : (let s := charged .ready
    let s := { s with dict := { s.dict with edit := emptySet } }
    let t := after (.edit .port rq) s
    let u := after (.edit .port rq) (charged .banked)
    fits s emptySet.length && readSet s true emptySet == .good [] && t.obj Obj.RZ_PERSIST_STATE == 1 && readSet s true [] == .bad 0 &&
    u.obj Obj.RZ_PERSIST_STATE == 4 && u.obj Obj.RZ_PERSIST_LAST == 0 && (u.obj Obj.RZ_ALERT_CAUSE).testBit 6) = true := by
  decide +kernel

theorem test_save : (let s := charged .ready
    fits s s.objectSet.length && (after (.save .port rq) s).obj Obj.RZ_PERSIST_STATE == 1) = true := by decide +kernel

theorem charged_fits (n : Nat) (h : n ≤ 1000000) : fits (charged .ready) n = true := by
  have hp : (charged .ready).pins.holdup = true := by decide +kernel
  have hm : (charged .ready).obj Obj.RZ_HOLDUP_MJ = 1000000 := by decide +kernel
  simp only [fits, hp, hm, ceilDiv, Bool.true_and, decide_eq_true_eq]
  omega

theorem itemBytes_length_le (w : Nat) (f : Nat → List Byte) (o n : Nat) : (itemBytes w f o n).length ≤ n := by
  simp only [itemBytes, slice, List.length_take]
  omega

theorem placementImage_length_le (s : State) (h : (List.range 256).filter s.groupNonEmpty = []) :
    s.placementImage.length ≤ 524352 := by
  have hl (f : Nat → List Byte) := itemBytes_length_le 8 f 0 524288
  have hn : s.placementImage.length = 64 + (itemBytes 8
      (tabItem (s.tables.place.get (s.obj Obj.RZ_PLACE_EPOCH % 2 == 1))) 0 524288).length := by
    simp only [State.placementImage, h, List.length_append, length_toBytes, List.flatMap_nil, List.length_nil, Nat.add_zero]
  rw [hn]
  exact Nat.add_le_add_left (hl _) 64

theorem sootSnapshot_length_le (s : State) (n : Nat) : (s.sootSnapshot n).length ≤ 32832 := by
  rw [State.sootSnapshot, List.length_append, length_toBytes]
  exact Nat.add_le_add_left (itemBytes_length_le ..) 64

/-- Images without groups, and soot snapshots, fit. -/
theorem test_place_save : fits (charged .ready) (charged .ready).placementImage.length = true :=
  charged_fits _ (Nat.le_trans (placementImage_length_le _ (by decide +kernel)) (by decide))

theorem test_soot_snap : fits (charged .ready) ((charged .ready).sootSnapshot 0).length = true :=
  charged_fits _ (Nat.le_trans (sootSnapshot_length_le _ _) (by decide))

theorem test_log_commands : (let s := charged .ready
    let s := setObjs [(Obj.RZ_XSPI_ARG, 1)] { s with xspi := { s.xspi with logHeld := 2 } }
    let t := after (.logFree .port rq) s
    let u := after (.logFree .port rq) (charged .ready)
    let v := after (.logRead .port rq) s
    let w := after (.logRead .port rq) (charged .ready)
    t.xspi.commit == some { kind := .free, auto := false, copy := 0, bytes := [], arg := 2 } && t.obj Obj.RZ_XSPI_STATE == 1 &&
    u.obj Obj.RZ_XSPI_STATE == 5 && u.xspi == (charged .ready).xspi && v.obj Obj.RZ_XSPI_STATE == 2 && v.xspi.read.isSome &&
    w.obj Obj.RZ_XSPI_STATE == 5) = true := by decide +kernel

theorem test_place_commands : (let s := charged .ready
    let t := after (.placeLoad .port rq) s
    let c := mkRecord 1 .placement 0 []
    let u := { s with xspi := { s.xspi with sectors := { b0 := [], b1 := [c] } } }
    let v := after (.placeLoad .port rq) u
    s.xspi.newestValid 65536 .placement == none && t.obj Obj.RZ_XSPI_STATE == 5 && t.xspi == s.xspi &&
    u.xspi.newestValid 65536 .placement == some c && v.obj Obj.RZ_XSPI_STATE == 2 && v.xspi.read.isSome) = true := by
  decide +kernel

theorem test_soot_commands : (let s := charged .banked
    let c := mkRecord 1 .soot 0 [0, 0]
    let s := { s with xspi := { s.xspi with sectors := { b0 := [c], b1 := [] } } }
    let t := after (.sootRead .port rq) s
    newestOf (s.xspi.records.filter (fun r => r.region == .soot && r.copy == s.obj Obj.RZ_XSPI_ARG)) == some c &&
    t.obj Obj.RZ_XSPI_STATE == 2 && t.xspi.read == some { load := false, dst := 0, bytes := [0, 0] }) = true := by decide +kernel

/-- A commit of two bytes of soot is under way. -/
def committingSoot : State :=
  let s := charged .ready
  { s with xspi := { s.xspi with commit := some { kind := .soot, auto := false, copy := 3, bytes := [7, 8], arg := 0 } } }

theorem test_commit_done : (let s := committingSoot
    let t := after (.persistCommitDone true 0) s
    let u := after (.persistCommitDone false 0) s
    let v := after (.persistCommitDone true 0) { s with xspi := { s.xspi with heldReset := true } }
    !(s.obj Obj.RZ_CLK_LOST).testBit 22 && t.xspi.commit == none && t.obj Obj.RZ_XSPI_STATE == 3 &&
    t.xspi.records == [mkRecord 1 .soot 3 [7, 8]] &&
    t.xspi.nor == Memory.write [] (regionAddr 65536 .soot 3) [7, 8] && u.obj Obj.RZ_XSPI_STATE == 6 &&
    u.xspi.records == [] && u.xspi.nor == [] && v.mode == .kindling && v.kindle.phase == 1 && v.obj Obj.RZ_STATE_REASON == 7) =
    true := by decide +kernel

theorem test_retry : (let s := charged .ready
    let c : Commit := { kind := .soot, auto := true, copy := 0, bytes := [7], arg := 0 }
    let s := { s with xspi := { s.xspi with retry := [c] } }
    let t := after .autoCommitRetry s
    fits s 1 && t.xspi == { s.xspi with retry := [], commit := some { c with copy := s.commitCopy .soot } }) = true := by
  decide +kernel

theorem test_segment_full : (let s := charged .ready
    let s := { s with xspi := { s.xspi with closed := [0], logHeld := s.logSlots } }
    let t := after .logSegmentCommit s
    t.obj Obj.RZ_XSPI_STATE == 7 && objsBut [Obj.RZ_XSPI_STATE] s t && { t with objs := s.objs } == s) = true := by
  decide +kernel

theorem test_segment : (let s := setObjs [(Obj.RZ_LOG_LEN, 0x1000), (Obj.RZ_LOG_SEG, 64)] (charged .ready)
    let s := { s with xspi := { s.xspi with closed := [0] } }
    let t := after .logSegmentCommit s
    fits s 64 && decide (s.xspi.logHeld < s.logSlots) && t.obj Obj.RZ_XSPI_STATE == 1 && t.xspi.closed == []) = true := by decide +kernel

theorem test_read_done : (let s := charged .ready
    let s := { s with xspi := { s.xspi with read := some { load := true, dst := 0x100, bytes := [1, 2] } } }
    let t := after .xspiReadDone s
    t.mem == [(0x100, 1), (0x101, 2)] && t.xspi.read == none && t.obj Obj.RZ_XSPI_STATE == 3 && t.obj Obj.RZ_PLACE_LEN == 2 &&
    objsBut [Obj.RZ_XSPI_STATE, Obj.RZ_PLACE_LEN] s t) = true := by decide +kernel

theorem test_holdup : (let s := charged .ready
    let t := after .holdupDrop s
    let u := after .holdupDrop { committingSoot with steps := { b0 := some (newStep 0), b1 := none } }
    s.readsPins && t.obj Obj.RZ_HOLDUP_DROPS == 1 && !t.pins.holdup && objsBut [Obj.RZ_HOLDUP_DROPS] s t &&
    u.mode == .powerFail && u.shown == .ready && u.xspi.commit == committingSoot.xspi.commit && !u.inFlight && u.seq.wait == .none &&
    after .holdupOkRise t == { t with pins := { t.pins with holdup := true } }) = true := by decide +kernel

/-! ### Layouts and jobs -/

/-- A valid record of BF16 rows of 256 channels in the block `b`, ten of them. -/
def tensorAt (b : Nat) : TRec := fieldsOf 128 [(127, 127, 1), (122, 115, 2), (114, 101, b), (100, 86, 1), (85, 59, 10)]

/-- The valid entry of a row-major block of tensor `h`, 16 MiB past that of the one before. -/
def blockOf (h : Nat) : OEnt := fieldsOf 128 [(127, 127, 1), (104, 102, 1), (95, 88, h), (87, 56, h * 65536)]

/-- READY with tensors 0 and 1 committed, and a job in the ring. -/
def jobState (j : LJob) : State :=
  let s := setObjs [(Obj.RZ_LAYOUT_STATE, 1), (Obj.RZ_LJOB_RING, 0x8000000), (Obj.RZ_LJOB_RING_LEN, 2), (Obj.RZ_LJOB_HEAD, 1),
    (Obj.RZ_LJOB_TAIL, 2)] (inMode .ready)
  { s with
    tables := { s.tables with tensor := [(0, tensorAt 0), (1, tensorAt 1)], owner := [(0, blockOf 0), (1, blockOf 1)] }
    mem := Memory.write (Memory.write (Memory.write [] (512 * 3) [0x80, 0x3F, 0, 0x40]) (0x1000000 + 512 * 7) [0, 0x40])
      0x8000040 (toBytes j) }

/-- The index list that stands in memory behind a state's job. -/
def withIndex (i : Nat) (s : State) : State := { s with mem := Memory.write s.mem 0x9000000 (leBytes 4 i) }

/-- A job over rows of tensor 0 into tensor 1. -/
def jobOf (l : List (Nat × Nat × Nat)) : LJob := fieldsOf 512 ([(495, 488, 1), (487, 468, 1)] ++ l)

theorem test_layout_commit : (inMode .ready).layoutCheck.1 = 1 := by
  have h : (List.range 16384).find? (fun i => !(inMode .ready).ownerOk [] i) = none := by
    simp [State.ownerOk, State.ownerEnt, inMode, State.reset, State.empty, Tables.cleared, Tabs.get, zero128, OEnt.valid, bit]
  have ht : (inMode .ready).validTensors = [] := by decide
  have ho : (inMode .ready).validOwners = [] := by decide
  simp only [State.layoutCheck, ht, ho, List.find?_nil, h, List.map_nil, State.overlapAt]

theorem test_layout_refused : (let s := inMode .ready
    let s := { s with tables := { s.tables with tensor := [(4, setFld (tensorAt 0) 10 0 1)] } }
    let t := after (.layoutCommit .port rq 1) s
    s.layoutCheck == (3, 0, 4) && t.obj Obj.RZ_LAYOUT_STATE == 3 && t.obj Obj.RZ_LAYOUT_LAST_FAIL == 3 * 2 ^ 24 + 4 &&
    objsBut [Obj.RZ_LAYOUT_STATE, Obj.RZ_LAYOUT_LAST_FAIL] s t) = true := by decide +kernel

theorem test_job_refused : (let s := jobState (jobOf [(511, 508, 1), (7, 0, 1)])
    let t := after (.ljobCopy none) s
    s.jobMay && s.jobAddr == 0x8000040 && s.jobCheck (jobOf [(511, 508, 1), (7, 0, 1)]) == 1 &&
    t.mem == s.mem.write 0x8000041 [1] && t.obj Obj.RZ_LJOB_REFUSED == 1 && t.obj Obj.RZ_LJOB_HEAD == 2 && t.job == none &&
    !s.seq.startPending) =
    true := by decide +kernel

/-- Row 3 of tensor 0 is 1.0, 2.0, 0, ...; row 7 of tensor 1 is 2.0, 0, ... -/
theorem test_copy : (let j := jobOf [(511, 508, 1), (447, 421, 3), (420, 394, 9)]
    let s := jobState j
    let t := after (.ljobCopy none) s
    s.jobRanges j == [] && s.jobMay && s.jobCheck j == 0 && t.job == some { addr := 0x8000040, desc := j, status := 0, reading := false } &&
    t.mem == s.mem.write (0x1000000 + 512 * 9) [0x80, 0x3F, 0, 0x40] && objsBut [] s t) = true := by decide +kernel

theorem test_gather : (let j := jobOf [(511, 508, 2), (393, 374, 5), (367, 320, 0x9000000), (420, 394, 9), (175, 144, 0x3F800000)]
    let s := withIndex 3 (jobState j)
    let t := after (.ljobGather none) s
    let u := withIndex 5 (jobState j)
    let v := after (.ljobGather none) u
    s.jobCheck j == 0 && t.mem == s.mem.write (0x1000000 + 512 * 9) [0x80, 0x3F, 0, 0x40] &&
    v.mem == u.mem.write (0x1000000 + 512 * 9) (List.replicate 256 [0x80, 0x3F]).flatten && v.obj Obj.RZ_IDX_OOB == 1) =
    true := by decide +kernel

/-- The source's block lies on another package: the row is asked for, and nothing is written yet. -/
theorem test_copy_far : (let j := jobOf [(511, 508, 1), (447, 421, 3), (420, 394, 9)]
    let s := jobState j
    let s := { s with tables := { s.tables with owner := [(0, setFld (blockOf 0) 126 110 2), (1, blockOf 1)] } }
    let t := after (.ljobCopy (some 5)) s
    s.jobMay && s.jobCheck j == 0 && s.jobRanges j == [(2, 512 * 3, 512)] && t.mem == s.mem &&
    t.job == some { addr := 0x8000040, desc := j, status := 6, reading := true }) = true := by decide +kernel

theorem test_scatter : (let j (m : Nat) := jobOf [(511, 508, 3), (507, 506, m), (393, 374, 5), (367, 320, 0x9000000),
      (447, 421, 3), (420, 394, 4)]
    let go (m i : Nat) := after (.ljobScatter none) (withIndex i (jobState (j m)))
    let s (m i : Nat) := withIndex i (jobState (j m))
    (s 1 3).jobCheck (j 1) == 0 && (go 0 3).mem == (s 0 3).mem.write (0x1000000 + 512 * 7) [0x80, 0x3F, 0, 0x40] &&
    (go 1 3).mem == (s 1 3).mem.write (0x1000000 + 512 * 7) [0x40, 0x40, 0, 0x40] &&
    (go 0 5).mem == (s 0 5).mem && (go 0 5).obj Obj.RZ_IDX_OOB == 1) = true := by decide +kernel

theorem test_fill : (let j := jobOf [(511, 508, 5), (420, 394, 9), (175, 144, 0x40000000)]
    let s := jobState j
    let t := after (.ljobFill none) s
    s.jobCheck j == 0 && t.mem == s.mem.write (0x1000000 + 512 * 9) (List.replicate 256 [0, 0x40]).flatten) = true := by
  decide +kernel

/-- Two rows of three bytes become three rows of two. -/
theorem test_transpose : (let j : LJob := fieldsOf 512 [(511, 508, 4), (487, 468, 2), (467, 448, 3), (319, 272, 0x100),
      (271, 224, 0x200), (223, 200, 8), (199, 176, 4)]
    let s := jobState j
    let s := { s with mem := Memory.write (Memory.write s.mem 0x100 [1, 2, 3]) 0x108 [4, 5, 6] }
    let t := after (.ljobTranspose none) s
    s.jobMay && s.jobCheck j == 0 && s.mem.wf &&
    t.mem == ((s.mem.write 0x200 [1, 4]).write 0x204 [2, 5]).write 0x208 [3, 6] && objsBut [] s t) = true := by decide +kernel

theorem test_job_complete : (let s := jobState 0
    let s := { s with job := some { addr := 0x8000040, desc := 0, status := 6, reading := false } }
    let t := after .ljobComplete s
    !s.jobOps && t.job == none && t.mem == s.mem.write 0x8000041 [6] && t.obj Obj.RZ_LJOB_HEAD == 2 &&
    objsBut [Obj.RZ_LJOB_HEAD] s t) = true := by decide +kernel

/-! ### A step's phases -/

/-- READY to run a step of one expert on die 0: four tokens, both engines' shares of two. -/
def stepDesc (more : List (Nat × Nat × Nat)) : BitVec 512 :=
  fieldsOf 512 ([(511, 508, 3), (487, 480, 1), (479, 448, 9), (447, 436, 5), (415, 396, 4), (395, 388, 2), (387, 383, 1),
    (379, 367, 1), (317, 310, 0), (309, 302, 1), (277, 274, 1), (263, 232, 128)] ++ more)

/-- A valid placement entry of this node's die 0, queue 3. -/
def placed0 : PEntry := fieldsOf 64 [(63, 63, 1), (41, 31, 3)]

/-- A header of a bank of 256 channels and one expert. -/
def bank0 : RBank :=
  { bytes := toBytes (fieldsOf 512 [(471, 464, 2), (463, 451, 1)]), bodyDigest := [], digest := [] }

/-- Running, with all that such a step needs; a step in bank 0 where one is given. -/
def world (wait : Seq) (x : Option Step) : State :=
  let s := setObjs [(Obj.RZ_LOG_EN, 0), (Obj.RZ_LAYOUT_STATE, 1), (Obj.RZ_BATCH_EPOCH, 5), (Obj.RZ_RBANK0_STATE, 1), (Obj.RZ_SCHED_BASE, 0x10000),
    (Obj.RZ_SCHED_LEN, 0x1000), (Obj.RZ_WALK_BASE, 0x100000000), (Obj.RZ_PACK_BASE, 0x200000000), (Obj.RZ_PACK_LEN, 0x40000000),
    (Obj.RZ_STATS_BASE, 0x300000000), (Obj.RZ_RCACHE_BASE, 0x400000000), (Obj.RZ_STAGE_BASE, 0x500000000),
    (Obj.RZ_STAGE_POS, 1), (Obj.RZ_STAGE_ROW, 512), (Obj.RZ_STAGE_LEN, 0x20000000), (Obj.RZ_SUMMARY_BASE, 0x600000000)]
    (inMode .running)
  { s with
    tables := { s.tables with
      tensor := [(0, tensorAt 0), (1, tensorAt 1)], owner := [(0, blockOf 0), (1, blockOf 1)], peerCrc := some 0
      placed := true, place := { b0 := [(0, placed0)], b1 := [] }, rbanks := { b0 := bank0, b1 := s.tables.rbanks.b1 }
      groups := pairGroup }
    mem := Memory.write [] 0x10080 (toBytes (packed 128 [(20, 1), (108, 0)]))
    seq := wait, steps := { b0 := x, b1 := none }, accepted := if x.isSome then 1 else 0 }

/-- A STEP that waits for its check. -/
def waiting (d : BitVec 512) : Seq :=
  { Seq.cleared with
    wait := .step, pc := 64
    fetched := some { desc := d, firstToken := Desc.firstToken d, offset := 64, descOff := 0, crcOk := true, t0 := some 100, pulse := true } }

theorem test_admission : (let s := world (waiting (stepDesc [])) none
    let t := after .admissionCheck s
    s.checkable.isSome && (s.stepBoundary.admitStatus ((s.seq.fetched).getD (s.fetchStep 0)) false 100).1 == 0 && !s.log.replay &&
    t.seq.wait == .fetch && t.seq.pc == 72 && t.seq.nextBank && t.accepted == 1 && t.seq.lastStepId == some 9 &&
    (t.steps.b0.map (fun u => (u.t0, u.offset, u.members)) == some (100, 64, [0, 1])) && t.steps.b1 == none) = true := by
  decide +kernel

/-- One that fails ADMIT_ORDER, and ADMIT_EPOCH too. -/
theorem test_admission_refused : (let s := world { waiting (stepDesc [(435, 420, 1)]) with lastStepId := some 9 } none
    s.checkable.isSome && (s.stepBoundary.admitStatus ((s.seq.fetched).getD (s.fetchStep 0)) false 100).1 == 5 && !s.log.replay) = true := by decide +kernel

/-- One whose score phase ends after its deadline of 1 cycle: ADMIT_DEADLINE, and nothing before it. -/
theorem test_admission_late : (let d := stepDesc [(159, 128, 1)]
    let s := world (waiting d) none
    let f := (s.seq.fetched).getD (s.fetchStep 0)
    (s.admitStatus f false 100).1 == 9 && Desc.dScore d == 1 && decide (1 < (s.modelOf d false 100).tSs)) = true := by decide +kernel

/-- In flight, its descriptor the one given, accepted at group 1. -/
def flying (d : BitVec 512) : Step := { newStep d with members := [0, 1] }

theorem test_score_begin : (let s := world .cleared (some (flying (stepDesc [])))
    let t := after (.scorePhaseBegin none) s
    let v := after (.scorePhaseBegin (some (7, false))) s
    (s.scoring.map (·.1)) == some false && !s.comparing && s.unitsOf (stepDesc []) == 2 &&
    t.steps.b0.map (·.grateAt) == some (some 0) && objsBut [] s t && v.steps.b0.map (·.ended) == some (.marked 0x23) &&
    v.seq.compare == [testedUnit (flying (stepDesc [])) false] &&
    !s.compares (testedUnit (flying (stepDesc [])) false)) = true := by decide +kernel

theorem test_unit : (let x := { flying (stepDesc []) with grateAt := some 0 }
    let s := world .cleared (some x)
    let t := after (.scoredUnit none) s
    let c := { s with seq := { s.seq with compare := [5] } }
    let v := after (.scoredUnit (some (0x2A05, false))) c
    let slots := match (s.scoreUnit x [0] (s.unitRows x [0] [])).1 with | .route l _ _ _ => l.map (·.1) | _ => []
    c.comparesPair 0x2A05 false && s.fetched (.unit false 0) && slots == [0] && t.steps.b0.map (·.units) == some 1 && countOf t.tables.hist.b0 0 == 1 &&
    v.steps.b0.map (·.ended) == some (.marked 0x23)) = true := by decide +kernel

/-- A mask that keeps no token: each is skipped and counted. -/
theorem test_unit_skipped : (let x := { flying (stepDesc []) with grateAt := some 0, mask := some { pieces := [(0x20000, 1)], len := some 4 } }
    let s := world .cleared (some x)
    let t := after (.scoredUnit none) s
    (match (s.scoreUnit x [0] (s.unitRows x [0] [])).1 with | .skipped => true | _ => false) && t.obj Obj.RZ_SKIPPED == 1 &&
    t.tables.hist == s.tables.hist && t.steps.b0.map (·.units) == some 1) = true := by decide +kernel

/-- A gathered row of 1.0 and 2.0 under DISP_FMT MXFP8, one shared expert. -/
theorem test_row_gather : (let s := world .cleared (some (flying (stepDesc [(382, 380, 1), (343, 318, 3)])))
    let s := { s with mem := Memory.write s.mem (512 * 3) [0x80, 0x3F, 0, 0x40], bellows := { s.bellows with gathers := [0] } }
    let t := after (.rowGatherComplete 0) s
    s.fetched (.gather 0) && t.bellows.gathers == [] && t.bellows.pend.length == 1) = true := by
  decide +kernel

theorem test_certainty : (let s := world .cleared (some (flying (stepDesc [])))
    let t := after (.certaintyRequest 9 0 [(0, 0, 0)]) s
    let u := after (.certaintyRequest 9 0 [(0, 0, 1)]) s
    t.egress == [.peer (.certaintyAnswer 9 0 [(0, decide (2 < s.capMin (stepDesc []) 0))])] && { t with egress := [] } == s &&
    u.egress == [.peer (.certaintyAnswer 9 0 [(0, decide (3 < s.capMin (stepDesc []) 0))])]) = true := by decide +kernel

/-- The secondary of the package. -/
def second (s : State) : State :=
  State.setObj { s with ident := { s.ident with eng := true } } Obj.RZ_NODE_ID 1

theorem test_certain : (let s := second (world .cleared (some (flying (stepDesc []))))
    let s := setObjs [(Obj.RZ_EARLY_DISPATCH, 1), (Obj.RZ_TIMING_REPEAT, 0), (Obj.RZ_EARLY_HOLD, 4)] s
    let s := s.setPos 1 0 0 { inst := 0, weight := 0, rstate := 1, ctx := 0 }
    let t := after (.certaintyAnswer 9 0 [(0, true)]) s
    !s.primary && s.earlyOn && (t.pos 1 0 0).rstate == 2 && t.obj Obj.RZ_EARLY_RELEASED == 1 && t.bellows.ctxs.length == 1) =
    true := by decide +kernel

theorem test_summary : (let s := world .cleared (some { flying (stepDesc []) with grateEnd := some 0 })
    let s := { s with tables := { s.tables with hist := { b0 := [(0, 2)], b1 := [] } } }
    let t := after (.stepSummaryPost false [(0, 1)]) s
    s.primary && s.role == 0 && t.steps.b0.map (·.posted) == some true && countOf (packageCounts [(0, 2)] [(0, 1)]) 0 == 3 && t.obj Obj.RZ_SUMMARY_SEQ == 1 &&
    t.obj Obj.RZ_PRED_POSTED == 0) = true := by decide +kernel

/-- The forecast of two tokens whose previous route is expert 0. -/
theorem test_predicted : (let r : RMap := fieldsOf 128 [(127, 127, 1), (126, 122, 1), (26, 26, 1)]
    let s := world .cleared (some { flying (stepDesc [(416, 416, 1)]) with line := some 0 })
    let s := { s with tables := { s.tables with routeMap := [(0, r)] } }
    let t := after (.predictedSummary false []) s
    let u := after (.predictedSummary false []) (second s)
    t.obj Obj.RZ_SUMMARY_SEQ == 1 && t.obj Obj.RZ_PRED_POSTED == 1 && t.steps.b0.map (·.predicted) == some true &&
    u.egress == [.peer (.counts 9 true [(0, 2)])] && u.steps.b0.map (·.predicted) == some true) = true := by decide +kernel

theorem test_scan_message : (let s := world .cleared (some (flying (stepDesc [])))
    let body : ScanBody := { counts := some [2], totals := none, variant := none, marker := none }
    let t := after (.scanMessage 9 5 .up 1 body) s
    let u := after (.scanMessage 10 5 .up 1 { body with marker := some 2 }) s
    let v := after (.scanMessage 9 5 .up 1 { body with counts := none, marker := some 2 }) s
    s.scanKids (flying (stepDesc [])) == [1] && t.steps.b0.map (·.scan.fromBelow) == some [(1, [(0, 2)])] &&
    !s.refusing 10 && u.colls.scanEarly.length == 1 && u.steps == s.steps && v.steps.b0.map (·.ended) == some (.marked 0x80) &&
    v.obj Obj.RZ_BATCH_EPOCH == 6) = true := by decide +kernel

/-- A marker of the step that this member refuses. -/
theorem test_scan_refusing : (let q := waiting (stepDesc [])
    let s := world { q with wait := .halted 2 } none
    let body : ScanBody := { counts := none, totals := none, variant := none, marker := some 2 }
    s.refusing 9 && after (.scanMessage 9 5 .up 1 body) s == s &&
    (after (.scanMessage 9 5 .up 1 { body with marker := none }) s).colls.scanEarly.length == 1) = true := by decide +kernel

/-- Both tokens chose instance 0, with capacity 1: the first is admitted, the second ashed. -/
theorem test_walk : (let x := { flying (stepDesc []) with variant := some 0 }
    let s := world .cleared (some { x with scan := { x.scan with offs := some [] } })
    let s := s.setPos 1 0 0 { inst := 0, weight := 0, rstate := 1, ctx := 0 }
    let s := s.setPos 1 1 0 { inst := 0, weight := 0, rstate := 1, ctx := 0 }
    let pairs := (List.range (s.shareOf (stepDesc [])).2).flatMap (fun i => (s.slotsAt (stepDesc []) (entryOf false i)).filter Position.pair)
    let c : WalkCtx := { b := false, t := x, caps := s.caps (stepDesc []) 0, hist := [], half := false }
    let r := (List.range 2).foldl (fun r i => r.1.walkToken c r.2 i) (s, { run := [], held := [], out := [], closed := [] })
    (s.walkable.map (·.1)) == some false && (s.caps (stepDesc []) 0).at_ 0 == 1 && pairs.length == 2 && x.waitVerdict == none &&
    (r.1.pos 1 0 0).rstate == 3 && (r.1.pos 1 1 0).rstate == 6) = true := by decide +kernel

/-! ### Dispatch, gateway, pool -/

/-- With a step of the key 9, 5 in bank 0, its queue 3 mapped to die 0, GATE up with incarnation 7. -/
def busyWorld : State :=
  let s := world .cleared (some (flying (stepDesc [])))
  { s with
    tables := { s.tables with qmap := { b0 := [(3, QEntry.mk false 0 0)], b1 := [] } }
    fabric := { s.fabric with gateUp := true, ports := { b0 := { s.fabric.ports.b0 with up := true }, b1 := { s.fabric.ports.b1 with up := true } } }
    bellows := { s.bellows with incarn := some 7 } }

/-- The routed pair of entry 0 under that key, to queue 3. -/
def pairHdr (more : List (Nat × Nat × Nat)) : BitVec 256 :=
  fieldsOf 256 ([(255, 252, 1), (251, 250, 1), (247, 236, 5), (127, 126, 2), (124, 115, 2), (114, 107, 1), (80, 49, 9), (46, 36, 3)] ++ more)

/-- A packet with its payload's CRC. -/
def sealed (h : BitVec 256) (payload : List Byte) : Packet := { hdr := setFld h 31 0 (crc32 payload).toNat, payload := payload }

/-- The packet of a row of zeros. -/
def pairPkt (more : List (Nat × Nat × Nat)) : Packet := sealed (pairHdr more) (List.replicate 128 0)

theorem test_send : (let pend (p : DispPath) (n : Nat) : Pend := { path := p, dest := n, nth := 0, hdr := pairHdr [(255, 252, 4), (124, 115, 0)] }
    let s (p : DispPath) (n : Nat) : State := { busyWorld with bellows := { busyWorld.bellows with pend := [pend p n] } }
    let go (p : DispPath) (n : Nat) : State := after (.dispatchSend p) (s p n)
    let leaves (p : DispPath) (n : Nat) : Bool :=
      (s p n).nextPend p == some (pend p n) && (go p n).bellows.pend == [] && (go p n).obj Obj.RZ_PKT_SENT == 1
    leaves .own 3 && (go .own 3).bellows.ownPath.length == 1 && (go .own 3).bellows.ctxs.map (·.num) == [0] &&
    leaves .peer 1 && (go .peer 1).egress.length == 1 && leaves .fab0 2 && (go .fab0 2).bellows.ctxs.map (·.num) == [0] &&
    leaves .fab1 3 && leaves .gate 256 && (go .gate 256).bellows.aggs.map (fun a => (a.slot, a.rack, a.bytes)) == [(0, 1, 96)]) =
    true := by decide +kernel

theorem test_backoff : (let c : Ctx := { num := 4, path := .peer, dest := 1, hdr := pairHdr [(255, 252, 4), (124, 115, 0)], replays := 0, st := .backoff 10 }
    let s := { busyWorld with core := 10 + busyWorld.obj Obj.RZ_BUSY_BACKOFF, bellows := { busyWorld.bellows with ctxs := [c] } }
    let t := after .busyBackoffExpiry s
    s.fabric.resend == [] && t.egress.length == 1 && t.bellows.ctxs.map (fun c => (c.num, c.st)) == [(4, .sent)]) = true := by
  decide +kernel

theorem test_half_zero : (let s := State.setObj (second busyWorld) Obj.RZ_TWO_HALF 1
    let t := after .halfZeroAcknowledged s
    !s.primary && s.flag Obj.RZ_TWO_HALF && t.steps.b0.map (·.halfZero) == some true && t.steps.b1 == none) = true := by
  decide +kernel

theorem test_flush : (let a : Agg := { slot := 0, rack := 1, hdrs := [], bytes := 64, opened := 0, ctxs := [] }
    let s := { busyWorld with core := busyWorld.obj Obj.RZ_AGG_FLUSH, bellows := { busyWorld.bellows with aggs := [a] } }
    let t := after (.aggFlushAge 1) s
    s.gateOpen && s.obj Obj.RZ_GATE_INFLIGHT != 0 && t.egress == [.bulk (bulkHdr 0 1 0 0 7 []) []] &&
    t.obj Obj.RZ_BULK_SENT == 1 && t.bellows.bulks.length == 1 && t.bellows.bulkSeq == [(1, 1)]) = true := by decide +kernel

/-- A bulk in flight to rack 1. -/
def bulk1 (offers : Nat) : Bulk := { slot := 0, rack := 1, seq := 0, hdrs := [], bytes := 64, ctxs := [6], offers := offers, sentAt := 0 }

theorem test_bulk_ends : (let hdr := bulkHdr 0 1 0 0 7 []
    let c : FlueCtx := { num := 6, use := .write 0 1 }
    let s := { busyWorld with
      core := busyWorld.obj Obj.RZ_GATE_TIMEOUT, bellows := { busyWorld.bellows with bulks := [bulk1 7] }
      flue := { busyWorld.flue with ctxs := [c, { c with num := 5 }] } }
    let s := { s with mem := s.mem.write (s.aggAddr 0) (toBytes hdr) }
    let t := after (.bulkAck 1 0) s
    let u := after (.bulkTimeout 1 0) s
    t == { s with bellows := { s.bellows with bulks := [] }, flue := { s.flue with ctxs := [{ c with num := 5 }] } } &&
    u.egress == [.bulk hdr []] && u.bellows.bulks == [{ bulk1 8 with sentAt := s.core }] && objsBut [] s u) = true := by
  decide +kernel

/-- A bulk from node 256 of one packet; seen already, of an older incarnation, new, and with a wrong length. -/
theorem test_bulk_arrival : (let p : Packet := { hdr := pairHdr [(124, 115, 0), (255, 252, 4)], payload := [] }
    let s (r : List (Nat × Nat)) : State :=
      let s := setObjs [(Obj.RZ_BULK_SEEN_BASE, 0x700000000), (Obj.RZ_LAND_SLOTS, 1)] busyWorld
      { s with mem := Memory.write s.mem (0x700000000 + 4096) (toBytes (packed 128 r)) }
    let hdr (n : Nat) : BitVec 512 := bulkHdr 256 0 1 (BitVec.ofNat 32 n) 7 (pktBytes p)
    let go (r : List (Nat × Nat)) (n : Nat) : State := after (.bulkArrival (hdr n) (pktBytes p) []) (s r)
    let seen := [(32, 7), (32, 2), (64, 1)]
    let old := [(32, 9), (96, 0)]
    let bad := after (.bulkArrival (hdr 2) [] []) (s seen)
    bulkOk 0 (hdr 2) (pktBytes p) && (s seen).isLanding && (s seen).freeLandSlot == some 0 &&
    (go seen 2).obj Obj.RZ_BULK_DUP == 1 && (go seen 2).egress.length == 1 && (go seen 1).obj Obj.RZ_BULK_DUP == 1 &&
    (go old 2).obj Obj.RZ_BULK_STALE == 1 && (go old 2).egress.length == 1 && (go seen 66).egress == [] &&
    (go seen 3).egress.head? == some (.bulkAck 256 0 3) && (go seen 3).obj Obj.RZ_BULK_DUP == 0 &&
    bad.egress == [] && bad.mem == (s seen).mem && bad.pool == busyWorld.pool) = true := by decide +kernel

/-- A new bulk while the pool has room for no packet: it stands in a landing buffer. -/
theorem test_bulk_lands : (let p := sealed (pairHdr [(80, 49, 77), (124, 115, 0), (255, 252, 4)]) []
    let s := setObjs [(Obj.RZ_BULK_SEEN_BASE, 0x700000000), (Obj.RZ_LAND_SLOTS, 1), (Obj.RZ_LAND_BASE, 0x710000000)] busyWorld
    let s := { s with pool := { s.pool with free := [] } }
    let hdr := bulkHdr 256 0 1 1 7 (pktBytes p)
    let t := after (.bulkArrival hdr (pktBytes p) []) s
    bulkOk 0 hdr (pktBytes p) && s.freeLandSlot == some 0 && !s.poolRoom p.hdr && s.landHost p.hdr == s.node &&
    parsePackets 1 (pktBytes p) == [p] && t.egress == [.bulkAck 256 0 1] &&
    t.fabric.lands == [{ slot := 0, src := 256, packets := [p], chks := [], left := 0, peer := [] }] &&
    t.pool.waiting == [(.bulk 0, p)] && objsBut [] s t) = true := by decide +kernel

/-- The cells that the header of such a packet reserves are out of RZ_POOL_MIN_FREE's count. -/
theorem test_pool_store : (let s := busyWorld
    let p := pairPkt []
    let t := after (.poolStore (.peer p) .clean) s
    let u := after (.poolStore (.peer { p with payload := [] }) .clean) s
    let least := s.poolFree - 3
    s.poolRoom p.hdr && !s.packetBad p.hdr true && !s.thirdSlot p.hdr && payloadOk 2 (DHdr.payCrc p.hdr).toNat p.payload .clean &&
    !s.pool.cancelled.contains (DHdr.key p.hdr) && s.pool.closes == [] && s.peerOpen &&
    (s.slotOf 3 (DHdr.key p.hdr)).isNone && t.egress == [.peer (.packetReply p.hdr 0)] && t.obj Obj.RZ_POOL_MIN_FREE == least &&
    (t.poolList 3 1).map (fun x => (x.hdr, x.payload.length, x.cells)) == [(p.hdr, 128, [(0, 3)])] &&
    u.egress == [.peer (.packetReply p.hdr 1)] && u.poolFree == s.poolFree && u.obj Obj.RZ_POOL_MIN_FREE == least &&
    u.pool.lists == s.pool.lists) = true := by decide +kernel

/-- A queue's two slots hold other steps: the packet of a third is told BUSY. -/
theorem test_third_slot : (let y (n : BitVec 32) : PSlot :=
      { key := { stepId := n, batch := 5 }, placeEpoch := 0, commits := 1, final := none, halfEnd := none, halfClosed := false,
        delivered := 0, lastPrio := none, fmt := 0, dSlices := 2, sender := 0, closed := false }
    let s := { busyWorld with pool := { busyWorld.pool with slots := [(3, [y 1, y 2])] } }
    let p := pairPkt []
    let t := after (.poolStore (.peer p) .clean) s
    s.poolRoom p.hdr && !s.packetBad p.hdr true && s.thirdSlot p.hdr && t.egress == [.peer (.packetReply p.hdr 2)] &&
    t.pool == s.pool && t.obj Obj.RZ_POOL_BUSY == 1 && objsBut [Obj.RZ_POOL_BUSY] s t) = true := by decide +kernel

theorem test_pool_discards : (let p := pairPkt []
    let s := { busyWorld with pool := { busyWorld.pool with cancelled := [DHdr.key p.hdr] } }
    let t := after (.poolStore (.peer p) .clean) s
    let bad := pairPkt [(46, 36, 4)]
    let u := after (.poolStore (.peer bad) .clean) busyWorld
    t.egress == [.peer (.packetReply p.hdr 0)] && t.poolFree == s.poolFree && t.pool.lists == s.pool.lists && t.obj Obj.RZ_PKT_DISCARD == 1 &&
    busyWorld.packetBad bad.hdr true && u.egress == [.peer (.packetReply bad.hdr 0)] && u.poolFree == busyWorld.poolFree && u.pool.lists == [] && s.poolRoom p.hdr && busyWorld.poolRoom bad.hdr &&
    u.obj Obj.RZ_PKT_DISCARD == 1) = true := by decide +kernel

theorem test_pool_full : (let p := pairPkt []
    let s := { busyWorld with pool := { busyWorld.pool with free := [(0, 2)] }, bellows := { busyWorld.bellows with ownPath := [p] } }
    let t := after (.poolStore (.peer p) .clean) s
    let u := after (.poolStore .own .clean) s
    !s.poolRoom p.hdr && t.egress == [.peer (.packetReply p.hdr 2)] && t.obj Obj.RZ_POOL_BUSY == 1 && t.pool == s.pool &&
    u.pool.waiting == [(.own, p)] && u.bellows.ownPath == []) = true := by decide +kernel

theorem test_pool_waiting : (let p := pairPkt []
    let s := { busyWorld with pool := { busyWorld.pool with waiting := [(.own, p)], cancelled := [DHdr.key p.hdr] } }
    let t := after (.poolWaitingPacketAdmit .clean) s
    s.poolRoom p.hdr && s.sentCtx p.hdr == none && t.pool.waiting == [] && t.obj Obj.RZ_PKT_DISCARD == 1) = true := by
  decide +kernel

/-- A live key's packet that waited: from this engine's own bellows, whose context goes, and the last of a bulk. -/
theorem test_pool_waiting_commits : (let p := pairPkt []
    let l : Land := { slot := 2, src := 256, packets := [p], chks := [], left := 0, peer := [] }
    let c : Ctx := { num := 4, path := .own, dest := 0, hdr := p.hdr, replays := 0, st := .sent }
    let s := { busyWorld with pool := { busyWorld.pool with waiting := [(.own, p)] } }
    let s' := { s with bellows := { s.bellows with ctxs := [c] } }
    let u := { busyWorld with pool := { busyWorld.pool with waiting := [(.bulk 2, p)] }, fabric := { busyWorld.fabric with lands := [l] } }
    let go (x : State) : State := after (.poolWaitingPacketAdmit .clean) x
    let kept (x : State) : Bool := x.pool.waiting == [] && (x.poolList 3 1).map (fun y => (y.hdr, y.cells)) == [(p.hdr, [(0, 3)])]
    s.poolRoom p.hdr && !s.packetBad p.hdr false && !u.packetBad p.hdr true && u.landHost p.hdr == u.node && s.sentCtx p.hdr == none &&
    kept (go s) && (go s).egress == [] && s'.sentCtx p.hdr == some 4 && kept (go s') && (go s').bellows.ctxs == [] &&
    kept (go u) && (go u).land 2 == none && (go u).egress == []) = true := by decide +kernel

/-- A committed packet in cells 8 to 10. -/
def stored : PoolPkt := { hdr := (pairPkt []).hdr, payload := [], cells := [(8, 3)] }

theorem test_delivery : (let s := State.setPoolList busyWorld 3 1 [stored]
    let t := after (.dieDeliveryTurn 0 .clean) s
    let few (n : Nat) : State := { s with dies := s.dies.set 0 { s.dieAt 0 with credits := n, out := List.replicate (512 - n) 70 } }
    let go (n : Nat) : State := after (.dieDeliveryTurn 0 .clean) (few n)
    s.diePresent 0 && (s.dieAt 0).credits == 512 && s.servable 0 1 == [3] && s.dueClose 0 1 3 == none &&
    s.headPacket 0 1 3 == some stored &&
    t.egress == [.die 0 stored.hdr []] && t.poolList 3 1 == [] && t.pool.free == s.pool.free && (t.dieAt 0).credits == 509 &&
    (t.dieAt 0).out == [8, 9, 10] && (go 3).egress == [.die 0 stored.hdr []] && ((go 3).dieAt 0).sending.isNone) = true := by
  decide +kernel

/-- With two credits left the third unit waits. -/
theorem test_delivery_part : (let s := State.setPoolList busyWorld 3 1 [stored]
    let s := { s with dies := s.dies.set 0 { s.dieAt 0 with credits := 2, out := List.replicate 510 70 } }
    let t := after (.dieDeliveryTurn 0 .clean) s
    t.egress == [] && (t.dieAt 0).credits == 0 && (t.dieAt 0).out == List.replicate 510 70 ++ [8, 9] && t.poolList 3 1 == [] &&
    (t.dieAt 0).sending == some { hdr := stored.hdr, payload := [], units := [10], slot := some (3, DHdr.key stored.hdr) }) =
    true := by decide +kernel

theorem test_credit : (let s := { busyWorld with core := 99, dies := busyWorld.dies.set 2 { busyWorld.dieAt 2 with out := [8, 9], credits := 510 } }
    let t := after (.dieCreditReturn 2 .clean) s
    (t.dieAt 2) == { s.dieAt 2 with out := [9], credits := 511, lastCredit := 99 } &&
    t.pool.free == s.pool.free ++ [(8, 1)]) = true := by decide +kernel

/-- The free list's pointer copies have come to differ: the credit's use of it finds that, and the free list is swept. -/
theorem test_credit_differs : (let s := { busyWorld with
      dies := busyWorld.dies.set 2 { busyWorld.dieAt 2 with out := [8], credits := 511 }
      pool := { busyWorld.pool with differ := [.free] } }
    let t := after (.dieCreditReturn 2 .clean) s
    t.pool.sweeps == [.free] && t.pool.differ == [] && t.pool.free == s.pool.free ++ [(8, 1)] && objsBut [] s t) = true := by
  decide +kernel

theorem test_sweeps : (let s := { State.setPoolList busyWorld 3 1 [stored] with pool := { (State.setPoolList busyWorld 3 1 [stored]).pool with sweeps := [.list 3 1] } }
    let t := after .queueResetSweepDone s
    let v := { busyWorld with pool := { busyWorld.pool with sweeps := [.free], free := [(8, 2), (4, 1)] } }
    let u := after .queueResetSweepDone v
    t.pool.sweeps == [] && t.poolList 3 1 == [] && t.pool.free == s.pool.free ++ [(8, 3)] && t.obj Obj.RZ_QUEUE_RESET == 1 &&
    u.pool.sweeps == [] && u.pool.free == [(4, 1), (8, 2)] && u.obj Obj.RZ_QUEUE_RESET == 1) = true := by decide +kernel

/-- Die 0 holds cells of an open step of queue 3 and returns no credit. -/
theorem test_die_stall : (let y : PSlot := { key := DHdr.key (pairHdr []), placeEpoch := 0, commits := 1, final := none, halfEnd := none, halfClosed := false, delivered := 1, lastPrio := none, fmt := 0, dSlices := 2, sender := 0, closed := false }
    let s := { busyWorld with core := busyWorld.obj Obj.RZ_DRAIN_LIMIT, dies := busyWorld.dies.set 0 { busyWorld.dieAt 0 with out := [8], credits := 511 } }
    let s := { s with pool := { s.pool with slots := [(3, [y])] } }
    let t := after (.dieStall 0) s
    s.queueDie 0 3 == 0 && s.bankOf y.key == some false && t.steps.b0.map (fun u => (u.ended, u.cancelled)) == some (.marked 0x46, true) &&
    s.diePresent 0 && !t.diePresent 0) = true := by decide +kernel

theorem test_notice : (let n (i : BitVec 32) : Notice := { stepId := i, batch := 5, place := 0, e := 1, group := 1 }
    let s := { busyWorld with pool := { busyWorld.pool with cancelled := [{ stepId := 3, batch := 5 }] } }
    after (.cancelNotice (n 3) .clean) s == s && (s.keyStep { stepId := 9, batch := 5 }).isSome &&
    s.keyStep { stepId := 8, batch := 5 } == none) = true := by decide +kernel

/-! ### Returns and combine -/

theorem test_die_return : (let p : Packet := { hdr := pairHdr [(219, 203, 1), (202, 184, 6)], payload := List.replicate 64 0 }
    let s := busyWorld
    let t := after (.dieReturn 0 p) s
    let q := s.formReturn p
    let c := { s with pool := { s.pool with cancelled := [DHdr.key p.hdr] } }
    let u := after (.dieReturn 0 p) c
    s.diePresent 0 && s.route (DHdr.srcNode p.hdr) == .peer && t.egress == [.dieCredit 0 2, .peer (.packet q)] &&
    t.flue.ctxs == [{ num := 0, use := .send q 0 }] && (RHdr.entry q.hdr, RHdr.dstNode q.hdr, RHdr.type q.hdr) == (6, 1, 5) &&
    s.freeFlueCtx == some 0 && (t.dieAt 0).ret == 512 && u.egress == [.dieCredit 0 2] && u.obj Obj.RZ_STALE_RETURN == 1 && u.flue == c.flue) = true := by decide +kernel

/-- Every flue context is taken. -/
def noContext : State := { busyWorld with flue := { busyWorld.flue with
  ctxs := (List.range 4096).map (fun n => { num := n, use := .write 1 1 }) } }

theorem test_no_context : noContext.freeFlueCtx = none := by
  simp [noContext, State.freeFlueCtx, Function.comp_def]

theorem test_die_waits : noContext.active = true ∧ noContext.diePresent 0 = true ∧ noContext.pool.cancelled = [] := by
  have h : noContext.mode = .running ∧ noContext.pool = busyWorld.pool ∧ noContext.dies = busyWorld.dies := ⟨rfl, rfl, rfl⟩
  simp only [State.active, State.diePresent, h.1, h.2.1, h.2.2]
  decide +kernel

/-- Under arrival combine, a row of 256 channels for a home of this package: one reduction of 512 bytes. -/
theorem test_arrival : (let p : Packet := { hdr := pairHdr [(248, 248, 1), (143, 128, 0x4000), (114, 107, 2)], payload := [0x80, 0x3F] ++ List.replicate 510 0 }
    let s := busyWorld
    let x := s.homePieces 0 0
    let row := retRow 0 256 p.payload
    samePackage 0 s.node && !bit p.hdr 35 && s.freeFlueCtx == some 0 && decide (8 ≤ s.stashFree) && DHdr.arrival p.hdr && s.route 0 == .own && x.1 == 0 &&
    ((cutPieces x.2 (redBytes 0 (weightVal false 0x4000) row)).flatMap (cutRequests 8)).map (·.1) == [{ node := 0, addr := 0, len := 512 }]) =
    true := by decide +kernel

theorem test_reduction : (let p : Packet := { hdr := returnHdr 0 (pairHdr [(219, 203, 1)]) 7 false 0 0 0, payload := [] }
    let s := busyWorld
    let s := { s with flue := { s.flue with nocReds := [{ ctx := 3, scorer := 1, entry := 0, pos := 0, key := DHdr.key (pairHdr []) }], ctxs := [{ num := 3, use := .reduce p 1 false }] } }
    let t := after (.nocReductionAck { scorer := 1, stepId := 9, batch := 5, entry := 0, pos := 0 }) s
    RHdr.key p.hdr == { stepId := 9, batch := 5 } && RHdr.dstNode (receiptOf p false).hdr == 1 &&
    s.flue.drains == [] && s.fabric.fences == [] && s.route (RHdr.dstNode p.hdr) == .peer && t.flue.nocReds == [] &&
    t.flue.ctxs == [{ num := 3, use := .send (receiptOf p false) 0 }] && t.egress == [.peer (.packet (receiptOf p false))]) =
    true := by decide +kernel

/-- Entry 0 of the step waits for its return. -/
def expecting (s : State) : State :=
  State.setPos (s.setEntry 0 (LEntry.setState 0 2)) 1 0 0 { inst := 0, weight := 0x3C00, rstate := 3, ctx := 0 }

/-- The return of entry 0; a row of no channels, which needs no payload. -/
def returned (more : List (Nat × Nat × Nat)) : Packet :=
  { hdr := more.foldl (fun h x => setFld h x.1 x.2.1 x.2.2) (returnHdr 0 (pairHdr [(114, 107, 0)]) 5 false 0 0 0), payload := [] }

theorem test_return : (let s := expecting busyWorld
    let p := returned [(93, 78, 0)]
    let t := after (.returnPacket (.peer p) .clean) s
    let x := (s.steps.b0).getD (newStep 0)
    s.returnStep p.hdr == some x && payloadOk 0 (RHdr.payCrc p.hdr).toNat p.payload .clean && s.returnCheck x p.hdr == 0 &&
    (t.pos 1 0 0).rstate == 4 && (t.pos 1 0 0).ctx == 0 && t.flue.ctxs.map (·.num) == [0] &&
    t.egress == [.peer (.packetReply p.hdr 0)]) = true := by decide +kernel

theorem test_return_stale : (let s := expecting busyWorld
    let p := returned [(93, 78, 0), (125, 94, 8)]
    let t := after (.returnPacket (.gate p) .clean) s
    s.returnStep p.hdr == none && t.flue == s.flue && t.obj Obj.RZ_STALE_RETURN == 1) = true := by decide +kernel

/-- An own one of no open step lets its sending context go. -/
theorem test_return_stale_own : (let p := returned [(93, 78, 0), (125, 94, 8)]
    let s := expecting busyWorld
    let s := { s with flue := { s.flue with ownPath := [p], ctxs := [{ num := 7, use := .send p 0 }] } }
    let t := after (.returnPacket .own .clean) s
    s.returnStep p.hdr == none && s.sendCtx p.hdr == some 7 && t.flue.ownPath == [] && t.flue.ctxs == [] &&
    t.obj Obj.RZ_STALE_RETURN == 1 && t.mem == s.mem && t.steps == s.steps) = true := by decide +kernel

theorem test_return_fails : (let s := expecting busyWorld
    let p := { returned [(93, 78, 0)] with payload := [1] }
    let t := after (.returnPacket (.peer p) .clean) s
    let u := after (.returnPacket (.gate p) .clean) s
    let broken (x : State) : Bool := x.steps.b0.map (·.broken) == some true
    { t with steps := s.steps } == { s with egress := [.peer (.packetReply p.hdr 1)] } && broken t && broken u &&
    { u with steps := s.steps } == { s with egress := [.gate 0 (.packetReply p.hdr 1)] }) =
    true := by decide +kernel

theorem test_return_again : (let p := { returned [(93, 78, 0)] with payload := [1] }
    let s := expecting busyWorld
    let s := { s with flue := { s.flue with ownPath := [p], ctxs := [{ num := 7, use := .send p 2 }] } }
    let t := after (.returnPacket .own .clean) s
    s.sendCtx p.hdr == some 7 && s.route (RHdr.dstNode p.hdr) == .own && t.flue.ownPath == [p] &&
    t.flue.ctxs == [{ num := 7, use := .send p 3 }] && t.obj Obj.RZ_RET_REPLAY == 1 &&
    !payloadOk (RHdr.cells p.hdr) (RHdr.payCrc p.hdr).toNat p.payload .clean && s.flueUse 7 == some (.send p 2)) = true := by decide +kernel

/-- The eighth time, and the ninth, which makes it a receipt with POISON. -/
theorem test_return_ninth : (let p := { returned [(93, 78, 0)] with payload := [1] }
    let s (r : Nat) : State := { expecting busyWorld with flue := { (expecting busyWorld).flue with
      ownPath := [p], ctxs := [{ num := 7, use := .send p r }] } }
    let go (r : Nat) : State := after (.returnPacket .own .clean) (s r)
    (go 7).flue.ctxs == [{ num := 7, use := .send p 8 }] && RHdr.dstNode (receiptOf p true).hdr == RHdr.dstNode p.hdr &&
    (go 8).flue.ownPath == [receiptOf p true] && (go 8).flue.ctxs == [{ num := 7, use := .send (receiptOf p true) 0 }]) =
    true := by decide +kernel

/-- A return in error, and one with POISON. -/
theorem test_return_bad : (let s := expecting busyWorld
    let go (more : List (Nat × Nat × Nat)) : State := after (.returnPacket (.peer (returned ([(93, 78, 0)] ++ more))) .clean) s
    let x := (s.steps.b0).getD (newStep 0)
    let marked (t : State) : Bool := t.steps.b0.map (fun u => (u.ended, u.cancelled)) == some (.marked 0x60, true)
    s.returnCheck x (returned [(93, 78, 0), (183, 180, 1)]).hdr == 5 && marked (go [(183, 180, 1)]) && marked (go [(249, 249, 1)])) =
    true := by decide +kernel

/-- A receipt closes its position. -/
theorem test_receipt : (let s := expecting busyWorld
    let p := receiptOf (returned [(93, 78, 0)]) false
    let t := after (.arrivalReceipt (.peer p) .clean) s
    (t.pos 1 0 0).rstate == 6 && t.egress.getLast? == some (.peer (.packetReply p.hdr 0))) = true := by decide +kernel

theorem setPos_ctxs (s : State) (k e p : Nat) (v : Position) : (s.setPos k e p v).flue.ctxs = s.flue.ctxs := by
  unfold State.setPos
  split
  · split <;> rfl
  · rfl

theorem expecting_ctxs (s : State) : (expecting s).flue.ctxs = s.flue.ctxs := by
  rw [expecting, setPos_ctxs]
  rfl

theorem test_staged : (expecting noContext).freeFlueCtx = none := by
  rw [State.freeFlueCtx, expecting_ctxs, ← State.freeFlueCtx]
  exact test_no_context

theorem test_staged_sound : (let s := expecting noContext
    let p := returned [(93, 78, 0)]
    let x := (s.steps.b0).getD (newStep 0)
    s.returnStep p.hdr == some x && payloadOk 0 (RHdr.payCrc p.hdr).toNat p.payload .clean && s.returnCheck x p.hdr == 0 &&
    !RHdr.poison p.hdr && decide (Desc.k x.desc ≤ 8) && !Desc.arrival x.desc && RHdr.type p.hdr == 5) = true := by decide +kernel

theorem test_staging_ack : (let s := expecting busyWorld
    let s := { s with flue := { s.flue with staging := [(0, 0)] } }
    let t := after (.stagingWriteAck 0 0) s
    (t.pos 1 0 0).rstate == 5 && t.flue.staging == []) = true := by decide +kernel

theorem test_home_write : (let s := expecting busyWorld
    let at_ (n : Nat) : State := { s with flue := { s.flue with ctxs := [{ num := 2, use := .write 0 n }] } }
    let t := after (.homeWriteAck 0) (at_ 1)
    let u := after (.homeWriteAck 0) (at_ 2)
    let z := { s with flue := { s.flue with zeroing := [0, 1] } }
    !s.homeOpen 0 && (at_ 1).writeCtx 0 == some (2, 1) && LEntry.state (t.entry 0) == 0 && t.obj Obj.RZ_COMBINED == 1 && t.flue.ctxs == [] &&
    (at_ 2).writeCtx 0 == some (2, 2) && u == at_ 1 && after (.arrivalZeroWriteAck 0) z == { z with flue := { z.flue with zeroing := [1] } }) = true := by
  decide +kernel

/-- The row of entry 0, once settled: 2.0 times the weight 1.0, first channel. -/
theorem test_combine : (let s := expecting busyWorld
    let s := s.setPos 1 0 0 { inst := 0, weight := 0x3C00, rstate := 4, ctx := 1 }
    let s := { s with flue := { s.flue with combineQ := [0], ctxs := [{ num := 1, use := .row 0 0 false ([0, 0x40] ++ List.replicate 510 0) }] } }
    let t := after (.orderedCombine false) s
    !s.dropped (flying (stepDesc [])) 0 && s.combineCtx (stepDesc []) 0 == some 1 && t.flue.combineQ == [] && t.flue.ctxs == [{ num := 1, use := .write 0 1 }]) = true := by
  decide +kernel

/-- Every position of the token is CLOSED: a zero row. -/
theorem test_combine_dropped : (let s := expecting busyWorld
    let s := s.setPos 1 0 0 { inst := 0, weight := 0x3C00, rstate := 6, ctx := 0 }
    let s := { s with flue := { s.flue with combineQ := [0] } }
    let t := after (.orderedCombine false) s
    s.dropped (flying (stepDesc [])) 0 && !Desc.dropWrite (stepDesc []) && !Desc.arrival (stepDesc []) &&
    t.flue.combineQ == [] && t.flue.zeros == [(0, 1)] && t.obj Obj.RZ_ZERO_ROWS == 1 && objsBut [Obj.RZ_ZERO_ROWS] s t) =
    true := by decide +kernel

theorem test_combine_error : (let s := expecting busyWorld
    let s := s.setPos 1 0 0 { inst := 0, weight := 0x3C00, rstate := 5, ctx := 0 }
    let s := { s with flue := { s.flue with combineQ := [0] } }
    let t := after (.orderedCombine true) s
    s.stagedPos (stepDesc []) 0 == some 0 && t.steps.b0.map (fun u => (u.ended, u.cancelled)) == some (.marked 0x1D, true)) =
    true := by decide +kernel

/-! ### Cancellation and re-runs -/

/-- Bank 0's step is fenced. -/
def fenced (f : CFence) : State :=
  let s := busyWorld
  { s with steps := { b0 := some { flying (stepDesc []) with cancelled := true, ended := .cancelled, fence := some f }, b1 := none }, core := 100 }

def fence0 : CFence := { since := 40, receipts := [], missing := 0, poison := false, swept := false }

def drain0 : Drain := { key := { stepId := 9, batch := 5 }, group := 1, place := 0, bank := false, failed := true }

theorem test_drain : (let s := fenced fence0
    let t := after (.drainReceipt (drainPkt drain0 2 0)) s
    let w := fenced { fence0 with swept := true }
    let v := after (.drainReceipt (drainPkt drain0 2 0)) w
    let u := after (.drainReceipt (drainPkt drain0 2 0)) (inMode .running)
    t == fenced { fence0 with receipts := [2], poison := true } && u.obj Obj.RZ_STALE_RETURN == 1 &&
    v.obj Obj.RZ_STALE_RETURN == 1 && v.steps == w.steps) = true := by decide +kernel

theorem test_fence : (let s := fenced fence0
    let t := after (.cancelFenceComplete false) s
    let v := { fenced { fence0 with swept := true } with flue := { s.flue with ledger := [(0, LEntry.setState 0 7), (1, LEntry.setState 0 2)] } }
    let u := after (.bankSweepDone false) v
    s.missingReceipts ((s.steps.b0).getD (newStep 0)) fence0 == 0 && s.ownWritesDone false { stepId := 9, batch := 5 } &&
    t.obj Obj.RZ_CANCEL_FENCE_MAX == 60 && t.steps == (fenced { fence0 with swept := true }).steps &&
    u.steps.b0.map (fun x => (x.retired, x.fence)) == some (true, none) && LEntry.state (u.entry 0) == 0 && LEntry.state (u.entry 1) == 2) = true := by
  decide +kernel

theorem test_fence_fails : (let t := after (.cancelFenceTimeout false) (fenced { fence0 with poison := true })
    t.mode == .faulted && t.obj Obj.RZ_STATE_REASON == 9) = true := by decide +kernel

theorem test_watchdog : (let x := { flying (stepDesc [(159, 128, 100)]) with model := { (newStep 0).model with tSs := 50, tAd := 1000, tDi := 2000, tCe := 3000 } }
    let s := { world .cleared (some x) with core := 110 }
    let t := after (.stepWatchdog false) s
    overrunPhase x s.role (s.since x.t0) == some (0, 110) && t.steps.b0.map (fun u => (u.ended, u.cancelled)) == some (.marked 0x22, true) &&
    t.obj Obj.RZ_WATCHDOG == 1) = true := by decide +kernel

theorem test_rerun : (let s := busyWorld
    let t := after (.rerunNotice 9 5 0x22 3) s
    t.steps.b0.map (fun u => (u.ended, u.cancelled)) == some (.marked 0x71, true) && t.obj Obj.RZ_BATCH_EPOCH == 6 &&
    t.obj Obj.RZ_RERUN_COUNT == 1 && after (.rerunNotice 8 5 0x22 3) s == s) = true := by decide +kernel

/-- A marked step that has retired, to go back to. -/
def marked0 : State :=
  let r : Rewind := { offset := 64, frames := [], regs := [1, 2, 3, 4], seed := 77, mask := none, group := 1, blocks := [], seeds := [5], masks := [] }
  let x := { flying (stepDesc []) with cancelled := true, retired := true, ended := .marked 0x22, rewind := some r }
  { world { Seq.cleared with wait := .rewind, pc := 96 } (some x) with accepted := 1 }

theorem test_rewind : (let s := setObjs [(Obj.RZ_RERUN_AUTO, 1), (Obj.RZ_RERUN_LIMIT, 2)] marked0
    let t := after .rewind s
    let v := State.setObj s Obj.RZ_RERUN_AUTO 0
    let u := after .rewind v
    !s.inFlight && t.seq.wait == .fetch && t.seq.pc == 64 && t.seq.regs == [1, 2, 3, 4] && t.seq.keptSeeds == [5] &&
    t.obj Obj.RZ_NOISE_SEED == 77 && t.obj Obj.RZ_REWIND_COUNT == 1 && t.steps.b0.map (fun x => (x.ended, x.rewind)) == some (.rewound, none) &&
    u.seq.wait == .halted 8 && u.seq.pc == 64 && u.obj Obj.RZ_SEQ_STATE == 8 && u.steps == v.steps) = true := by decide +kernel

theorem test_peer_lost : (let s := busyWorld
    let t := after (.peerLost .silent) s
    t.kindle.peerGone && t.seq.refuse && t.mode == .running && t.steps.b0.map (fun u => (u.ended, u.cancelled)) == some (.marked 0x72, true)) = true := by
  decide +kernel

theorem test_lockstep : (let s := State.setObj busyWorld Obj.RZ_SOOT_AUTO 0
    let t := after .lockstepMismatch s
    t.mode == .faulted && t.obj Obj.RZ_STATE_REASON == 9 && t.obj Obj.RZ_SEQ_STATE == 0) = true := by decide +kernel

/-! ### The rack fabric -/

/-- A request of node 3 to node 0, at address 0x1000. -/
def request (op len : Nat) (more : List (Nat × Nat × Nat)) : BitVec 256 :=
  fieldsOf 256 ([(255, 250, op), (228, 212, 3), (194, 183, 1), (178, 162, len), (127, 80, 0x1000)] ++ more)

/-- What Taken asks, as a test. -/
def taken (s : State) (h : BitVec 256) : Bool :=
  s.fabOpenIn && s.addressed h && decide (s.ageOf h < 1995) && FHdr.reservedOk h && FHdr.share h != 0 && efmtOk h &&
  portFor s.fabUp (FHdr.srcNode h) == some true

/-- Ports up, this engine in multicast group 1, eight bytes at 0x1000. -/
def fabWorld : State :=
  let s := State.setObj busyWorld Obj.RZ_RCACHE_ENTRIES 16
  { s with mem := Memory.write [] 0x1000 [1, 0, 0, 0, 0, 0, 0, 0x80], tables := { s.tables with mcast := [(1, 1)] } }

/-- A reply from this engine. -/
def told (h : BitVec 256) (st : Nat) (bytes : List Byte) : List Msg := [.fab true (replyHdr 0 h st false bytes.length 0) (.bytes bytes)]

theorem test_load_store : (let s := fabWorld
    let l := request 1 8 []
    let w := request 2 4 []
    let m := request 3 4 [(141, 134, 1)]
    let t := after (.store w [9, 8, 7, 6]) s
    let u := after (.mstore m [9, 8, 7, 6]) s
    taken s l && memCheck l [] == none && (after (.load l) s).egress == told l 0 [1, 0, 0, 0, 0, 0, 0, 0x80] &&
    taken s w && memCheck w [9, 8, 7, 6] == none && t.mem == s.mem.write 0x1000 [9, 8, 7, 6] && t.egress == told w 0 [] &&
    taken s m && u.mem == t.mem && u.egress == told m 0 [] && u.fabric.mreplied == [mreplyOf m]) = true := by decide +kernel

theorem test_load_store_bad : (let s := fabWorld
    let l := request 1 6 []
    let w := request 2 4 [(127, 80, memEnd)]
    let m := request 3 4 [(141, 134, 1)]
    memCheck l [] == some 5 && (after (.load l) s).egress == told l 5 [] && memCheck w [9, 8, 7, 6] == some 4 &&
    after (.store w [9, 8, 7, 6]) s == { s with egress := told w 4 [] } && memCheck m [9] == some 5 &&
    after (.mstore m [9]) s == { s with egress := told m 5 [] }) = true := by decide +kernel

theorem test_atomics : (let s := fabWorld
    let a (op : Nat) := request op (if op = 10 then 16 else 8) []
    let one : List Byte := [1, 0, 0, 0, 0, 0, 0, 0x80]
    let ok (i : Instr) (h : BitVec 256) (new : List Byte) : Bool :=
      let t := after i s
      taken s h && s.rcLookup h == none && !s.rcFull && t.mem.read 0x1000 8 == new &&
      t.egress == [.fab true (replyHdr 0 h 0 false 0 0x8000000000000001) (.bytes [])] && t.fabric.rcache.length == 1
    ok (.atomFadd (a 8) one false) (a 8) [2, 0, 0, 0, 0, 0, 0, 0] && ok (.atomSwap (a 9) [7, 0, 0, 0, 0, 0, 0, 0] false) (a 9) [7, 0, 0, 0, 0, 0, 0, 0] &&
    ok (.atomCas (a 10) (one ++ [5, 0, 0, 0, 0, 0, 0, 0]) false) (a 10) [5, 0, 0, 0, 0, 0, 0, 0] &&
    ok (.atomCas (a 10) (List.replicate 16 0) false) (a 10) one) = true := by decide +kernel

/-- FP32 1.0 + 1.0 and the larger of 1.0 and -2.0; 32-bit integers that wrap; a NaN. -/
theorem test_reductions : (let s := { fabWorld with mem := Memory.write [] 0x1000 [0, 0, 0x80, 0x3F] }
    let h (op e : Nat) := request op 4 [(145, 142, e)]
    let add (e : Nat) (v : List Byte) := (after (.redAdd (h 16 e) v false) s).mem.read 0x1000 4
    let max (e : Nat) (v : List Byte) := (after (.redMax (h 17 e) v false) s).mem.read 0x1000 4
    taken s (h 16 0) && memCheck (h 16 0) [0, 0, 0x80, 0x3F] == none && taken s (h 17 2) && s.mem.wf &&
    add 0 [0, 0, 0x80, 0x3F] == [0, 0, 0, 0x40] && add 2 [0, 0, 0x80, 0xC0] == [0, 0, 0, 0] &&
    max 0 [0, 0, 0, 0xC0] == [0, 0, 0x80, 0x3F] && max 0 [1, 0, 0x80, 0x7F] == [0, 0, 0xC0, 0x7F] &&
    max 2 [0, 0, 0, 0xC0] == [0, 0, 0x80, 0x3F] && max 4 [0, 0, 0, 0xC0] == [0, 0, 0, 0xC0] &&
    !efmtOk (h 16 3) && efmtOk (h 16 5) && !efmtOk (h 16 6) && efmtSize 4 == 4 && efmtSize 5 == 8) = true := by decide +kernel

/-- Too old by one tick; a SHARE of 0; known to the cache; no room. -/
theorem test_turned_away : (let s := { fabWorld with ftime := { value := 120 * 1995, valid := true, armed := none, before := none } }
    let h := request 8 8 []
    let x := fabWorld
    let c : RcEntry := { src := 3, port := false, tag := 0, gen := 0, origT := 0, status := 0, data := 77, time := 0 }
    let k := { x with fabric := { x.fabric with rcache := [c] } }
    let bad := setFld h 194 183 0
    let t := after (.atomFadd h [] false) s
    let u := after (.atomFadd bad [] false) x
    let v := after (.atomFadd h (List.replicate 8 0) false) k
    let w := after (.atomFadd h (List.replicate 8 0) false) (State.setObj x Obj.RZ_RCACHE_ENTRIES 0)
    s.fabOpenIn && s.addressed h && portFor s.fabUp 3 == some true && taken k h && (State.setObj x Obj.RZ_RCACHE_ENTRIES 0).rcFull &&
    s.ageOf h == 1995 && t.obj Obj.RZ_STALE_REQ == 1 && t.egress == [] && u.egress == told bad 6 [] && k.rcLive c &&
    v.egress == [.fab true (replyHdr 0 h 0 true 0 77) (.bytes [])] && v.obj Obj.RZ_RCACHE_HIT == 1 && v.mem == x.mem &&
    w.egress == told h 3 [] && w.obj Obj.RZ_RCACHE_FULL == 1) = true := by decide +kernel

/-- The last age that is taken; a cache entry that cannot be read; a reserved element format. -/
theorem test_turned_away_more : (let s := { fabWorld with ftime := { value := 120 * 1994, valid := true, armed := none, before := none } }
    let h := request 8 8 []
    let r := request 16 4 [(145, 142, 3)]
    let t := after (.atomFadd h (List.replicate 8 0) true) fabWorld
    let u := after (.redAdd r [0, 0, 0, 0] false) fabWorld
    taken s h && taken fabWorld h && t.egress == told h 7 [] && t.mem == fabWorld.mem && t.fabric == fabWorld.fabric &&
    u.egress == told r 6 []) = true := by decide +kernel

/-- Returns over the fabric: of no open step, of a wrong length, with a payload that fails, a receipt, and a row. -/
theorem test_flue_store : (let s := expecting fabWorld
    let h (n : Nat) := request 5 n []
    let stale := returned [(93, 78, 0), (125, 94, 8)]
    let row := returned [(93, 78, 0)]
    let receipt := receiptOf row false
    let go (p : Packet) (n : Nat) (chk : Arrival) := after (.flueStore (h n) p chk false) s
    taken s (h 32) && s.rcLookup (h 32) == none && !s.rcFull && (go stale 32 .clean).egress == told (h 32) 0 [] && (go stale 32 .clean).obj Obj.RZ_STALE_RETURN == 1 &&
    go row 36 .clean == { s with egress := told (h 36) 5 [] } && (go row 32 .parity).egress == told (h 32) 1 [] &&
    ((go receipt 32 .clean).pos 1 0 0).rstate == 6 && (go receipt 32 .clean).egress.getLast? == (told (h 32) 0 []).head? &&
    ((go row 32 .clean).pos 1 0 0).rstate == 4 && (go row 32 .clean).egress == told (h 32) 0 []) = true := by decide +kernel

/-- A cancel notice on its way to node 2. -/
def noticeOp : FabOp :=
  { port := false, tag := 5, gen := 1, origT := 0, seq := 0, dst := 2, attempt := 0, lastPort := false, epoch := 0, firstAt := 0, lastAt := 0
    hdr := reqFields 0x04 6 32 0 0 0, body := .bytes [], serve := .notice none, members := [] }

def waitingOp (now : Nat) : State := { fabWorld with core := now, fabric := { fabWorld.fabric with ops := [noticeOp] } }

theorem test_reply : (let s := waitingOp 0
    let h : BitVec 256 := fieldsOf 256 [(255, 250, 0x20), (248, 239, 5), (238, 237, 1)]
    let t := after (.reply (.fab h [])) s
    let o := after (.reply (.fab (setFld h 238 237 2) [])) s
    s.openFor (setFld h 238 237 2) == none && s.openFor h == some noticeOp && s.replyFormed h && t == { s with fabric := { s.fabric with ops := [] } } &&
    o.obj Obj.RZ_REPLY_ORPHAN == 1 && o.fabric == s.fabric) = true := by decide +kernel

theorem test_reply_peer : (let c : Ctx := { num := 4, path := .peer, dest := 1, hdr := pairHdr [], replays := 0, st := .sent }
    let s := { busyWorld with core := 8, bellows := { busyWorld.bellows with ctxs := [c] } }
    let p := returned []
    let r := { s with flue := { s.flue with ctxs := [{ num := 2, use := .send p 0 }] } }
    let x := pairHdr [(80, 49, 1)]
    let b := after (.reply (.peer (pairHdr []) 2)) s
    s.sentCtx (pairHdr []) == some 4 && s.dispCtx 4 == some c && r.sendCtx p.hdr == some 2 && s.keyStep (DHdr.key x) == none &&
    s.bankOf (DHdr.key c.hdr) == some false && b.steps.b0.map (fun x => (x.broken, x.resend)) == some (true, true) &&
    (after (.reply (.peer (pairHdr []) 0)) s).bellows.ctxs == [] &&
    b.bellows.ctxs == [{ c with st := .backoff 8 }] &&
    after (.reply (.peer p.hdr 0)) r == { r with flue := { r.flue with ctxs := [] } } && after (.reply (.gate x 1)) s == s) = true := by
  decide +kernel

theorem test_retry_timer : (let s := waitingOp 240000
    let t := after (.fabricRetryTimer false 5) s
    let v := waitingOp 2160000
    let u := after (.fabricUnknown false 5) v
    t.fabric.ops == [nextTry s noticeOp false] && t.egress.length == 1 && t.obj Obj.RZ_FAB_RETRY == 1 &&
    after (.fabricRetryTimer false 5) (waitingOp 239999) == waitingOp 239999 && u.fabric.ops == [] && u.obj Obj.RZ_FAB_UNKNOWN == 1) =
    true := by decide +kernel

/-- The last moment of a retry; the unknown end after eight attempts. -/
theorem test_retry_limits : (let at_ (now n : Nat) : State :=
      { fabWorld with core := now, fabric := { fabWorld.fabric with ops := [{ noticeOp with attempt := n }] } }
    let t := after (.fabricRetryTimer false 5) (at_ 1920000 7)
    let u := after (.fabricUnknown false 5) (at_ 240000 8)
    t.fabric.ops == [nextTry (at_ 1920000 7) { noticeOp with attempt := 7 } false] && u.fabric.ops == [] &&
    u.obj Obj.RZ_FAB_UNKNOWN == 1 && u.egress == []) = true := by decide +kernel

theorem test_routes : (let s := waitingOp 10
    let t := after (.drain false 0) s
    let u := after (.drain false 3) s
    let v := after (.routeChange false 3) s
    t.fabric.ops == [nextTry s noticeOp false] && t.egress.length == 1 && u == s && (v.fabric.ports.get false).epoch == 3 &&
    v.obj Obj.RZ_ROUTE_CHANGE == 1 && v.egress == [] && (after (.routeChange false 0) s).obj Obj.RZ_EPOCH_WRAP_LOSS == 1) = true := by
  decide +kernel

theorem test_ports : (let s := waitingOp 10
    let t := after (.fabPortDown false) s
    let d := { fabWorld with fabric := { fabWorld.fabric with ports := State.reset.fabric.ports, gateUp := false } }
    let u := after (.fabricPortsUp (some 4) (some 5) true) d
    !d.fabric.rcReady && u.fabric.rcReady && u.fabric.rcache == [] && !t.fabUp false && t.fabric.ops == [nextTry s noticeOp true] && d.rcacheSet && u.fabric.ports.b0.up && u.fabric.ports.b1.epoch == 5 && u.fabric.hold &&
    u.fabric.gateUp && fabWorld.fabric.hold &&
    after .fabricSendHoldEnd fabWorld == { fabWorld with fabric := { fabWorld.fabric with hold := false } }) = true := by decide +kernel

/-- A port that was down alone comes up again; the reply cache keeps its entries. -/
theorem test_port_back : (let c : RcEntry := { src := 3, port := false, tag := 0, gen := 0, origT := 0, status := 0, data := 77, time := 0 }
    let s := { fabWorld with fabric := { fabWorld.fabric with rcReady := true, hold := false, rcache := [c] } }
    let s := after (.fabPortDown false) s
    let t := after (.fabricPortsUp (some 6) (some 9) false) s
    s.rcacheSet && !s.fabUp false && t.fabUp false && (t.fabric.ports.get false).epoch == 6 &&
    t.fabric.ports.get true == s.fabric.ports.get true && t.fabric.rcache == [c] && !t.fabric.hold && t.mem == s.mem) =
    true := by decide +kernel

/-! ### Time, temperature, faults, test -/

theorem test_ftime_next : (let s := { inMode .ready with core := 7 }
    let t := after (.ftimeNextWrite .port rq 2400000) s
    let u := after (.ftimeNextWrite .port rq 3600000) { t with core := 9 }
    let v := after (.ftimeNextWrite .port rq 3600000) t
    t.obj Obj.RZ_FTIME_NEXT == 2400000 && t.ftime.armed == some 7 && t.ftime.before == none && objsBut [Obj.RZ_FTIME_NEXT] s t &&
    u.ftime.armed == some 9 && u.ftime.before == some 2400000 && v.ftime.armed == some 7 && v.ftime.before == none &&
    (after (.ftimeNextWrite .port rq 2400001) s).ftime.armed == none) = true := by decide +kernel

def timed (v : Nat) (valid : Bool) (armed : Option Nat) : State :=
  State.setObj { inMode .ready with
    core := 50, ftime := { value := BitVec.ofNat 64 v, valid := valid, armed := armed, before := none } } Obj.RZ_FTIME_NEXT 2400000

theorem test_timepulse : (let s (v : Nat) (valid armed : Bool) : State := timed v valid (if armed then some 49 else none)
    let go (v : Nat) (valid armed : Bool) := after .timepulse (s v valid armed)
    let off := (go 1200013 true false).ftime.valid
    !off && (s 0 false true).readsPins && (s 0 false true).clocked && (go 0 false true).ftime == { value := 2400000, valid := true, armed := none, before := none } &&
    (go 0 false true).bellows.incarn == some 2 && (go 1200003 true false).ftime.value == 1200000 &&
    (go 1200003 true false).obj Obj.RZ_FTIME_STEP == 0 && (go 1200005 true false).obj Obj.RZ_FTIME_STEP == 1 &&
    (go 1200005 true false).ftime.valid && (go 1200012 true false).ftime.valid && (go 1200004 true false).obj Obj.RZ_FTIME_STEP == 0 &&
    (go 1199988 true false).ftime == { value := 1200000, valid := true, armed := none, before := none } &&
    { go 5 false false with pins := (s 5 false false).pins } == s 5 false false && (go 5 false false).pins.timeEdge == some 50 &&
    !(after .timepulseMissed (s 5 true false)).ftime.valid) = true := by decide +kernel

/-- A pulse in the cycle of the write: it finds nothing armed, or what was armed before. -/
theorem test_timepulse_write : (let s := timed 1200003 true (some 50)
    let b := { s with ftime := { s.ftime with before := some 3600000 } }
    let t := after .timepulse s
    let u := after .timepulse b
    t.ftime == { s.ftime with value := 1200000 } && u.ftime == { value := 3600000, valid := true, armed := some 50, before := none } &&
    u.bellows.incarn == some 3) = true := by decide +kernel

theorem test_throttle : (let s := inMode .running
    let u := inMode .ready
    let t := after (.thermalSample 1000 1100 1099 0) s
    let v := after (.thermalSample 1000 1100 1099 0) u
    t.obj Obj.RZ_TJ == 1100 && t.obj Obj.RZ_TJ_MAX == 1100 && decide (i32 (s.obj Obj.RZ_THROTTLE_EXIT) ≤ 1100) &&
    s.therm == Therm.cleared && t.therm.change == some (true, 0) && !t.therm.throttled && t.obj Obj.RZ_THROTTLE_COUNT == 1 &&
    v.therm.change == none && v.therm.throttled) = true := by decide +kernel

theorem test_cool : (let s := inMode .running
    let s := { s with core := 12000000, therm := { s.therm with throttled := true, coolSince := some 0 } }
    let t := after (.thermalSample 0 0 0 0) s
    decide (0 < i32 (s.obj Obj.RZ_THROTTLE_EXIT)) && t.therm.change == some (false, 12000000) &&
    !(after (.thermalSample 0 0 0 0) { s with mode := .ready }).therm.throttled) = true := by decide +kernel

theorem test_hot : (let s := busyWorld
    let t := after (.thermalSample 1200 0 0 0) s
    let r := after (.thermalSample 1200 0 0 0) (inMode .ready)
    !t.log.replay && t.therm.bankWait && t.seq.wait == .none && t.mode == .running && t.obj Obj.RZ_THERMAL_BANK == 1 &&
    t.steps.b0.map (·.cancelled) == some true && r.therm.jobsHeld && r.mode == .ready) = true := by decide +kernel

theorem test_thermal_bank : (let s := inMode .running
    let s := setObjs [(Obj.RZ_SOOT_AUTO, 0)] { s with therm := { s.therm with bankWait := true } }
    let t := after .thermalBankEntry s
    !s.inFlight && t.mode == .banked && t.obj Obj.RZ_STATE_REASON == 8 && !t.therm.bankWait) = true := by decide +kernel

theorem test_stoke : (let s := { inMode .running with core := 2400000 }
    let at_ (x : Stoke) : State := { s with therm := { s.therm with stoke := x } }
    let on (sw : Bool) (e : Option Nat) : State := at_ (.on 0 sw e)
    let lim := State.setObj (on true none) Obj.RZ_STOKE_LIMIT 2
    let t := after .stokeLimitExpiry lim
    let u := after .frequencyChangeDeadline (on true (some 1200000))
    let hot (v : BitVec 32) : State := after (.thermalSample v v v v) (on false none)
    (after .stokeRampEnd (on false none)).therm.stoke == .on 0 true none && t.therm.stoke == .off && t.therm.cooldown &&
    t.readObj Obj.RZ_STOKE_MS == 2 && u.therm.stoke == .off && u.therm.cooldown && u.readObj Obj.RZ_STOKE_MS == 2 &&
    (hot 1050).therm.stoke == .on 0 false (some 2400000) && (hot 1050).obj Obj.RZ_THROTTLE_COUNT == 1 &&
    (hot 1049).therm.stoke == .on 0 false none && ((hot 1100).obj Obj.RZ_ALERT_CAUSE).testBit 5 &&
    after .frequencyChangeDeadline (on true (some 1200001)) == on true (some 1200001) &&
    !(after .stokeCooldownEnd t).therm.cooldown) = true := by decide +kernel

theorem test_change_deadline : (let s := { busyWorld with core := 1200000, therm := { busyWorld.therm with change := some (true, 0) } }
    let t := after .frequencyChangeDeadline s
    t.therm.throttled && t.therm.change == none && t.steps.b0.map (fun x => (x.broken, x.throttle)) == some (true, true)) = true := by
  decide +kernel

/-- An array error that the patrol finds. -/
def scrubbed (a : ArrayId) (index : Nat) (double : Bool) (syn : BitVec 32) : Instr :=
  .patrolScrub (some { array := a, index := index, double := double, syndrome := syn }) false

/-- A corrected error in the ledger, and the same again within a millisecond. -/
theorem test_soot : (let s := { inMode .ready with core := 7 }
    let i := scrubbed .ledger 7 false 0x33
    let t := after i s
    let u := after i t
    let e := Tabs.get sootZero t.soot.ring 0
    t.obj Obj.RZ_SOOT_HEAD == 1 && t.obj Obj.RZ_SECDED_CORR == 1 && fld e 255 248 == 0x12 && fld e 247 245 == 1 && fld e 63 32 == 0x33 &&
    fld e 31 0 == 0 && u.obj Obj.RZ_SOOT_HEAD == 1 && fld (Tabs.get sootZero u.soot.ring 0) 239 224 == fld e 239 224 + 1 &&
    u.obj Obj.RZ_SECDED_CORR == 2) = true := by decide +kernel

/-- The queue of 64 events is full in this cycle; the entry after a lost event says so; a full ring. -/
theorem test_soot_lost : (let s := { inMode .ready with core := 7 }
    let q := { s with soot := { s.soot with queued := 64, cycle := 7 } }
    let t := after (scrubbed .ledger 7 false 0x33) q
    let u := after (scrubbed .ledger 7 false 0x33) { t with core := 8 }
    let w := setObjs [(Obj.RZ_SOOT_HEAD, 1024), (Obj.RZ_SOOT_ALERT_SEV, 1)] s
    let v := after (scrubbed .ledger 7 false 0x33) w
    q.sootQueued == 64 && t.obj Obj.RZ_SOOT_LOST == 1 && t.soot.lost && t.obj Obj.RZ_SOOT_HEAD == 0 && t.obj Obj.RZ_SECDED_CORR == 1 &&
    fld (Tabs.get sootZero u.soot.ring 0) 240 240 == 1 && !u.soot.lost && u.soot.queued == 1 &&
    v.obj Obj.RZ_SOOT_TAIL == 1 && v.obj Obj.RZ_SOOT_HEAD == 1025 && fld (Tabs.get sootZero v.soot.ring 0) 240 240 == 1 &&
    v.obj Obj.RZ_ALERT_CAUSE == 4) = true := by decide +kernel

theorem test_clocks : (let s := setObjs [(Obj.RZ_SOOT_AUTO, 0)] fabWorld
    let go (n : BitVec 5) := after (.clockLoss n) s
    s.watched 0 && (go 0).mode == .faulted && (go 0).obj Obj.RZ_STATE_REASON == 9 && s.watched 3 && !(go 3).diePresent 0 &&
    (go 3).mode == .running && s.watched 12 && !(go 12).fabUp true && (go 12).fabUp false && s.watched 13 && !(go 13).gateOpen &&
    s.watched 22 && (go 22).obj Obj.RZ_CLK_LOST == 0x400000 && (go 22).mode == .running && s.watched 21) = true := by decide +kernel

theorem test_parity : (let s := fabWorld
    let t := after (.datapathParityError 1 2 false (some false)) s
    let u := after (.datapathParityError 1 2 true (some false)) s
    let v := after (.datapathParityError 1 2 false none) s
    t.steps.b0.map (·.broken) == some true && t.obj Obj.RZ_PARITY_REPLAY == 1 && v.steps == s.steps &&
    u.steps.b0.map (fun x => (x.ended, x.cancelled)) == some (.marked 0x11, true)) = true := by decide +kernel

theorem test_scrub : (let s := fabWorld
    let t := after (scrubbed .hist 5 true 0) s
    let p := after (.patrolScrub none true) { s with core := 2400000 }
    let u := after (scrubbed .groupTable 4097 true 0) s
    p.obj Obj.RZ_SCRUB_LAST == 2 && s.arrayLive .hist && s.arrayLive .groupTable &&
    t.steps.b0.map (fun x => (x.ended, x.cancelled)) == some (.marked 0x16, true) && t.obj Obj.RZ_SECDED_UNCORR == 1 &&
    u.tables.badGroups == [1] && u.steps == s.steps) = true := by decide +kernel

theorem test_jtag : (let s := setObjs [(Obj.RZ_DBG_LIST_LEN, 1)] (inMode .ready)
    let t := after .idcode s
    let u := after (.bypass 0xFF) s
    let w := after .muxCapture s
    s.dbgSel == [0] && t.egress.length == 1 && t.pins.jtagIr == 1 &&
    u.pins == { s.pins with jtagIr := 0xFF, jtagDr := 0 } && u.egress == [.jtag 1 0] && w.egress == [.jtag 256 0xA5C3]) = true := by
  decide +kernel

/-- The list in force is not yet the one just written; with DBG's clock lost the last frame is held. -/
theorem test_capture : (let s := setObjs [(Obj.RZ_DBG_LIST_LEN, 1), (Obj.RZ_DBG_SEL0, 5)] (inMode .ready)
    let s := { s with pins := { s.pins with dbgList := [0xFFF], dbgZero := 1 } }
    let z := { s with pins := { s.pins with dbgList := [0] } }
    let l := State.setObj { s with pins := { s.pins with dbgObs := [0x77] } } Obj.RZ_CLK_LOST 0x200000
    let got (s : State) : BitVec 256 := (after .muxCapture s).pins.jtagDr
    s.dbgSel == [5] && got s == 0 && got z == 0x5A3C && got l == 0x77) = true := by decide +kernel

theorem test_frames : (let s := setObjs [(Obj.RZ_DBG_LIST_LEN, 1), (Obj.RZ_DBG_PIN_EN, 1)] (inMode .ready)
    let t := after .dbgFrame s
    let u := after .dbgFrame t
    let v := after .dbgFrame (State.setObj s Obj.RZ_DBG_SEL0 0xFFF)
    s.dbgDriven && t.egress == [.dbg [0xA5C3]] && u.egress == [.dbg [0xA5C3], .dbg [0x5A3C]] && v.egress == [.dbg [0]]) = true := by
  decide +kernel

theorem test_glitch : (let s := setObjs [(Obj.RZ_SOOT_AUTO, 0)] (inMode .running)
    let k := setObjs [(Obj.RZ_TRAY_MASTER, 1), (Obj.RZ_SOOT_AUTO, 0)] (kindling 9)
    let t := after (.syncGlitch 3 false) s
    let u := after (.syncGlitch 3 false) k
    s.readsSync && !s.foreignEdge false && t.obj Obj.RZ_SYNC_GLITCH == 1 && { after (.syncGlitch 4 false) s with pins := s.pins } == s &&
    (after (.syncGlitch 17 false) s).obj Obj.RZ_SYNC_GLITCH == 1 && (after (.syncGlitch 81 false) s).obj Obj.RZ_SYNC_GLITCH == 1 &&
    t.pins.syncUntil == 12 && k.readsSync &&
    k.foreignEdge false && u.mode == .faulted && u.obj Obj.RZ_STATE_REASON == 10) = true := by decide +kernel

/-! ### The manual's worked numbers -/

/-- The step of chapter 2's worked example, on its placement: 65,536 tokens, 64 experts, K 8, d_model 4,096. -/
def exampleDesc : BitVec 512 :=
  stepDesc [(415, 396, 65536), (395, 388, 32), (387, 383, 8), (379, 367, 64), (298, 298, 1), (231, 200, 60000), (159, 128, 1100000),
    (127, 96, 1100000), (63, 32, 2000000)]

def exampleWorld : State :=
  let s := world .cleared none
  let inst (e : Nat) : Nat × PEntry := (16 * e, fieldsOf 64 [(63, 63, 1), (58, 42, e / 32), (30, 28, e % 32 / 4)])
  { s with
    tables := { s.tables with
      tensor := [(0, setFld (tensorAt 0) 122 115 32), (1, setFld (tensorAt 1) 122 115 32)]
      place := { b0 := (List.range 64).map inst, b1 := [] } }
    mem := Memory.write [] 0x10080 (toBytes (packed 128 [(20, 10240), (108, 0)])) }

theorem test_timing_example : (let m := exampleWorld.modelOf exampleDesc false 0
    (m.c, m.tS, m.tSs, m.tAd, m.tDi, m.tCe) == (32, 256, 1049104, 1050152, 2358676, 4946897)) = true := by decide +kernel

/-- The ash record at the end of chapter 5. -/
theorem test_ash_example : ashRecord 1 6 5 0 262062 0xCB1F = 0x1600503FFAE0CB1F := by decide

/-- The coordinates of R82's example: POS_ORDER 2, 48 by 64. -/
theorem test_coords_example : (coordsOf (fieldsOf 512 [(430, 429, 2), (428, 416, 48), (415, 403, 64)]) 1000000 == (324, 36, 16)) = true := by decide +kernel

/-- R106's example: experts 1 and 3, FP16 0x3800 each, or 0x3555 without RENORM. -/
theorem test_gate_example : (let logits : List (Nat × F32) := [(0, 0x40000000), (1, 0x7F800000), (2, 0xC0400000), (3, 0x7F800000),
      (4, 0xFF800000), (5, 0x7F800000), (6, 0), (7, 0x40A00000)]
    let go (renorm : Nat) : List (Nat × Nat) :=
      let x := flying (stepDesc [(387, 383, 2), (379, 367, 8), (298, 298, renorm)])
      match busyWorld.gateUnit x [] logits [] 0 with
      | .route slots _ _ _ => slots
      | _ => []
    go 1 == [(1, 0x3800), (3, 0x3800)] && go 0 == [(1, 0x3555), (3, 0x3555)]) = true := by decide +kernel

/-- R148's block of 32: scale, codes, one element that saturates. -/
theorem test_mx_example : (let v : List F32 := [0x41400000, 0xBE9A0000, 0x40500000, 0xC1700000, 0x417C0000] ++ List.replicate 27 0
    let r := mxBlock Fmt.e2m3 2 v
    r.1 == 128 && r.2.1.take 6 == [0x1C, 0x21, 0x0D, 0x3F, 0x1F, 0] && r.2.2 == (1, false)) = true := by decide +kernel

end Sys2Proof.Machine
end

section
/-!
PROOFS. A refused scalar write (R301) changes nothing but its answer and RZ_OD_REFUSED, over every path; RZ_PHASE_ROLE (R5).
-/

namespace Sys2Proof.Machine

variable {s t u : State} {r : OdReq}

/-! ### What an access without an effect changes -/

/-- Beside the answer, in the dictionary's registers or on the way out, only RZ_OD_REFUSED may have changed. -/
structure OnlyAnswered (s t : State) : Prop where
  rest : { t with objs := s.objs, dict := s.dict, egress := s.egress } = s
  objs : ObjsBut [Obj.RZ_OD_REFUSED] s t

theorem OnlyAnswered.refl (s : State) : OnlyAnswered s s := ⟨rfl, .refl s⟩

theorem OnlyAnswered.trans (h : OnlyAnswered s t) (k : OnlyAnswered t u) : OnlyAnswered s u where
  rest := (congrArg (fun x : State => { x with objs := s.objs, dict := s.dict, egress := s.egress }) k.rest).trans h.rest
  objs := h.objs.trans k.objs

/-- Where nothing left the engine, only objects and registers can differ. -/
theorem OnlyAnswered.rest_of_egress (h : OnlyAnswered s t) (e : t.egress = s.egress) :
    { t with objs := s.objs, dict := s.dict } = s := by
  have k := h.rest
  rw [← e] at k
  exact k

theorem State.count_onlyAnswered (s : State) (n : Nat) : OnlyAnswered s (s.count Obj.RZ_OD_REFUSED n) :=
  ⟨rfl, (ObjsBut.refl s).count (by simp)⟩

theorem State.respond_onlyAnswered (s : State) (tag : ReqTag) (op st : Nat) (d : List Byte) :
    OnlyAnswered s (s.respond tag op st d) := ⟨rfl, .of_objs rfl⟩

theorem State.setPort_onlyAnswered (s : State) (r : OdReq) (d : BitVec 64) : OnlyAnswered s (s.setPort r d) := by
  obtain ⟨a, b, h⟩ := s.setPort_window r d
  rw [h]
  exact ⟨rfl, .of_objs rfl⟩

theorem State.keepPort_onlyAnswered (s t : State) (keepData : Bool) : OnlyAnswered t (s.keepPort t keepData) :=
  ⟨rfl, .of_objs rfl⟩

theorem State.answer_onlyAnswered (s : State) (r : OdReq) (op st : Nat) (d : List Byte) :
    OnlyAnswered s (s.answer r op st d) where
  rest := by unfold State.answer; cases r.path <;> dsimp only <;> split <;> rfl
  objs := fun k hk => s.obj_answer r op st d k (by simpa using hk)

/-! ### The answer of a refused access -/

theorem State.obj_answer_refused (s : State) (r : OdReq) (op : Nat) {st : Nat} (d : List Byte) (h : st ≠ St.ok) :
    (s.answer r op st d).obj Obj.RZ_OD_REFUSED = (s.obj Obj.RZ_OD_REFUSED + 1) % 2 ^ 32 := by
  have e : (s.answer r op st d).objs = (s.count Obj.RZ_OD_REFUSED 1).objs := by
    unfold State.answer
    rw [if_neg h]
    cases r.path <;> rfl
  have w : odWidth Obj.RZ_OD_REFUSED = 32 := by decide +kernel
  unfold State.obj
  rw [e, ← w]
  exact State.obj_setObj_self ..

theorem State.answer_egress_mctp (s : State) (op st : Nat) (d : List Byte) (h : r.path = .mctp) :
    (s.answer r op st d).egress = s.egress ++ [.mctp (mctpResponse r.tag op st d)] := by
  unfold State.answer
  rw [h]
  dsimp only
  split <;> rfl

theorem State.answer_egress_inBand (s : State) (op st : Nat) (d : List Byte) (h : r.path ≠ .mctp) :
    (s.answer r op st d).egress = s.egress := by
  unfold State.answer
  cases p : r.path with
  | mctp => exact absurd p h
  | port | window | doorbell => dsimp only; split <;> rfl

/-! ### What becomes of a request -/

theorem State.onRequest_off (scalar : Bool) (run : State → State) (h : s.mode = .off) :
    s.onRequest r scalar run = s := by
  simp [State.onRequest, h]

/-- A request in band that comes has no reserved OP. -/
theorem State.badOp_of_reqComes (h : s.reqComes r = true) (p : r.path ≠ .mctp) : r.badOp = none := by
  unfold State.reqComes at h
  cases q : r.path with
  | mctp => exact absurd q p
  | window => simp [q] at h
  | port | doorbell => simpa [q] using h

/-- A request is lost, is refused while the port is BUSY, is answered for its reserved OP, or is run. -/
theorem State.onRequest_cases (s : State) (r : OdReq) (scalar : Bool) (run : State → State) :
    s.onRequest r scalar run = s ∨
    s.onRequest r scalar run = s.count Obj.RZ_OD_REFUSED 1 ∨
    (r.path = .mctp ∧ ∃ op : Byte, s.onRequest r scalar run =
      (s.count Obj.RZ_OD_REFUSED 1).respond r.tag op.toNat St.badRequest []) ∨
    s.onRequest r scalar run = run s := by
  unfold State.onRequest
  split
  · exact .inl rfl
  · rename_i lost
    split
    · exact .inr (.inl rfl)
    · cases b : r.badOp with
      | none => exact .inr (.inr (.inr rfl))
      | some op =>
        refine .inr (.inr (.inl ⟨?_, op, rfl⟩))
        by_contra p
        have comes : s.reqComes r = true := by
          simp only [Bool.or_eq_true, Bool.not_eq_true', not_or, Bool.not_eq_false] at lost
          exact lost.2
        simp [State.badOp_of_reqComes comes p] at b

theorem State.onRequest_onlyAnswered (s : State) (r : OdReq) (scalar : Bool) {run : State → State}
    (h : OnlyAnswered s (run s)) : OnlyAnswered s (s.onRequest r scalar run) := by
  obtain e | e | ⟨-, op, e⟩ | e := s.onRequest_cases r scalar run <;> rw [e]
  · exact .refl s
  · exact s.count_onlyAnswered 1
  · exact (s.count_onlyAnswered 1).trans (State.respond_onlyAnswered ..)
  · exact h

theorem State.onRequest_egress_inBand (s : State) (scalar : Bool) {run : State → State} (p : r.path ≠ .mctp)
    (h : (run s).egress = s.egress) : (s.onRequest r scalar run).egress = s.egress := by
  obtain e | e | ⟨q, -⟩ | e := s.onRequest_cases r scalar run
  · rw [e]
  · rw [e, State.count_egress]
  · exact absurd q p
  · rw [e, h]

/-! ### A write that fails a check -/

variable {own : OwnRules} {eff : State → State}

theorem odWrite_off (h : s.mode = .off) : odWrite s r own eff = s := State.onRequest_off true _ h

theorem odWrite_onlyAnswered (k : writeStatus s r own ≠ St.ok) : OnlyAnswered s (odWrite s r own eff) := by
  refine s.onRequest_onlyAnswered r true ?_
  simp only [writeStatus_setPort, if_neg k]
  exact (s.setPort_onlyAnswered ..).trans (State.answer_onlyAnswered ..)

theorem odWrite_egress_inBand (k : writeStatus s r own ≠ St.ok) (p : r.path ≠ .mctp) :
    (odWrite s r own eff).egress = s.egress := by
  refine s.onRequest_egress_inBand true p ?_
  simp only [writeStatus_setPort, if_neg k]
  rw [State.answer_egress_inBand _ _ _ _ p, State.setPort_egress]

/-- No condition has the code OK, so the status is OK exactly when none of them is met. -/
theorem firstFail_eq_ok_iff {l : List (Bool × Nat)} (codes : ∀ c ∈ l, c.2 ≠ St.ok) :
    firstFail l = St.ok ↔ ∀ c ∈ l, c.1 = false := by
  induction l with
  | nil => simp
  | cons c l ih =>
    obtain ⟨b, st⟩ := c
    simp only [List.forall_mem_cons] at codes ⊢
    cases b with
    | true => simpa using codes.1
    | false => simpa using ih codes.2

/-- A write that passes finds a state that accepts it and a value that the object takes. -/
theorem accepts_and_odWriteOk_of_writeStatus_ok {row : OdRow} (hr : odRow (odKey r) = some row)
    (k : writeStatus s r own = St.ok) : s.accepts row.acc (odKey r) = true ∧ odWriteOk s row (odVal r) = true := by
  simp only [writeStatus, hr] at k
  have all := (firstFail_eq_ok_iff (by simp)).mp k
  simp only [List.forall_mem_cons, Bool.or_eq_false_iff, Bool.not_eq_false'] at all
  obtain ⟨-, -, -, -, -, ⟨accepted, -⟩, -, ⟨good, -⟩, -⟩ := all
  exact ⟨accepted, good⟩

/-- An RWS object that KINDLING keeps closed takes a write in READY and BANKED; powerFail may show either (R336). -/
theorem State.mode_of_accepts_rws {key : Nat} (hk : key ∉ kindlingWrites)
    (h : s.accepts .rws key = true) : s.mode = .ready ∨ s.mode = .banked ∨ s.mode = .powerFail := by
  cases m : s.mode with
  | ready | banked | powerFail => simp
  | off | running => simp [State.accepts, State.shown, m] at h
  | kindling | faulted => exact absurd (by simpa [State.accepts, State.shown, m] using h) hk

/-! ### RZ_PHASE_ROLE (R5) -/

/-- The object's row in Table 0-5. -/
def phaseRoleRow : OdRow := ⟨Obj.RZ_PHASE_ROLE, .u8, .rws, 0, 0, true, 0⟩

theorem odRow_phaseRole : odRow Obj.RZ_PHASE_ROLE = some phaseRoleRow := by decide +kernel

theorem odWidth_phaseRole : odWidth Obj.RZ_PHASE_ROLE = 8 := by
  simp [odWidth, odRow_phaseRole, phaseRoleRow, OdType.size]

theorem odWriteOk_phaseRole (s : State) (v : Nat) : odWriteOk s phaseRoleRow v = decide (v ≤ 2) := by
  have range : odRanges.lookup Obj.RZ_PHASE_ROLE = some (0, 2) := rfl
  simp [odWriteOk, odTypeOk, odValueOk, phaseRoleRow, range, inRange]

/-- A reserved role code fails the value's range, another state the access RWS. -/
theorem writeStatus_phaseRole_refused (hk : odKey r = Obj.RZ_PHASE_ROLE)
    (h : 2 < odVal r ∨ (s.mode ≠ .ready ∧ s.mode ≠ .banked ∧ s.mode ≠ .powerFail)) :
    writeStatus s r own ≠ St.ok := by
  intro ok
  obtain ⟨accepted, good⟩ := accepts_and_odWriteOk_of_writeStatus_ok (by rw [hk, odRow_phaseRole]) ok
  obtain reserved | ⟨notReady, notBanked, notFailing⟩ := h
  · have range : odVal r ≤ 2 := by simpa [odWriteOk_phaseRole] using good
    omega
  · obtain m | m | m := State.mode_of_accepts_rws (by rw [hk]; decide) accepted <;> contradiction

/-! ### OA_CMD (R305) -/

/-- The request of a write that OA_CMD starts names the object in OA_ADDR. -/
theorem odKey_winReq (tag : ReqTag) (addr : BitVec 64) (len offset : Nat) (d : List Byte) :
    odKey (winReq tag addr len offset d) = fld addr 23 0 :=
  odKey_scalarReq .port tag 0 (Nat.mod_lt _ (by decide))

theorem winReq_path (tag : ReqTag) (addr : BitVec 64) (len offset : Nat) (d : List Byte) :
    (winReq tag addr len offset d).path = .port := rfl

theorem take_leBytes {m n : Nat} (v : Nat) (h : m ≤ n) : (leBytes n v).take m = leBytes m v := by
  induction m generalizing n v with
  | zero => rfl
  | succ m ih =>
    obtain ⟨n, rfl⟩ := Nat.exists_eq_add_of_le' h
    simp [leBytes, ih (v / 256) (Nat.le_add_left m n)]

/-- A one-byte object takes the low byte of OA_DATA. -/
theorem odVal_winReq_byte (tag : ReqTag) (addr data : BitVec 64) (h : odWidth (fld addr 23 0) = 8) :
    odVal (winReq tag addr 0 0 (toBytes data)) = data.toNat % 256 := by
  have written : (winReq tag addr 0 0 (toBytes data)).data = leBytes 8 data.toNat := rfl
  rw [odVal, winReq_path, if_neg (by decide), odKey_winReq, h, written, take_leBytes _ (by decide), leNat_leBytes]
  rfl

/-- OA_CMD 2 does nothing in OFF, is counted while the port is BUSY, and else writes the object of OA_ADDR. -/
theorem State.windowWrite_oaCmd_write (s : State) (ho : r.offset = 0x0110) (hv : leNat r.data = 2)
    (hl : 8 ≤ r.data.length) :
    s.windowWrite r = s ∨ s.windowWrite r = s.count Obj.RZ_OD_REFUSED 1 ∨
    s.windowWrite r = s.keepPort (s.objectWrite (winReq r.tag s.dict.oaAddr 0 0 (toBytes s.dict.oaData))) true := by
  have o : r.offset.toNat = Win.oaCmd := by rw [ho]; rfl
  unfold State.windowWrite
  dsimp only
  rw [o, hv]
  by_cases off : s.mode = .off
  · exact .inl (if_pos off)
  · rw [if_neg off, if_neg (by omega), if_neg (by decide), if_neg (by decide), if_pos rfl]
    by_cases busy : s.portBusy { r with path := .port } = true
    · exact .inr (.inl (if_pos busy))
    · exact .inr (.inr (if_neg busy))

theorem windowWrite_phaseRole_refused (ho : r.offset = 0x0110) (hv : leNat r.data = 2) (hl : 8 ≤ r.data.length)
    (ha : fld s.dict.oaAddr 23 0 = Obj.RZ_PHASE_ROLE)
    (h : 2 < s.dict.oaData.toNat % 256 ∨ (s.mode ≠ .ready ∧ s.mode ≠ .banked ∧ s.mode ≠ .powerFail)) :
    OnlyAnswered s (s.windowWrite r) ∧ (s.windowWrite r).egress = s.egress := by
  obtain e | e | e := s.windowWrite_oaCmd_write ho hv hl <;> rw [e]
  · exact ⟨.refl s, rfl⟩
  · exact ⟨s.count_onlyAnswered 1, rfl⟩
  · have value := odVal_winReq_byte r.tag s.dict.oaAddr s.dict.oaData (by rw [ha, odWidth_phaseRole])
    have refused (own : OwnRules) := writeStatus_phaseRole_refused (own := own)
      ((odKey_winReq r.tag s.dict.oaAddr 0 0 (toBytes s.dict.oaData)).trans ha) (value ▸ h)
    exact ⟨(odWrite_onlyAnswered (refused _)).trans (State.keepPort_onlyAnswered ..),
      odWrite_egress_inBand (refused _) (by simp [winReq_path])⟩

/-- Settles O25: a reserved role code fails the value's check and another state the state's (Table 12-6), and a write that fails
a check changes only its answer and RZ_OD_REFUSED; OA_CMD makes the same request over the object port. -/
theorem phaseRoleWritesRefused : Obligations.PhaseRoleWritesRefused := by
  unfold Obligations.PhaseRoleWritesRefused
  refine ⟨fun s r hk hp h => ?_, fun s r hp ho hv hl ha h => ?_⟩
  · have refused := writeStatus_phaseRole_refused (own := s.ownRules (odKey r) (odVal r)) hk h
    have only : OnlyAnswered s (s.objectWrite r) := odWrite_onlyAnswered refused
    have run : exec (.objectWrite r) s = .next (s.objectWrite r) := congrArg Host.Outcome.next (if_neg hp)
    refine ⟨_, run, only.objs.obj (by decide), only.rest, only.objs, odWrite_off, fun heard => ?_⟩
    rw [State.objectWrite, odWrite_failed heard refused]
    refine ⟨?_, fun mctp => ⟨_, refused, ?_⟩⟩
    · rw [State.obj_answer_refused _ _ _ _ refused, State.obj_setPort]
    · rw [State.answer_egress_mctp _ _ _ _ mctp, State.setPort_egress]
  · obtain ⟨only, silent⟩ := windowWrite_phaseRole_refused ho hv hl ha h
    have run : exec (.objectWrite r) s = .next (s.windowWrite r) := congrArg Host.Outcome.next (if_pos hp)
    exact ⟨_, run, only.objs.obj (by decide), only.objs, only.rest_of_egress silent⟩

end Sys2Proof.Machine
end

section
/-!
PROOFS. The soot log's alert (R353): which severity a posted event is held to, that of its own entry or that of the entry it
merges into.
-/

namespace Sys2Proof.Machine

variable {s : State} {e : SootEv}

/-! ### Alert cause SOOT -/

/-- R353's comparison: a severity at or above the threshold sets the cause. -/
theorem State.sootAlert_sets {sev : Nat} (h : s.obj Obj.RZ_SOOT_ALERT_SEV ≤ sev) :
    ((s.sootAlert sev).obj Obj.RZ_ALERT_CAUSE).testBit Alert.soot = true := by
  rw [State.sootAlert, if_pos h]
  exact s.alert_sets Alert.soot

/-- A state with the same threshold may stand in between. -/
theorem State.sootAlert_sets_of_but {t : State} {ks : List Nat} {sev : Nat} (but : ObjsBut ks s t)
    (m : Obj.RZ_SOOT_ALERT_SEV ∉ ks) (h : s.obj Obj.RZ_SOOT_ALERT_SEV ≤ sev) :
    ((t.sootAlert sev).obj Obj.RZ_ALERT_CAUSE).testBit Alert.soot = true :=
  State.sootAlert_sets ((but.obj m).le.trans h)

/-! ### What an event is held to -/

/-- The entry below HEAD, the newest. -/
def State.sootNewest (s : State) : BitVec 256 :=
  Tabs.get sootZero s.soot.ring ((s.obj Obj.RZ_SOOT_HEAD + 1023) % 1024)

/-- The ring holds 1,024 entries that software has not taken. -/
def State.sootFull (s : State) : Bool :=
  decide (1024 ≤ (s.obj Obj.RZ_SOOT_HEAD + 2 ^ 32 - s.obj Obj.RZ_SOOT_TAIL) % 2 ^ 32)

/-- The event is counted in the newest entry and gets none of its own (R351). -/
def State.SootJoins (s : State) (e : SootEv) : Prop :=
  s.sootNewest ≠ 0 ∧
    sootMerges s.sootNewest (sootEntry s e (s.sootFull || s.soot.lost) 0 (s.obj Obj.RZ_SOOT_HEAD)) = true

/-- The state in which the event is written: it is one more of this cycle's. -/
def State.sootPosted (s : State) : State :=
  { s with soot := { s.soot with queued := s.sootQueued + 1, cycle := s.core } }

theorem State.soot_eq_sootWrite (h : s.sootQueued < 64) : s.soot_ e = s.sootPosted.sootWrite e :=
  if_neg (Nat.not_le.mpr h)

theorem State.sootPosted_but (s : State) (ks : List Nat) : ObjsBut ks s s.sootPosted := .of_objs rfl

theorem State.sootPosted_joins : s.sootPosted.SootJoins e ↔ s.SootJoins e := Iff.rfl

/-- The test that the log itself makes. -/
theorem State.sootJoins_iff : s.SootJoins e ↔ (decide (s.sootNewest ≠ 0) && sootMerges s.sootNewest
    (sootEntry s e (s.sootFull || s.soot.lost) 0 (s.obj Obj.RZ_SOOT_HEAD))) = true := by
  rw [Bool.and_eq_true, decide_eq_true_eq]
  rfl

/-- A merge changes the ring, then the alert is raised by the severity of the entry that stands there. -/
theorem State.sootWrite_of_joins (h : s.SootJoins e) :
    ∃ u, ObjsBut [] s u ∧ s.sootWrite e = u.sootAlert (fld s.sootNewest 247 245) := by
  refine ⟨_, ?_, if_pos (State.sootJoins_iff.mp h)⟩
  exact .of_objs rfl

/-- A new entry moves the log's pointers, then the alert is raised by the event's own severity. -/
theorem State.sootWrite_of_not_joins (h : ¬s.SootJoins e) :
    ∃ u, ObjsBut [Obj.RZ_SOOT_HEAD, Obj.RZ_SOOT_TAIL, Obj.RZ_SOOT_LOST] s u ∧ s.sootWrite e = u.sootAlert e.sev := by
  refine ⟨_, ?_, if_neg (mt State.sootJoins_iff.mpr h)⟩
  refine ObjsBut.count (ObjsBut.trans ?_ (.of_objs rfl)) (by simp)
  split
  · exact ((ObjsBut.refl s).count (by simp)).count (by simp)
  · exact .refl s

/-- Settles O58: an event with room in the queue is written, and what is written last is the alert, held to the severity of the
entry that took the event; the threshold is untouched until then. -/
theorem sootLog : Obligations.SootLog := by
  unfold Obligations.SootLog
  intro s ev room
  rw [State.soot_eq_sootWrite room]
  refine ⟨fun apart high => ?_, fun merges high => ?_⟩
  · obtain ⟨u, but, run⟩ := State.sootWrite_of_not_joins (mt State.sootPosted_joins.mp apart)
    rw [run]
    exact State.sootAlert_sets_of_but ((s.sootPosted_but _).trans but) (by decide) high
  · obtain ⟨u, but, run⟩ := State.sootWrite_of_joins (State.sootPosted_joins.mpr merges)
    rw [run]
    exact State.sootAlert_sets_of_but ((s.sootPosted_but _).trans but) (by decide) high

end Sys2Proof.Machine
end
